-- ==== Sys2Proof/Word.lean ====
section
/-! DEFINITION. The word types of the Roliz instruction set: a 32-bit register word, a byte,
an instruction word of 128 bits (R48, R49), a lane mask of 32 lanes (R25) and a program counter,
held as bits [51:4] because bits [3:0] of a program counter are always zero (R48, R147). -/

namespace Sys2Proof

/-- A register word (R51). -/
abbrev Word := BitVec 32

/-- A byte of memory. -/
abbrev Byte := BitVec 8

/-- One instruction word (R49). -/
abbrev IWord := BitVec 128

/-- A set of lanes of one warp: bit L stands for lane L (R25). -/
abbrev Mask := BitVec 32

/-- Bits [51:4] of a program counter (R48, R147). -/
abbrev Pc := BitVec 48

/-- A 9-bit operand name (R51): 0 to 383 is v0 to v383, 384 to 511 is g0 to g127. -/
abbrev Reg := BitVec 9

end Sys2Proof
end

