-- ==== Sys2Proof/Syntax.lean ====
section
/-! DEFINITION. The syntax of the machine's steps: one constructor of `Instr` per row of
opcode_table.json. The first 170 are the instructions of R67; their operands are gathered in one
structure per instruction shape. The other 100 are the device events of 95_what_each_step_holds.md;
their arguments say which agent or object the event concerns and what arrives from outside. -/

namespace Sys2Proof

/-- The lane types of R60, code 0 ("no type") left out. -/
inductive LTy where
  | s8 | n8 | s16 | n16 | s32 | n32 | s64 | n64 | f16 | bf16 | f32 | f64 | f16x2 | bf16x2
  | b32 | b64 | b128
  deriving DecidableEq, Repr

/-- The 27 format codes of R92: signed binary8 with infinities and finite, unsigned binary8, each
with its precision P from 1 to 7, and the six other formats. -/
inductive Fmt where
  | s8p1 | s8p2 | s8p3 | s8p4 | s8p5 | s8p6 | s8p7
  | s8p1f | s8p2f | s8p3f | s8p4f | s8p5f | s8p6f | s8p7f
  | n8p1 | n8p2 | n8p3 | n8p4 | n8p5 | n8p6 | n8p7
  | int8 | uint8 | int4 | fp16 | bf16 | fp32
  deriving DecidableEq, Repr

/-- The rounding modes of R8 and R97. -/
inductive Rm where
  | nearestEven | towardZero | upward | downward | nearestAway
  deriving DecidableEq, Repr

/-- The cache hints of R57. -/
inductive Hint where
  | default | stream | keep | nol1 | nomsc | last
  deriving DecidableEq, Repr

/-- The scopes of R180 and R250; `none` is the value 0 that goes with plain accesses. -/
inductive Scope where
  | none | warp | block | die | module | system
  deriving DecidableEq, Repr

/-- A guard field (R49, R54): a predicate index and a negate bit. -/
structure Guard where
  neg : Bool
  idx : BitVec 3
  deriving DecidableEq, Repr

/-- The fields that every form shares (R49, R54, R58). -/
structure Hdr where
  g1 : Guard
  g2 : Guard
  sc : BitVec 3
  yl : Bool
  deriving DecidableEq, Repr

/-- The B operand: a register name, or IMM32 in its place when BI = 1 (R59). -/
inductive SrcB where
  | reg (r : Reg)
  | imm (v : Word)
  deriving DecidableEq, Repr

/-- INT with two sources (R116); `sat` must be false in MIN and MAX. -/
structure IntBin where
  h : Hdr
  ty : LTy
  sat : Bool
  cc : Bool
  d : Reg
  a : Reg
  b : SrcB
  deriving DecidableEq, Repr

/-- INT.NEG and INT.ABS (R116). -/
structure IntUn where
  h : Hdr
  ty : LTy
  sat : Bool
  cc : Bool
  d : Reg
  a : Reg
  deriving DecidableEq, Repr

/-- D, A, B of a typed form without modifiers: IMUL.LO, HI, WIDE, IDIV (R118, R119), BIT.BFE (R123). -/
structure Typed2 where
  h : Hdr
  ty : LTy
  d : Reg
  a : Reg
  b : SrcB
  deriving DecidableEq, Repr

/-- D, A, B, C of a typed form without modifiers: IMUL.MADLO, MADHI, MADWIDE (R118), SHIFT.FSHL and
FSHR (R122), BIT.BFI (R123), MOV.BSEL (R124). -/
structure Typed3 where
  h : Hdr
  ty : LTy
  d : Reg
  a : Reg
  b : SrcB
  c : Reg
  deriving DecidableEq, Repr

/-- IDOT.DP4 (R120). -/
structure Dot4 where
  h : Hdr
  ty : LTy
  sat : Bool
  d : Reg
  a : Reg
  b : SrcB
  c : Reg
  deriving DecidableEq, Repr

/-- LOGIC.AND, OR, XOR (R121) and SHIFT.SHL, SHR, SAR (R122). -/
structure Logic2 where
  h : Hdr
  ty : LTy
  cc : Bool
  d : Reg
  a : Reg
  b : SrcB
  deriving DecidableEq, Repr

/-- LOGIC.NOT (R121). -/
structure Logic1 where
  h : Hdr
  ty : LTy
  cc : Bool
  d : Reg
  a : Reg
  deriving DecidableEq, Repr

/-- LOGIC.TRUTH with its table TBL (R121). -/
structure Truth where
  h : Hdr
  ty : LTy
  cc : Bool
  tbl : BitVec 8
  d : Reg
  a : Reg
  b : SrcB
  c : Reg
  deriving DecidableEq, Repr

/-- D, A of a typed form without modifiers: BIT.POPC, CLZ, CTZ, BREV (R123), REDUCE.AND, OR, XOR
(R143), VOTE.MATCH (R145), UMOV.FIRST (R146). -/
structure Typed1 where
  h : Hdr
  ty : LTy
  d : Reg
  a : Reg
  deriving DecidableEq, Repr

/-- MOV (R124). -/
structure MovOp where
  h : Hdr
  ty : LTy
  d : Reg
  b : SrcB
  deriving DecidableEq, Repr

/-- The MOD subfields PSN, BOP, PS, PD of SETP (R125); BOP is 0 none, 1 and, 2 or, 3 xor. -/
structure PredDst where
  psn : Bool
  bop : BitVec 2
  ps : BitVec 3
  pd : BitVec 3
  deriving DecidableEq, Repr

/-- SETP.CMP with its comparison code (R126). -/
structure SetpCmp where
  h : Hdr
  ty : LTy
  p : PredDst
  cmp : BitVec 4
  a : Reg
  b : SrcB
  deriving DecidableEq, Repr

/-- SETP.CCT with its condition test (R127). -/
structure SetpCct where
  h : Hdr
  p : PredDst
  test : BitVec 4
  deriving DecidableEq, Repr

/-- SETP.CLASS with its class mask (R126). -/
structure SetpClass where
  h : Hdr
  ty : LTy
  p : PredDst
  a : Reg
  cls : BitVec 9
  deriving DecidableEq, Repr

/-- PCOMB (R130). -/
structure Pcomb where
  h : Hdr
  pa : BitVec 3
  pb : BitVec 3
  pc : BitVec 3
  pd : BitVec 3
  tbl : BitVec 8
  deriving DecidableEq, Repr

/-- SEL by a predicate (R128). -/
structure SelP where
  h : Hdr
  ty : LTy
  psn : Bool
  ps : BitVec 3
  d : Reg
  a : Reg
  b : SrcB
  deriving DecidableEq, Repr

/-- SEL.CC by a condition test (R128). -/
structure SelCc where
  h : Hdr
  ty : LTy
  test : BitVec 4
  d : Reg
  a : Reg
  b : SrcB
  deriving DecidableEq, Repr

/-- A form with D alone: PMOV.TOREG (R129). -/
structure DOnly where
  h : Hdr
  d : Reg
  deriving DecidableEq, Repr

/-- PMOV.FROMREG (R129). -/
structure PmovFrom where
  h : Hdr
  a : Reg
  mask : BitVec 7
  deriving DecidableEq, Repr

/-- FARITH and DARITH ADD, SUB, MUL (R131, R135). -/
structure Flt2 where
  h : Hdr
  ty : LTy
  rm : Rm
  cc : Bool
  d : Reg
  a : Reg
  b : SrcB
  deriving DecidableEq, Repr

/-- FARITH and DARITH FMA (R131, R135). -/
structure Flt3 where
  h : Hdr
  ty : LTy
  rm : Rm
  cc : Bool
  d : Reg
  a : Reg
  b : SrcB
  c : Reg
  deriving DecidableEq, Repr

/-- FARITH and DARITH MIN, MAX (R132). -/
structure FltMm where
  h : Hdr
  ty : LTy
  nanp : Bool
  cc : Bool
  d : Reg
  a : Reg
  b : SrcB
  deriving DecidableEq, Repr

/-- FARITH and DARITH ABS, NEG (R131). -/
structure Flt1 where
  h : Hdr
  ty : LTy
  cc : Bool
  d : Reg
  a : Reg
  deriving DecidableEq, Repr

/-- FMISC.RINT and DARITH.RINT (R134, R135). -/
structure FltRint where
  h : Hdr
  ty : LTy
  rm : Rm
  d : Reg
  a : Reg
  deriving DecidableEq, Repr

/-- SFU (R136). -/
structure SfuOp where
  h : Hdr
  rm : Rm
  d : Reg
  a : Reg
  deriving DecidableEq, Repr

/-- CVT.I2I, I2F, F2I, F2F (R138, R139). -/
structure CvtOp where
  h : Hdr
  ty : LTy
  lt : LTy
  sat : Bool
  rm : Rm
  d : Reg
  a : Reg
  deriving DecidableEq, Repr

/-- CVT.PACK and UNPACK (R138 to R140). -/
structure PackOp where
  h : Hdr
  fmt : Fmt
  lt : LTy
  sat : Bool
  rm : Rm
  d : Reg
  a : Reg
  deriving DecidableEq, Repr

/-- VPERM (R141). -/
structure VpermOp where
  h : Hdr
  ty : LTy
  pw : Bool
  pd : BitVec 3
  seg : BitVec 3
  d : Reg
  a : Reg
  b : SrcB
  c : Reg
  deriving DecidableEq, Repr

/-- REDUCE.ADD, MIN, MAX (R143). -/
structure ReduceOp where
  h : Hdr
  ty : LTy
  rm : Rm
  nanp : Bool
  d : Reg
  a : Reg
  deriving DecidableEq, Repr

/-- SCAN with its operation: 0 add, 1 min, 2 max, 3 and, 4 or, 5 xor (R144). -/
structure ScanOp where
  h : Hdr
  ty : LTy
  rm : Rm
  nanp : Bool
  op : BitVec 3
  d : Reg
  a : Reg
  deriving DecidableEq, Repr

/-- VOTE.BALLOT (R145). -/
structure BallotOp where
  h : Hdr
  psn : Bool
  ps : BitVec 3
  d : Reg
  deriving DecidableEq, Repr

/-- VOTE.ANY and ALL (R145). -/
structure VoteOp where
  h : Hdr
  psn : Bool
  ps : BitVec 3
  pd : BitVec 3
  deriving DecidableEq, Repr

/-- UMOV.LANE (R146). -/
structure UmovLane where
  h : Hdr
  ty : LTy
  d : Reg
  a : Reg
  b : SrcB
  c : Reg
  deriving DecidableEq, Repr

/-- A form with a displacement in IMM32: BRA, JSET (R152). -/
structure DispOp where
  h : Hdr
  disp : Word
  deriving DecidableEq, Repr

/-- A form with A alone: BRX, RET (R152). -/
structure AOnly where
  h : Hdr
  a : Reg
  deriving DecidableEq, Repr

/-- CALL (R152). -/
structure CallOp where
  h : Hdr
  d : Reg
  disp : Word
  deriving DecidableEq, Repr

/-- CALLX (R152). -/
structure CallxOp where
  h : Hdr
  d : Reg
  a : Reg
  deriving DecidableEq, Repr

/-- A form without operands: JWAIT, EXIT, YIELD, NOP, ERET, WFI (R152). -/
structure Bare where
  h : Hdr
  deriving DecidableEq, Repr

/-- WAITC with its four limit bytes (R65). -/
structure WaitcOp where
  h : Hdr
  tl : BitVec 8
  cp : BitVec 8
  st : BitVec 8
  ld : BitVec 8
  deriving DecidableEq, Repr

/-- SREAD with its special index (R160). -/
structure SreadOp where
  h : Hdr
  d : Reg
  spec : BitVec 4
  deriving DecidableEq, Repr

/-- TRAP and BRK with their argument (R162). -/
structure TrapOp where
  h : Hdr
  code : BitVec 16
  deriving DecidableEq, Repr

/-- CSR.RD (R165). -/
structure CsrRd where
  h : Hdr
  d : Reg
  csr : BitVec 12
  deriving DecidableEq, Repr

/-- CSR.WR (R165). -/
structure CsrWr where
  h : Hdr
  a : Reg
  csr : BitVec 12
  deriving DecidableEq, Repr

/-- The fields that LD, ST, ATOM and RED share (R180): SCOPE, SEM, address form (false VA, true
scratchpad), cache hint, address register and byte offset. SEM is 0 plain, 1 acq, 2 rel, 3 acqrel. -/
structure Acc where
  scope : Scope
  sem : BitVec 2
  sp : Bool
  ch : Hint
  a : Reg
  off : Word
  deriving DecidableEq, Repr

/-- LD (R184). -/
structure LdOp where
  h : Hdr
  ty : LTy
  x : Acc
  bw : Bool
  d : Reg
  deriving DecidableEq, Repr

/-- ST (R184): `b` is the data register. -/
structure StOp where
  h : Hdr
  ty : LTy
  x : Acc
  bw : Bool
  b : Reg
  deriving DecidableEq, Repr

/-- PREF (R191). -/
structure PrefOp where
  h : Hdr
  ch : Hint
  sp : Bool
  a : Reg
  off : Word
  deriving DecidableEq, Repr

/-- CCTL (R192); `all` only in INVL1. -/
structure CctlOp where
  h : Hdr
  all : Bool
  sp : Bool
  a : Reg
  off : Word
  deriving DecidableEq, Repr

/-- ATOM (R188); `c` only in CAS. -/
structure AtomOp where
  h : Hdr
  ty : LTy
  x : Acc
  d : Reg
  b : Reg
  c : Reg
  deriving DecidableEq, Repr

/-- RED (R188). -/
structure RedOp where
  h : Hdr
  ty : LTy
  x : Acc
  b : Reg
  deriving DecidableEq, Repr

/-- FENCE with SCOPE and KIND: 0 acq, 1 rel, 2 acqrel, 3 sc (R190). -/
structure FenceOp where
  h : Hdr
  scope : Scope
  kind : BitVec 2
  deriving DecidableEq, Repr

/-- How a BAR form names its barrier: the index BIDX, or A[7:0] when IX = 1 (R196). -/
inductive BarIx where
  | bidx (i : BitVec 8)
  | reg (a : Reg)
  deriving DecidableEq, Repr

/-- BAR.INIT: arming with expected threads B and base bytes C, or disarming (R196). -/
structure BarInit where
  h : Hdr
  off : Bool
  ix : BarIx
  b : SrcB
  c : Reg
  deriving DecidableEq, Repr

/-- BAR.EXPECT (R196); `rmt` with span position `spc`. -/
structure BarExpect where
  h : Hdr
  rmt : Bool
  spc : BitVec 2
  ix : BarIx
  b : SrcB
  deriving DecidableEq, Repr

/-- BAR.ARRIVE (R196). -/
structure BarArrive where
  h : Hdr
  rmt : Bool
  spc : BitVec 2
  ix : BarIx
  deriving DecidableEq, Repr

/-- BAR.WAIT (R196). -/
structure BarWait where
  h : Hdr
  ix : BarIx
  b : SrcB
  deriving DecidableEq, Repr

/-- QCLAIM (R200). -/
structure QclaimOp where
  h : Hdr
  pd : BitVec 3
  d : Reg
  a : Reg
  b : SrcB
  deriving DecidableEq, Repr

/-- QCOMMIT and QRETIRE (R200): ring A, count B, position C. -/
structure QposOp where
  h : Hdr
  a : Reg
  b : SrcB
  c : Reg
  deriving DecidableEq, Repr

/-- QAWAIT (R200). -/
structure QawaitOp where
  h : Hdr
  d : Reg
  a : Reg
  b : SrcB
  deriving DecidableEq, Repr

/-- PUSH with its target: 0 ring, 1 copy, 2 trav (R203). -/
structure PushOp where
  h : Hdr
  tgt : BitVec 2
  pd : BitVec 3
  a : Reg
  c : Reg
  deriving DecidableEq, Repr

/-- EVSIG (R206): the name from IMM32, or from the uniform register A when `ea`. -/
structure EvsigOp where
  h : Hdr
  ea : Bool
  a : Reg
  ev : BitVec 16
  bym1 : BitVec 16
  deriving DecidableEq, Repr

/-- PUBLISH (R209). -/
structure PublishOp where
  h : Hdr
  scope : Scope
  win : BitVec 8
  deriving DecidableEq, Repr

/-- The UNIT field (R229): `none` is own, `some m` is unit m of the issuing core. -/
abbrev UnitSel := Option (BitVec 2)

/-- MMA (R235). -/
structure MmaOp where
  h : Hdr
  fmt : Fmt
  unit : UnitSel
  za : Bool
  bfmt : Option Fmt
  col : BitVec 2
  fb : BitVec 3
  fa : BitVec 3
  acc : BitVec 7
  deriving DecidableEq, Repr

/-- MSCALE (R239). -/
structure MscaleOp where
  h : Hdr
  unit : UnitSel
  si : Bool
  a : Reg
  col : BitVec 2
  nw : BitVec 2
  fs : BitVec 3
  ts : BitVec 7
  td : BitVec 7
  deriving DecidableEq, Repr

/-- MZERO (R240). -/
structure MzeroOp where
  h : Hdr
  unit : UnitSel
  acc : BitVec 7
  deriving DecidableEq, Repr

/-- MLD and MST (R241); `r` is D of MLD and A of MST. -/
structure MmovOp where
  h : Hdr
  unit : UnitSel
  nc : BitVec 3
  col : BitVec 6
  acc : BitVec 7
  r : Reg
  deriving DecidableEq, Repr

/-- FPUSH (R242). -/
structure FpushOp where
  h : Hdr
  fmt : Fmt
  nr : BitVec 3
  cv : Bool
  sat : Bool
  rm : Rm
  a : Reg
  fifo : BitVec 3
  deriving DecidableEq, Repr

/-- MMODE (R243). -/
structure MmodeOp where
  h : Hdr
  unit : UnitSel
  rm : Rm
  deriving DecidableEq, Repr

/-- MEPI (R244). -/
structure MepiOp where
  h : Hdr
  unit : UnitSel
  it : Bool
  be : Bool
  ce : Bool
  b : Reg
  c : Reg
  col : BitVec 2
  nw : BitVec 2
  fs : BitVec 3
  acc : BitVec 7
  deriving DecidableEq, Repr

/-- The configuration operands of CINIT with CFG = 1 (R288): τ, LOGBASE and LCAP. -/
structure CinitCfg where
  b : SrcB
  c : Reg
  e : Reg
  deriving DecidableEq, Repr

/-- CINIT (R288). -/
structure CinitOp where
  h : Hdr
  log : Bool
  a : Reg
  cfg : Option CinitCfg
  deriving DecidableEq, Repr

/-- CMPS (R288): slot A, term quad C. -/
structure CmpsOp where
  h : Hdr
  a : Reg
  c : Reg
  deriving DecidableEq, Repr

/-- CREAD (R288). -/
structure CreadOp where
  h : Hdr
  d : Reg
  a : Reg
  deriving DecidableEq, Repr

/-- CRETIRE (R288). -/
structure CretireOp where
  h : Hdr
  fl : Bool
  a : Reg
  deriving DecidableEq, Repr

/-- CREPLAY (R327). -/
structure CreplayOp where
  h : Hdr
  d : Reg
  a : Reg
  b : Reg
  c : Reg
  e : Reg
  deriving DecidableEq, Repr

/-- WAITT (R372). -/
structure WaittOp where
  h : Hdr
  rel : Bool
  a : Reg
  deriving DecidableEq, Repr

/-- PCLS (R372). -/
structure PclsOp where
  h : Hdr
  b : SrcB
  deriving DecidableEq, Repr

/-- SWPT (R372). -/
structure SwptOp where
  h : Hdr
  sw : BitVec 8
  deriving DecidableEq, Repr

/-- CKPT (R372). -/
structure CkptOp where
  h : Hdr
  a : Reg
  b : Reg
  ck : BitVec 8
  deriving DecidableEq, Repr

/-- Die A is `false`, die B is `true` (R13). -/
abbrev DieId := Bool

/-- A sequencer of a die (R21, R165): kind 0 front end (numbers 0 to 3) or kind 1 Trivet (number 0). Number
4 of kind 0 names the power sequencer, which posts heartbeats and runs no instruction of R67 (R456). -/
structure SeqId where
  die : DieId
  trivet : Bool
  num : Nat
  deriving DecidableEq, Repr

/-- Who issues an instruction: a warp of a block, named by the block's handle and its WARPID, or a
sequencer (R2, R25). -/
inductive Issuer where
  | warp (block wid : Nat)
  | seq (q : SeqId)
  deriving DecidableEq, Repr

/-- Who writes or reads a Percolator or Trivet register (R335, R340, R455): the host through the
function of a tenant (0 is the physical function), or system firmware on a sequencer. -/
inductive RegWriter where
  | host (tenant : Nat)
  | firmware
  deriving DecidableEq, Repr

/-- The engines that the Trivet restarts (R453). -/
inductive EngineId where
  | copy (core : Nat)
  | traversal (cluster : Nat)
  | matrix (core unit : Nat)
  deriving DecidableEq, Repr

/-- The status of a PCIe completion (R268, R438). -/
inductive PcieStatus where
  | success
  | unsupportedRequest
  deriving DecidableEq, Repr

/-- The data type of a CSI-2 frame: the six that R385 names, and any other code. -/
inductive CsiType where
  | raw8 | raw10 | raw12 | raw16 | yuv422 | embedded
  | other (code : Nat)
  deriving DecidableEq, Repr

/-- Where a sensor frame comes from (R385 to R387): a CSI-2 receiver's virtual channel, or an Ethernet port's traffic
class. -/
inductive FrameSource where
  | csi (receiver channel : Nat) (ty : CsiType)
  | ethernet (port : Bool) (cls : Nat)
  deriving DecidableEq, Repr

/-- A sensor frame: where it comes from and its bytes. -/
structure Frame where
  src : FrameSource
  bytes : List Byte
  deriving DecidableEq, Repr

/-- What one step of the machine is: an instruction of R67 or an event of 95_what_each_step_holds.md. -/
inductive Instr where
  -- 0x0_: integer arithmetic (R116 to R120)
  | intAdd (x : IntBin)
  | intAddc (x : IntBin)
  | intSub (x : IntBin)
  | intSubb (x : IntBin)
  | intNeg (x : IntUn)
  | intAbs (x : IntUn)
  | intMin (x : IntBin)
  | intMax (x : IntBin)
  | imulLo (x : Typed2)
  | imulHi (x : Typed2)
  | imulWide (x : Typed2)
  | imulMadlo (x : Typed3)
  | imulMadhi (x : Typed3)
  | imulMadwide (x : Typed3)
  | idivDiv (x : Typed2)
  | idivRem (x : Typed2)
  | idotDp4 (x : Dot4)
  -- 0x1_: logic, shift, bit and move (R121 to R124)
  | logicAnd (x : Logic2)
  | logicOr (x : Logic2)
  | logicXor (x : Logic2)
  | logicNot (x : Logic1)
  | logicTruth (x : Truth)
  | shiftShl (x : Logic2)
  | shiftShr (x : Logic2)
  | shiftSar (x : Logic2)
  | shiftFshl (x : Typed3)
  | shiftFshr (x : Typed3)
  | bitPopc (x : Typed1)
  | bitClz (x : Typed1)
  | bitCtz (x : Typed1)
  | bitBrev (x : Typed1)
  | bitBfe (x : Typed2)
  | bitBfi (x : Typed3)
  | mov (x : MovOp)
  | movBsel (x : Typed3)
  -- 0x2_: compare, predicate and select (R125 to R130)
  | setpCmp (x : SetpCmp)
  | setpCct (x : SetpCct)
  | setpClass (x : SetpClass)
  | pcomb (x : Pcomb)
  | sel (x : SelP)
  | selCc (x : SelCc)
  | pmovToreg (x : DOnly)
  | pmovFromreg (x : PmovFrom)
  -- 0x3_: FP32 and 16-bit floating point (R131 to R134)
  | farithAdd (x : Flt2)
  | farithSub (x : Flt2)
  | farithMul (x : Flt2)
  | farithFma (x : Flt3)
  | farithMin (x : FltMm)
  | farithMax (x : FltMm)
  | farithAbs (x : Flt1)
  | farithNeg (x : Flt1)
  | fmiscRint (x : FltRint)
  | fmiscCopysign (x : Typed2)
  -- 0x4_: FP64 and special functions (R135 to R137)
  | darithAdd (x : Flt2)
  | darithSub (x : Flt2)
  | darithMul (x : Flt2)
  | darithFma (x : Flt3)
  | darithMin (x : FltMm)
  | darithMax (x : FltMm)
  | darithAbs (x : Flt1)
  | darithNeg (x : Flt1)
  | darithRint (x : FltRint)
  | sfuRcp (x : SfuOp)
  | sfuRsq (x : SfuOp)
  | sfuSqrt (x : SfuOp)
  | sfuEx2 (x : SfuOp)
  | sfuLg2 (x : SfuOp)
  | sfuSin (x : SfuOp)
  | sfuCos (x : SfuOp)
  | sfuTanh (x : SfuOp)
  -- 0x5_: conversion (R138 to R140)
  | cvtI2i (x : CvtOp)
  | cvtI2f (x : CvtOp)
  | cvtF2i (x : CvtOp)
  | cvtF2f (x : CvtOp)
  | cvtPack (x : PackOp)
  | cvtUnpack (x : PackOp)
  -- 0x6_: lane exchange (R141 to R146)
  | vpermIdx (x : VpermOp)
  | vpermUp (x : VpermOp)
  | vpermDown (x : VpermOp)
  | vpermXor (x : VpermOp)
  | reduceAdd (x : ReduceOp)
  | reduceMin (x : ReduceOp)
  | reduceMax (x : ReduceOp)
  | reduceAnd (x : Typed1)
  | reduceOr (x : Typed1)
  | reduceXor (x : Typed1)
  | scanIncl (x : ScanOp)
  | scanExcl (x : ScanOp)
  | voteBallot (x : BallotOp)
  | voteAny (x : VoteOp)
  | voteAll (x : VoteOp)
  | voteMatch (x : Typed1)
  | umovFirst (x : Typed1)
  | umovLane (x : UmovLane)
  -- 0x7_: control flow and system (R152 to R161)
  | bra (x : DispOp)
  | brx (x : AOnly)
  | call (x : CallOp)
  | callx (x : CallxOp)
  | ret (x : AOnly)
  | jset (x : DispOp)
  | jwait (x : Bare)
  | exit (x : Bare)
  | waitc (x : WaitcOp)
  | yield (x : Bare)
  | sread (x : SreadOp)
  | nop (x : Bare)
  -- 0x8_, 0x9_: memory (R180 to R192)
  | ld (x : LdOp)
  | st (x : StOp)
  | prefL1 (x : PrefOp)
  | prefMsc (x : PrefOp)
  | cctlInvl1 (x : CctlOp)
  | cctlWbmsc (x : CctlOp)
  | atomAdd (x : AtomOp)
  | atomMin (x : AtomOp)
  | atomMax (x : AtomOp)
  | atomAnd (x : AtomOp)
  | atomOr (x : AtomOp)
  | atomXor (x : AtomOp)
  | atomXchg (x : AtomOp)
  | atomCas (x : AtomOp)
  | redAdd (x : RedOp)
  | redMin (x : RedOp)
  | redMax (x : RedOp)
  | redAnd (x : RedOp)
  | redOr (x : RedOp)
  | redXor (x : RedOp)
  | fence (x : FenceOp)
  -- 0xA_: barriers, rings, events, chunks, publication (R196 to R209)
  | barInit (x : BarInit)
  | barExpect (x : BarExpect)
  | barArrive (x : BarArrive)
  | barWait (x : BarWait)
  | qclaim (x : QclaimOp)
  | qcommit (x : QposOp)
  | qawait (x : QawaitOp)
  | qretire (x : QposOp)
  | push (x : PushOp)
  | evsig (x : EvsigOp)
  | take (x : DOnly)
  | publish (x : PublishOp)
  -- 0xB_: matrix (R235 to R244)
  | mmaM32N32K64 (x : MmaOp)
  | mmaM32N64K64 (x : MmaOp)
  | mmaM32N16K128 (x : MmaOp)
  | mmaM32N32K32 (x : MmaOp)
  | mmaM32N64K32 (x : MmaOp)
  | mmaM32N32K128 (x : MmaOp)
  | mmaM32N32K8 (x : MmaOp)
  | mscale (x : MscaleOp)
  | mzero (x : MzeroOp)
  | mld (x : MmovOp)
  | mst (x : MmovOp)
  | fpush (x : FpushOp)
  | mmode (x : MmodeOp)
  | mepi (x : MepiOp)
  -- 0xC_: compositor and adjoint (R286 to R288, R327)
  | cinit (x : CinitOp)
  | cmps (x : CmpsOp)
  | cflush (x : AOnly)
  | cread (x : CreadOp)
  | cretire (x : CretireOp)
  | creplay (x : CreplayOp)
  -- 0xD_: time, power, checkpoint (R372 to R377)
  | time (x : DOnly)
  | waitt (x : WaittOp)
  | pcls (x : PclsOp)
  | swpt (x : SwptOp)
  | ckpt (x : CkptOp)
  -- 0xE_: traps and the privileged system class (R162 to R166)
  | trap (x : TrapOp)
  | brk (x : TrapOp)
  | eret (x : Bare)
  | csrRd (x : CsrRd)
  | csrWr (x : CsrWr)
  | wfi (x : Bare)
  -- memory pipeline events
  | loadDataReturn (acc : Nat) (lanes : Mask) (fromL1 lost : Bool)
  | accessPerformed (acc : Nat) (lanes : Mask) (lost : Bool)
  | windowSwitch (pub : Nat)
  | takeServe (take : Nat)
  -- copy-engine events: the engine of a core of a die, serving a block
  | copy (die : DieId) (core block : Nat)
  | multicast (die : DieId) (core block : Nat)
  | feed (die : DieId) (core block : Nat)
  | store (die : DieId) (core block : Nat)
  | copyEnginePublish (die : DieId) (core block : Nat)
  | byteCredit (cmd spos : Nat)
  | copyCommandComplete (cmd : Nat)
  -- traversal events: the unit of a cluster of a die, serving a block; a query and a path of it
  | ctxset (die : DieId) (cluster block : Nat)
  | ray (die : DieId) (cluster block : Nat)
  | cone (die : DieId) (cluster block : Nat)
  | frustum (die : DieId) (cluster block : Nat)
  | nodeVisit (query path : Nat)
  | recordCommit (query path : Nat)
  | done (query : Nat)
  | continuationStart (die : DieId) (cluster : Nat)
  -- FIFO and stream events of a block, by span position
  | fifoRunAppend (block spos fifo : Nat)
  | streamOperation (block spos unit : Nat)
  -- Percolator events
  | blockPlace (die : DieId)
  | blockResourcesReturn (block : Nat)
  | launchComplete (job : Nat)
  | cardAdmission (die : DieId) (ring : Nat)
  | jobRelease (job : Nat)
  | instanceRelease (job : Nat)
  | preemption (job : Nat)
  | nodeBatch (die : DieId)
  | cutDrainEnd (block : Nat)
  | drainTimeout (block : Nat)
  | blockResume (die : DieId)
  | deadline (job : Nat)
  | budget (job : Nat)
  | bandwidth (job : Nat) (die : DieId) (ctrl : Nat)
  | ckptovr (block : Nat)
  | errorRecordDeferredWrite (die : DieId) (tenant : Nat)
  | regulatorWindow (die : DieId)
  -- register events
  | srcmt (die : DieId) (by_ : RegWriter) (ring : Nat) (v : Word)
  | srctl (die : DieId) (ring : Nat) (v : Word)
  | qmctl (die : DieId) (ring : Nat) (v : Word)
  | tlbinv (die : DieId) (v : Word)
  | tlbInvalidationComplete (die : DieId)
  | tways (die : DieId) (tenant : Nat) (v : Word)
  | carveOutChangeComplete (die : DieId)
  | tdrop (die : DieId) (tenant : Nat)
  | evcount (die : DieId) (v : Word)
  | evctlReset (die : DieId)
  | evctlFree (die : DieId)
  | diemodeSingle (die : DieId) (survivor : DieId)
  | diemodeBoth (die : DieId)
  | dtimelo (seq : SeqId)
  | irqack (seq : SeqId) (v : Word)
  | hbeat (seq : SeqId) (v : Word)
  | pwrlim (die : DieId) (v : Word)
  | fwcmdStage (die : DieId) (powerImage passes : Bool) (version : Nat)
  | fwcmdCommit (die : DieId) (powerImage : Bool)
  | firmwareFirstHeartbeat (die : DieId)
  | firmwareRollback (die : DieId)
  | registerWrite (die : DieId) (trivet : Bool) (csr : Nat) (v : Word)
  -- power, boot, interface events
  | interruptLine (seq : SeqId) (line : BitVec 5)
  | powerRequest (die : DieId)
  | levelChange (die : DieId) (cluster : Nat)
  | corePowerGate (die : DieId) (core : Nat)
  | coreWake (die : DieId) (core : Nat)
  | powerLimitTransition (die : DieId)
  | thermalTrip (die : DieId)
  | powerOn (passA passB : Bool) (images : List Nat)
  | ptpMessage (die : DieId) (offset : Int)
  | qbvGateEvent (die : DieId) (port : Bool)
  | ingestFrame (die : DieId) (stream : Nat) (data : Frame)
  | hostWrite (pa : Nat) (data : List Byte)
  | hostRead (pa len : Nat)
  | hostWindowCompletion (acc lane : Nat) (status : PcieStatus) (value : BitVec 128)
  | getVersion (die : DieId)
  | getCapabilities (die : DieId)
  | negotiateAlgorithms (die : DieId)
  | getDigests (die : DieId)
  | getCertificate (die : DieId)
  | challenge (die : DieId)
  | getMeasurements (die : DieId)
  -- memory, link and engine failures
  | patrol (die : DieId) (vaults : Bool) (fixed : List (Nat × Nat))
  | uncorrectableErrorFound (pa : Nat) (inCache : Bool)
  | uncorrectableErrorConsumed (job : Nat) (array core : Nat) (offset : Nat)
  | remoteWriteResend (die : DieId) (tag : BitVec 24) (lost : Bool)
  | remoteResponse (die : DieId) (tag : BitVec 24)
  | linkRetry (die : DieId)
  | trivetHeartbeat (die : DieId)
  | dieLost (lost : DieId)
  | sequencerHang (die : DieId) (num : Nat)
  | powerSequencerHang (die : DieId)
  | lockstepMismatch (die : DieId)
  | engineHung (die : DieId) (engine : EngineId)
  | vaultRowSpare (die : DieId) (vault row : Nat)
  | coreSpare (die : DieId) (core : Nat)
  | waittTargetReached (who : Issuer)
  | watchdogAbandon (job : Nat)
  | remoteReadResend (acc : Nat)
  | keptResultAged (die : DieId)
  | configurationRequest (die : DieId)
  deriving DecidableEq, Repr

end Sys2Proof
end

