-- ==== Sys2Proof/Machine/Legal.lean ====
section
/-! DEFINITION. The limits that each form sets on its operands: the decoder checks of R50 that
concern reserved values, accepted types (R60), uniform destinations (R52) and register groups (R53,
R113). Unused fields that must be zero are checked by the decoder as a whole. -/

namespace Sys2Proof

/-- Registers that a value of the type occupies (R53, R60). -/
def LTy.regs : LTy → Nat
  | .s64 | .n64 | .f64 | .b64 => 2
  | .b128 => 4
  | _ => 1

/-- The integer lane types. -/
def LTy.isInt : LTy → Bool
  | .s8 | .n8 | .s16 | .n16 | .s32 | .n32 | .s64 | .n64 => true
  | _ => false

/-- The 32-bit and 64-bit integer lane types. -/
def LTy.isInt32 : LTy → Bool
  | .s32 | .n32 | .s64 | .n64 => true
  | _ => false

/-- s32 and n32. -/
def LTy.isWord : LTy → Bool
  | .s32 | .n32 => true
  | _ => false

/-- f16, bf16, f32, f64. -/
def LTy.isFloat : LTy → Bool
  | .f16 | .bf16 | .f32 | .f64 => true
  | _ => false

/-- The types of FARITH and FMISC (R131). -/
def LTy.isFarith : LTy → Bool
  | .f16 | .bf16 | .f32 | .f16x2 | .bf16x2 => true
  | _ => false

/-- b32 and b64. -/
def LTy.isBits : LTy → Bool
  | .b32 | .b64 => true
  | _ => false

/-- Signed integer types. -/
def LTy.isSigned : LTy → Bool
  | .s8 | .s16 | .s32 | .s64 => true
  | _ => false

/-- Packed types, for which CC must be 0 (R133). -/
def LTy.isPacked : LTy → Bool
  | .f16x2 | .bf16x2 => true
  | _ => false

/-- A name of a group of `n` registers, lane or uniform (R53, R113). -/
def anyGroup (n : Nat) (r : Reg) : Bool := r.toNat % n == 0

/-- A name of a group of `n` lane registers (R52, R53). -/
def laneGroup (n : Nat) (r : Reg) : Bool := r.toNat % n == 0 && decide (r.toNat < 384)

/-- A name of a group of `n` uniform registers. -/
def uniGroup (n : Nat) (r : Reg) : Bool := r.toNat % n == 0 && decide (384 ≤ r.toNat)

/-- Operand B read as `ty` (R53, R59). -/
def SrcB.okFor (ty : LTy) : SrcB → Bool
  | .reg r => anyGroup ty.regs r
  | .imm v => match ty with
    | .f16 | .bf16 => v.toNat < 65536
    | .b128 => false
    | _ => true

/-- Operand B that is a single register or an immediate (R113). -/
def SrcB.okSingle : SrcB → Bool := fun _ => true

/-- Operand B that is a uniform register or an immediate. -/
def SrcB.okUniform : SrcB → Bool
  | .reg r => uniGroup 1 r
  | .imm _ => true

/-- Operand B is IMM32, or a uniform register or group of a type (R53, R146). -/
def SrcB.okUniformOf (ty : LTy) : SrcB → Bool
  | .reg r => uniGroup ty.regs r
  | .imm _ => true

/-- No guard: both fields hold index 7 with negate 0 (R152). -/
def Hdr.noGuard (h : Hdr) : Bool := h.g1 == ⟨false, 7⟩ && h.g2 == ⟨false, 7⟩

/-- The combining predicate is zero when there is no combining operation (R125). -/
def PredDst.ok (p : PredDst) : Bool := p.bop != 0 || (!p.psn && p.ps == 0)

/-- SEM and SCOPE agree: plain accesses have no scope, others have one (R180). -/
def Acc.semOk (x : Acc) (allowed : List (BitVec 2)) : Bool :=
  allowed.contains x.sem && ((x.sem == 0) == (x.scope == .none))

/-- The address operand: a pair for AS = va, a single register for AS = sp (R181). -/
def addrOk (sp : Bool) (a : Reg) : Bool := sp || anyGroup 2 a

/-- The class of a matrix format: 0 8-bit floating, 1 8-bit integer, 2 16-bit floating, 3 int4,
4 fp32 (R236). -/
def Fmt.cls : Fmt → Nat
  | .int8 | .uint8 => 1
  | .fp16 | .bf16 => 2
  | .int4 => 3
  | .fp32 => 4
  | _ => 0

/-- Elements of a packed register of the format (R140). -/
def Fmt.count : Fmt → Nat
  | .int4 => 8
  | .fp16 | .bf16 => 2
  | .fp32 => 1
  | _ => 4

/-- The register-count code NC or NR (R241, R242). -/
def countOf (nc : BitVec 3) : Nat := 2 ^ nc.toNat

/-- The columns of MSCALE and MEPI (R239). -/
def colsOf (nw : BitVec 2) : Nat := 16 * 2 ^ nw.toNat

def colsOk (col nw : BitVec 2) : Bool := nw.toNat ≤ 2 && decide (16 * col.toNat + colsOf nw ≤ 64)

/-- INT ADD to SUBB, MIN, MAX (R116). -/
def IntBin.ok (mm : Bool) (x : IntBin) : Bool :=
  x.ty.isInt32 && !(mm && x.sat) && laneGroup x.ty.regs x.d && anyGroup x.ty.regs x.a && x.b.okFor x.ty

def IntUn.ok (x : IntUn) : Bool :=
  x.ty.isInt32 && x.ty.isSigned && laneGroup x.ty.regs x.d && anyGroup x.ty.regs x.a

/-- Operand groups of a form whose D, A, B all have the type's width. -/
def Typed2.same (x : Typed2) : Bool :=
  laneGroup x.ty.regs x.d && anyGroup x.ty.regs x.a && x.b.okFor x.ty

def Typed2.okInt (x : Typed2) : Bool := x.ty.isInt32 && x.same

/-- IMUL.WIDE: D is a pair (R118). -/
def Typed2.okWide (x : Typed2) : Bool := x.ty.isWord && laneGroup 2 x.d && x.b.okFor x.ty

/-- BIT.BFE: B is a single register (R113, R123). -/
def Typed2.okBfe (x : Typed2) : Bool :=
  x.ty.isInt32 && laneGroup x.ty.regs x.d && anyGroup x.ty.regs x.a && x.b.okSingle

def Typed2.okCopysign (x : Typed2) : Bool := x.ty.isFarith && x.same

/-- Operand groups of a form whose D, A, B, C all have the type's width. -/
def Typed3.same (x : Typed3) : Bool :=
  laneGroup x.ty.regs x.d && anyGroup x.ty.regs x.a && x.b.okFor x.ty && anyGroup x.ty.regs x.c

def Typed3.okInt (x : Typed3) : Bool := x.ty.isInt32 && x.same

/-- IMUL.MADWIDE: D and C are pairs (R118). -/
def Typed3.okWide (x : Typed3) : Bool :=
  x.ty.isWord && laneGroup 2 x.d && x.b.okFor x.ty && anyGroup 2 x.c

/-- SHIFT.FSHL, FSHR, MOV.BSEL: b32 only. -/
def Typed3.okB32 (x : Typed3) : Bool := x.ty == .b32 && x.same

/-- BIT.BFI: B is a single register (R113, R123). -/
def Typed3.okBfi (x : Typed3) : Bool :=
  x.ty.isBits && laneGroup x.ty.regs x.d && anyGroup x.ty.regs x.a && x.b.okSingle &&
    anyGroup x.ty.regs x.c

def Dot4.ok (x : Dot4) : Bool := x.ty.isWord && laneGroup 1 x.d && x.b.okFor x.ty

def Logic2.okLogic (x : Logic2) : Bool :=
  x.ty.isBits && laneGroup x.ty.regs x.d && anyGroup x.ty.regs x.a && x.b.okFor x.ty

def Logic2.okShift (sar : Bool) (x : Logic2) : Bool :=
  (if sar then x.ty == .s32 || x.ty == .s64 else x.ty.isBits) &&
    laneGroup x.ty.regs x.d && anyGroup x.ty.regs x.a && x.b.okSingle

def Logic1.ok (x : Logic1) : Bool :=
  x.ty.isBits && laneGroup x.ty.regs x.d && anyGroup x.ty.regs x.a

def Truth.ok (x : Truth) : Bool :=
  x.ty.isBits && laneGroup x.ty.regs x.d && anyGroup x.ty.regs x.a && x.b.okFor x.ty &&
    anyGroup x.ty.regs x.c

/-- POPC, CLZ, CTZ: D is a single register (R123). -/
def Typed1.okCount (x : Typed1) : Bool :=
  x.ty.isBits && laneGroup 1 x.d && anyGroup x.ty.regs x.a

def Typed1.okBrev (x : Typed1) : Bool :=
  x.ty.isBits && laneGroup x.ty.regs x.d && anyGroup x.ty.regs x.a

/-- REDUCE.AND, OR, XOR: b32, lane or uniform D (R143). -/
def Typed1.okReduce (x : Typed1) : Bool := x.ty == .b32

/-- VOTE.MATCH: a lane D (R145). R145 calls D a lane register
without saying of what width: the model takes a single register of any number, also for b64, since the result has 32 bits
(entry 32). -/
def Typed1.okMatch (x : Typed1) : Bool :=
  x.ty.isBits && laneGroup 1 x.d && anyGroup x.ty.regs x.a

/-- UMOV.FIRST: lane or uniform D (R146). -/
def Typed1.okUmov (x : Typed1) : Bool :=
  x.ty.isBits && anyGroup x.ty.regs x.d && anyGroup x.ty.regs x.a

def MovOp.ok (x : MovOp) : Bool :=
  (x.ty.isBits || x.ty == .b128) && laneGroup x.ty.regs x.d && x.b.okFor x.ty

def SetpCmp.ok (x : SetpCmp) : Bool :=
  x.p.ok && ((x.ty.isInt32 && x.cmp.toNat ≤ 5) || (x.ty.isFloat && x.cmp.toNat ≤ 13)) &&
    anyGroup x.ty.regs x.a && x.b.okFor x.ty

def SetpCct.ok (x : SetpCct) : Bool := x.p.ok

def SetpClass.ok (x : SetpClass) : Bool := x.p.ok && x.ty.isFloat && anyGroup x.ty.regs x.a

def SelP.ok (x : SelP) : Bool :=
  x.ty.isBits && laneGroup x.ty.regs x.d && anyGroup x.ty.regs x.a && x.b.okFor x.ty

def SelCc.ok (x : SelCc) : Bool :=
  x.ty.isBits && laneGroup x.ty.regs x.d && anyGroup x.ty.regs x.a && x.b.okFor x.ty

/-- The types of FARITH or of DARITH. -/
def LTy.okFor (dbl : Bool) (ty : LTy) : Bool := if dbl then ty == .f64 else ty.isFarith

def Flt2.ok (dbl : Bool) (x : Flt2) : Bool :=
  x.ty.okFor dbl && !(x.cc && x.ty.isPacked) && laneGroup x.ty.regs x.d && anyGroup x.ty.regs x.a &&
    x.b.okFor x.ty

def Flt3.ok (dbl : Bool) (x : Flt3) : Bool :=
  x.ty.okFor dbl && !(x.cc && x.ty.isPacked) && laneGroup x.ty.regs x.d && anyGroup x.ty.regs x.a &&
    x.b.okFor x.ty && anyGroup x.ty.regs x.c

def FltMm.ok (dbl : Bool) (x : FltMm) : Bool :=
  x.ty.okFor dbl && !(x.cc && x.ty.isPacked) && laneGroup x.ty.regs x.d && anyGroup x.ty.regs x.a &&
    x.b.okFor x.ty

def Flt1.ok (dbl : Bool) (x : Flt1) : Bool :=
  x.ty.okFor dbl && !(x.cc && x.ty.isPacked) && laneGroup x.ty.regs x.d && anyGroup x.ty.regs x.a

def FltRint.ok (dbl : Bool) (x : FltRint) : Bool :=
  x.ty.okFor dbl && laneGroup x.ty.regs x.d && anyGroup x.ty.regs x.a

def SfuOp.ok (x : SfuOp) : Bool := laneGroup 1 x.d

/-- The type pairs of R139: I2I (0), I2F (1), F2I (2), F2F (3). -/
def CvtOp.ok (k : Nat) (x : CvtOp) : Bool :=
  (match k with
    | 0 => x.ty.isInt && x.lt.isInt && x.rm == .nearestEven
    | 1 => x.ty.isFloat && x.lt.isInt
    | 2 => x.ty.isInt && x.lt.isFloat
    | _ => x.ty.isFloat && x.lt.isFloat) &&
    laneGroup x.ty.regs x.d && anyGroup x.lt.regs x.a

/-- The lane types of PACK and UNPACK (R139). -/
def LTy.isPackable : LTy → Bool
  | .f16 | .bf16 | .f32 | .s32 | .n32 => true
  | _ => false

def PackOp.okPack (x : PackOp) : Bool :=
  x.lt.isPackable && laneGroup 1 x.d && anyGroup x.fmt.count x.a

def PackOp.okUnpack (x : PackOp) : Bool :=
  x.lt.isPackable && laneGroup x.fmt.count x.d

def VpermOp.ok (x : VpermOp) : Bool :=
  x.ty.isBits && x.seg.toNat ≤ 4 && (x.pw || x.pd == 0) && laneGroup x.ty.regs x.d &&
    anyGroup x.ty.regs x.a && x.b.okSingle && anyGroup x.ty.regs x.c

/-- RM only in f32 ADD, NANP only in f32 MIN and MAX (R143). -/
def reduceMods (add mm : Bool) (ty : LTy) (rm : Rm) (nanp : Bool) : Bool :=
  (rm == .nearestEven || (add && ty == .f32)) && (!nanp || (mm && ty == .f32))

def ReduceOp.ok (add : Bool) (x : ReduceOp) : Bool :=
  (x.ty.isWord || x.ty == .f32) && reduceMods add (!add) x.ty x.rm x.nanp

def ScanOp.ok (x : ScanOp) : Bool :=
  (if x.op.toNat ≤ 2 then x.ty.isWord || x.ty == .f32 else x.op.toNat ≤ 5 && x.ty == .b32) &&
    reduceMods (x.op == 0) (x.op == 1 || x.op == 2) x.ty x.rm x.nanp && laneGroup 1 x.d

def UmovLane.ok (x : UmovLane) : Bool :=
  x.ty.isBits && anyGroup x.ty.regs x.d && anyGroup x.ty.regs x.a && x.b.okUniformOf x.ty &&
    uniGroup x.ty.regs x.c

/-- A displacement is a multiple of 16 (R152). -/
def DispOp.ok (x : DispOp) : Bool := x.disp.toNat % 16 == 0

def AOnly.okTarget (x : AOnly) : Bool := anyGroup 2 x.a

def CallOp.ok (x : CallOp) : Bool := x.disp.toNat % 16 == 0 && laneGroup 2 x.d

def CallxOp.ok (x : CallxOp) : Bool := laneGroup 2 x.d && anyGroup 2 x.a

/-- A WAITC limit byte is 0 to 63 or 0xFF (R65). -/
def limitOk (b : BitVec 8) : Bool := b.toNat ≤ 63 || b == 255

def WaitcOp.ok (x : WaitcOp) : Bool := limitOk x.tl && limitOk x.cp && limitOk x.st && limitOk x.ld

/-- Index 9 needs a pair, and a uniform D with index 0 is illegal (R160). -/
def SreadOp.ok (x : SreadOp) : Bool :=
  x.spec.toNat ≤ 9 && (x.spec != 9 || anyGroup 2 x.d) && (x.spec != 0 || laneGroup 1 x.d)

def LdOp.ok (x : LdOp) : Bool :=
  (match x.ty with
    | .s8 | .n8 | .s16 | .n16 | .b32 | .b64 | .b128 => true
    | _ => false) &&
    x.x.semOk [0, 1] && addrOk x.x.sp x.x.a && laneGroup x.ty.regs x.d

def StOp.ok (x : StOp) : Bool :=
  (match x.ty with
    | .n8 | .n16 | .b32 | .b64 | .b128 => true
    | _ => false) &&
    x.x.semOk [0, 2] && addrOk x.x.sp x.x.a && anyGroup x.ty.regs x.b

def PrefOp.ok (x : PrefOp) : Bool := addrOk x.sp x.a

/-- ALL = 1 only in INVL1, with A, IMM32 and AS zero (R192). -/
def CctlOp.ok (inv : Bool) (x : CctlOp) : Bool :=
  addrOk x.sp x.a && (!x.all || (inv && x.a == 0 && x.off == 0 && !x.sp))

/-- The types of R188: ADD (0), MIN and MAX (1), the others (2). -/
def atomTy (k : Nat) (ty : LTy) : Bool :=
  match k with
  | 0 => ty.isInt32 || ty == .f32 || ty == .bf16x2
  | 1 => ty.isInt32 || ty == .f32
  | _ => ty.isBits

def AtomOp.ok (k : Nat) (cas : Bool) (x : AtomOp) : Bool :=
  atomTy k x.ty && x.x.semOk [0, 1, 2, 3] && addrOk x.x.sp x.x.a && laneGroup x.ty.regs x.d &&
    anyGroup x.ty.regs x.b && (if cas then anyGroup x.ty.regs x.c else x.c == 0)

def RedOp.ok (k : Nat) (x : RedOp) : Bool :=
  atomTy k x.ty && x.x.semOk [0, 2] && addrOk x.x.sp x.x.a && anyGroup x.ty.regs x.b

def FenceOp.ok (x : FenceOp) : Bool := x.scope != .none

def BarIx.ok : BarIx → Bool
  | .bidx _ => true
  | .reg a => uniGroup 1 a

/-- INIT with OFF = 1 uses neither B nor C (R196). -/
def BarInit.ok (x : BarInit) : Bool :=
  x.ix.ok && (if x.off then x.b == .reg 0 && x.c == 0 else x.b.okUniform && uniGroup 1 x.c)

def BarExpect.ok (x : BarExpect) : Bool := x.ix.ok && (x.rmt || x.spc == 0) && x.b.okUniform

def BarArrive.ok (x : BarArrive) : Bool := x.ix.ok && (x.rmt || x.spc == 0)

def BarWait.ok (x : BarWait) : Bool := x.ix.ok && x.b.okUniform

def QclaimOp.ok (x : QclaimOp) : Bool := anyGroup 2 x.d && uniGroup 2 x.a && x.b.okUniform

def QposOp.ok (x : QposOp) : Bool := uniGroup 2 x.a && x.b.okUniform && uniGroup 2 x.c

def QawaitOp.ok (x : QawaitOp) : Bool := laneGroup 2 x.d && uniGroup 2 x.a && x.b.okUniform

def PushOp.ok (x : PushOp) : Bool :=
  x.tgt.toNat ≤ 2 && laneGroup 16 x.c && (if x.tgt == 0 then uniGroup 2 x.a else x.a == 0)

/-- With EA = 1 the name field is 0 and A is uniform; with EA = 0 field A is 0 (R206). -/
def EvsigOp.ok (x : EvsigOp) : Bool := if x.ea then x.ev == 0 && uniGroup 1 x.a else x.a == 0

def PublishOp.ok (x : PublishOp) : Bool := x.scope != .none

/-- MMA of the shape with `n` columns and the format class of R67; B's format has A's class (R236),
and int4 and fp32 take no separate format. -/
def MmaOp.ok (cls : List Nat) (n : Nat) (x : MmaOp) : Bool :=
  cls.contains x.fmt.cls && decide (16 * x.col.toNat + n ≤ 64) &&
    (match x.bfmt with
      | none => true
      | some f => f.cls == x.fmt.cls && x.fmt.cls ≤ 2)

def MscaleOp.ok (x : MscaleOp) : Bool := colsOk x.col x.nw

def MmovOp.ok (x : MmovOp) : Bool :=
  x.nc.toNat ≤ 4 && decide (x.col.toNat + countOf x.nc ≤ 64) && laneGroup (countOf x.nc) x.r

def FpushOp.ok (x : FpushOp) : Bool :=
  x.nr.toNat ≤ 4 && (x.cv || (!x.sat && x.rm == .nearestEven)) &&
    !(x.cv && x.fmt == .int4 && x.nr == 0) && laneGroup (countOf x.nr) x.a

/-- BE = CE = 0 is illegal; B and C are uniform with CE and zero without; FS is zero without BE
(R244). -/
def MepiOp.ok (x : MepiOp) : Bool :=
  (x.be || x.ce) && (if x.ce then uniGroup 1 x.b && uniGroup 1 x.c else x.b == 0 && x.c == 0) &&
    (x.be || x.fs == 0) && colsOk x.col x.nw

def CinitOp.ok (x : CinitOp) : Bool :=
  match x.cfg with
  | none => true
  | some g => g.b.okUniform && uniGroup 2 g.c && uniGroup 1 g.e

def CmpsOp.ok (x : CmpsOp) : Bool := laneGroup 4 x.c

def CreadOp.ok (x : CreadOp) : Bool := laneGroup 8 x.d

def CreplayOp.ok (x : CreplayOp) : Bool :=
  laneGroup 8 x.d && anyGroup 4 x.b && laneGroup 4 x.c && laneGroup 1 x.e

def WaittOp.ok (x : WaittOp) : Bool := uniGroup 2 x.a

def PclsOp.ok (x : PclsOp) : Bool :=
  match x.b with
  | .reg r => uniGroup 1 r
  | .imm v => v.toNat ≤ 3

def CkptOp.ok (x : CkptOp) : Bool := uniGroup 1 x.a && uniGroup 1 x.b

/-- The checks of R50 on the operands of an instruction; an event has no word to check. -/
def Instr.legal : Instr → Bool
  | .intAdd x => x.ok false
  | .intAddc x => x.ok false
  | .intSub x => x.ok false
  | .intSubb x => x.ok false
  | .intNeg x => x.ok
  | .intAbs x => x.ok
  | .intMin x => x.ok true
  | .intMax x => x.ok true
  | .imulLo x => x.okInt
  | .imulHi x => x.okInt
  | .imulWide x => x.okWide
  | .imulMadlo x => x.okInt
  | .imulMadhi x => x.okInt
  | .imulMadwide x => x.okWide
  | .idivDiv x => x.okInt
  | .idivRem x => x.okInt
  | .idotDp4 x => x.ok
  | .logicAnd x => x.okLogic
  | .logicOr x => x.okLogic
  | .logicXor x => x.okLogic
  | .logicNot x => x.ok
  | .logicTruth x => x.ok
  | .shiftShl x => x.okShift false
  | .shiftShr x => x.okShift false
  | .shiftSar x => x.okShift true
  | .shiftFshl x => x.okB32
  | .shiftFshr x => x.okB32
  | .bitPopc x => x.okCount
  | .bitClz x => x.okCount
  | .bitCtz x => x.okCount
  | .bitBrev x => x.okBrev
  | .bitBfe x => x.okBfe
  | .bitBfi x => x.okBfi
  | .mov x => x.ok
  | .movBsel x => x.okB32
  | .setpCmp x => x.ok
  | .setpCct x => x.ok
  | .setpClass x => x.ok
  | .pcomb _ => true
  | .sel x => x.ok
  | .selCc x => x.ok
  | .pmovToreg x => laneGroup 1 x.d
  | .pmovFromreg _ => true
  | .farithAdd x => x.ok false
  | .farithSub x => x.ok false
  | .farithMul x => x.ok false
  | .farithFma x => x.ok false
  | .farithMin x => x.ok false
  | .farithMax x => x.ok false
  | .farithAbs x => x.ok false
  | .farithNeg x => x.ok false
  | .fmiscRint x => x.ok false
  | .fmiscCopysign x => x.okCopysign
  | .darithAdd x => x.ok true
  | .darithSub x => x.ok true
  | .darithMul x => x.ok true
  | .darithFma x => x.ok true
  | .darithMin x => x.ok true
  | .darithMax x => x.ok true
  | .darithAbs x => x.ok true
  | .darithNeg x => x.ok true
  | .darithRint x => x.ok true
  | .sfuRcp x => x.ok
  | .sfuRsq x => x.ok
  | .sfuSqrt x => x.ok
  | .sfuEx2 x => x.ok
  | .sfuLg2 x => x.ok
  | .sfuSin x => x.ok
  | .sfuCos x => x.ok
  | .sfuTanh x => x.ok
  | .cvtI2i x => x.ok 0
  | .cvtI2f x => x.ok 1
  | .cvtF2i x => x.ok 2
  | .cvtF2f x => x.ok 3
  | .cvtPack x => x.okPack
  | .cvtUnpack x => x.okUnpack
  | .vpermIdx x => x.ok
  | .vpermUp x => x.ok
  | .vpermDown x => x.ok
  | .vpermXor x => x.ok
  | .reduceAdd x => x.ok true
  | .reduceMin x => x.ok false
  | .reduceMax x => x.ok false
  | .reduceAnd x => x.okReduce
  | .reduceOr x => x.okReduce
  | .reduceXor x => x.okReduce
  | .scanIncl x => x.ok
  | .scanExcl x => x.ok
  | .voteBallot _ => true
  | .voteAny _ => true
  | .voteAll _ => true
  | .voteMatch x => x.okMatch
  | .umovFirst x => x.okUmov
  | .umovLane x => x.ok
  | .bra x => x.ok
  | .brx x => x.okTarget
  | .call x => x.ok
  | .callx x => x.ok
  | .ret x => x.okTarget
  | .jset x => x.ok && x.h.noGuard
  | .jwait x => x.h.noGuard
  | .exit _ => true
  | .waitc x => x.ok
  | .yield _ => true
  | .sread x => x.ok
  | .nop _ => true
  | .ld x => x.ok
  | .st x => x.ok
  | .prefL1 x => x.ok
  | .prefMsc x => x.ok
  | .cctlInvl1 x => x.ok true
  | .cctlWbmsc x => x.ok false
  | .atomAdd x => x.ok 0 false
  | .atomMin x => x.ok 1 false
  | .atomMax x => x.ok 1 false
  | .atomAnd x => x.ok 2 false
  | .atomOr x => x.ok 2 false
  | .atomXor x => x.ok 2 false
  | .atomXchg x => x.ok 2 false
  | .atomCas x => x.ok 2 true
  | .redAdd x => x.ok 0
  | .redMin x => x.ok 1
  | .redMax x => x.ok 1
  | .redAnd x => x.ok 2
  | .redOr x => x.ok 2
  | .redXor x => x.ok 2
  | .fence x => x.ok
  | .barInit x => x.ok
  | .barExpect x => x.ok
  | .barArrive x => x.ok
  | .barWait x => x.ok
  | .qclaim x => x.ok
  | .qcommit x => x.ok
  | .qawait x => x.ok
  | .qretire x => x.ok
  | .push x => x.ok
  | .evsig x => x.ok
  | .take x => anyGroup 4 x.d
  | .publish x => x.ok
  | .mmaM32N32K64 x => x.ok [0, 1] 32
  | .mmaM32N64K64 x => x.ok [0, 1] 64
  | .mmaM32N16K128 x => x.ok [0, 1] 16
  | .mmaM32N32K32 x => x.ok [2] 32
  | .mmaM32N64K32 x => x.ok [2] 64
  | .mmaM32N32K128 x => x.ok [3] 32
  | .mmaM32N32K8 x => x.ok [4] 32
  | .mscale x => x.ok
  | .mzero _ => true
  | .mld x => x.ok
  | .mst x => x.ok
  | .fpush x => x.ok
  | .mmode _ => true
  | .mepi x => x.ok
  | .cinit x => x.ok
  | .cmps x => x.ok
  | .cflush _ => true
  | .cread x => x.ok
  | .cretire _ => true
  | .creplay x => x.ok
  | .time x => anyGroup 2 x.d
  | .waitt x => x.ok
  | .pcls x => x.ok
  | .swpt _ => true
  | .ckpt x => x.ok
  | .trap _ => true
  | .brk _ => true
  | .eret x => x.h.noGuard
  | .csrRd _ => true
  | .csrWr _ => true
  | .wfi _ => true
  | .loadDataReturn _ _ _ _ => true
  | .accessPerformed _ _ _ => true
  | .windowSwitch _ => true
  | .takeServe _ => true
  | .copy _ _ _ => true
  | .multicast _ _ _ => true
  | .feed _ _ _ => true
  | .store _ _ _ => true
  | .copyEnginePublish _ _ _ => true
  | .byteCredit _ _ => true
  | .copyCommandComplete _ => true
  | .ctxset _ _ _ => true
  | .ray _ _ _ => true
  | .cone _ _ _ => true
  | .frustum _ _ _ => true
  | .nodeVisit _ _ => true
  | .recordCommit _ _ => true
  | .done _ => true
  | .continuationStart _ _ => true
  | .fifoRunAppend _ _ _ => true
  | .streamOperation _ _ _ => true
  | .blockPlace _ => true
  | .blockResourcesReturn _ => true
  | .launchComplete _ => true
  | .cardAdmission _ _ => true
  | .jobRelease _ => true
  | .instanceRelease _ => true
  | .preemption _ => true
  | .nodeBatch _ => true
  | .cutDrainEnd _ => true
  | .drainTimeout _ => true
  | .blockResume _ => true
  | .deadline _ => true
  | .budget _ => true
  | .bandwidth _ _ _ => true
  | .ckptovr _ => true
  | .errorRecordDeferredWrite _ _ => true
  | .regulatorWindow _ => true
  | .srcmt _ _ _ _ => true
  | .srctl _ _ _ => true
  | .qmctl _ _ _ => true
  | .tlbinv _ _ => true
  | .tlbInvalidationComplete _ => true
  | .tways _ _ _ => true
  | .carveOutChangeComplete _ => true
  | .tdrop _ _ => true
  | .evcount _ _ => true
  | .evctlReset _ => true
  | .evctlFree _ => true
  | .diemodeSingle _ _ => true
  | .diemodeBoth _ => true
  | .dtimelo _ => true
  | .irqack _ _ => true
  | .hbeat _ _ => true
  | .pwrlim _ _ => true
  | .fwcmdStage _ _ _ _ => true
  | .fwcmdCommit _ _ => true
  | .firmwareFirstHeartbeat _ => true
  | .firmwareRollback _ => true
  | .registerWrite _ _ _ _ => true
  | .interruptLine _ _ => true
  | .powerRequest _ => true
  | .levelChange _ _ => true
  | .corePowerGate _ _ => true
  | .coreWake _ _ => true
  | .powerLimitTransition _ => true
  | .thermalTrip _ => true
  | .powerOn _ _ _ => true
  | .ptpMessage _ _ => true
  | .qbvGateEvent _ _ => true
  | .ingestFrame _ _ _ => true
  | .hostWrite _ _ => true
  | .hostRead _ _ => true
  | .hostWindowCompletion _ _ _ _ => true
  | .getVersion _ => true
  | .getCapabilities _ => true
  | .negotiateAlgorithms _ => true
  | .getDigests _ => true
  | .getCertificate _ => true
  | .challenge _ => true
  | .getMeasurements _ => true
  | .patrol _ _ _ => true
  | .uncorrectableErrorFound _ _ => true
  | .uncorrectableErrorConsumed _ _ _ _ => true
  | .remoteWriteResend _ _ _ => true
  | .remoteResponse _ _ => true
  | .linkRetry _ => true
  | .trivetHeartbeat _ => true
  | .dieLost _ => true
  | .sequencerHang _ _ => true
  | .powerSequencerHang _ => true
  | .lockstepMismatch _ => true
  | .engineHung _ _ => true
  | .vaultRowSpare _ _ _ => true
  | .coreSpare _ _ => true
  | .waittTargetReached _ => true
  | .watchdogAbandon _ => true
  | .remoteReadResend _ => true
  | .keptResultAged _ => true
  | .configurationRequest _ => true

end Sys2Proof
end

