-- ==== Sys2Proof/Machine/FpCore.lean ====
section
/-! DEFINITION. Number formats, exact values, rounding and conversion (R89 to R104, R464, R7). A
finite value is held exactly as a sign, a whole number and a power of two. -/

namespace Sys2Proof

/-- An exact decoded value (R100): NaN, an infinity, or (-1)^neg * m * 2^e; zero keeps its sign. -/
inductive Fv where
  | nan
  | inf (neg : Bool)
  | fin (neg : Bool) (m : Nat) (e : Int)
  deriving DecidableEq, Repr

/-- The families of floating formats: IEEE 754 layouts (R90), signed binary8 with infinities, signed
binary8 finite (R93), unsigned binary8 (R95). -/
inductive FKind where
  | ieee | b8s | b8f | b8u
  deriving DecidableEq, Repr

/-- A floating format: its family, fraction bits T and exponent bits W. -/
structure FFmt where
  kind : FKind
  T : Nat
  W : Nat
  deriving DecidableEq, Repr

/-- The bias B: 2^(W-1) - 1 in the IEEE layouts (R90), 2^(W-1) in binary8 (R93, R95). -/
def FFmt.bias (f : FFmt) : Int :=
  match f.kind with
  | .ieee => 2 ^ (f.W - 1) - 1
  | _ => 2 ^ (f.W - 1)

def FFmt.f16 : FFmt := ⟨.ieee, 10, 5⟩
def FFmt.bf16 : FFmt := ⟨.ieee, 7, 8⟩
def FFmt.f32 : FFmt := ⟨.ieee, 23, 8⟩
def FFmt.f64 : FFmt := ⟨.ieee, 52, 11⟩

/-- Total bits of the format. -/
def FFmt.bits (f : FFmt) : Nat :=
  match f.kind with
  | .b8u => f.T + f.W
  | _ => f.T + f.W + 1

/-- The sign bit's weight. -/
def FFmt.signBit (f : FFmt) : Nat := 2 ^ (f.T + f.W)

/-- The formula of R93 for a code without its sign: a subnormal or a normal value. -/
def FFmt.magOf (f : FFmt) (c : Nat) : Nat × Int :=
  let e := c / 2 ^ f.T
  let t := c % 2 ^ f.T
  if e == 0 then (t, 1 - f.bias - f.T) else (2 ^ f.T + t, (e : Int) - f.bias - f.T)

/-- The exact value of a code (R90, R93, R95). -/
def FFmt.decode (f : FFmt) (code : Nat) : Fv :=
  match f.kind with
  | .ieee =>
    let c := code % f.signBit
    let s := code / f.signBit % 2 == 1
    if c / 2 ^ f.T == 2 ^ f.W - 1 then (if c % 2 ^ f.T == 0 then .inf s else .nan)
    else .fin s (f.magOf c).1 (f.magOf c).2
  | .b8u =>
    let c := code % 256
    if c == 255 then .nan else .fin false (f.magOf c).1 (f.magOf c).2
  | k =>
    let c := code % 128
    let s := code / 128 % 2 == 1
    if code % 256 == 128 then .nan
    else if k == .b8s && c == 127 then .inf s
    else .fin s (f.magOf c).1 (f.magOf c).2

/-- The canonical NaN (R90, R93, R95). -/
def FFmt.nanCode (f : FFmt) : Nat :=
  match f.kind with
  | .ieee => (2 ^ f.W - 1) * 2 ^ f.T + 2 ^ (f.T - 1)
  | .b8u => 255
  | _ => 128

/-- The code of the largest finite value, without sign. -/
def FFmt.maxCode (f : FFmt) : Nat :=
  match f.kind with
  | .ieee => (2 ^ f.W - 1) * 2 ^ f.T - 1
  | .b8s => 126
  | .b8f => 127
  | .b8u => 254

def FFmt.hasInf (f : FFmt) : Bool :=
  match f.kind with
  | .ieee | .b8s => true
  | _ => false

/-- Put a sign on a magnitude code; binary8 has no negative zero and an unsigned format no sign. -/
def FFmt.sign (f : FFmt) (s : Bool) (c : Nat) : Nat :=
  match f.kind with
  | .ieee => c + (if s then f.signBit else 0)
  | .b8u => c
  | _ => if c == 0 then 0 else c + (if s then 128 else 0)

/-- The code of an infinity, in a format that has them. -/
def FFmt.infCode (f : FFmt) (s : Bool) : Nat :=
  match f.kind with
  | .ieee => f.sign s ((2 ^ f.W - 1) * 2 ^ f.T)
  | _ => f.sign s 127

/-- A magnitude: (m + δ) * 2^e, where 0 < δ < 1 when `st` holds and δ = 0 otherwise. With `st` the
whole number `m` is at least 2^66, so that no rounding position of any format lies below it. -/
structure Mag where
  m : Nat
  e : Int
  st : Bool
  deriving DecidableEq, Repr

/-- Compare m1 * 2^e1 with m2 * 2^e2. -/
def cmpScaled (m1 : Nat) (e1 : Int) (m2 : Nat) (e2 : Int) : Ordering :=
  let lo := min e1 e2
  compare (m1 * 2 ^ (e1 - lo).toNat) (m2 * 2 ^ (e2 - lo).toNat)

/-- Does a discarded part round the magnitude up (R97)? `odd`: the kept part is the odd neighbour;
`half`: the discarded part against one half; `any`: it is not zero. -/
def roundsUp (rm : Rm) (neg odd : Bool) (half : Ordering) (any : Bool) : Bool :=
  match rm with
  | .nearestEven => half == .gt || (half == .eq && odd)
  | .nearestAway => half != .lt
  | .towardZero => false
  | .upward => any && !neg
  | .downward => any && neg

/-- Round a magnitude to a whole multiple of 2^q: the multiple. `odd n` says whether n is the odd
neighbour on a tie. -/
def roundAt (rm : Rm) (neg : Bool) (x : Mag) (q : Int) (odd : Nat → Bool) : Nat :=
  if q ≤ x.e then x.m * 2 ^ (x.e - q).toNat
  else
    let k := (q - x.e).toNat
    let n := x.m / 2 ^ k
    let r := x.m % 2 ^ k
    let half := match compare (2 * r) (2 ^ k) with
      | .eq => if x.st then Ordering.gt else .eq
      | o => o
    n + (if roundsUp rm neg (odd n) half (r != 0 || x.st) then 1 else 0)

/-- The exponent of the highest bit of a nonzero whole number. -/
def topBit (m : Nat) : Nat := Nat.log2 m

/-- The code, without sign, of n * 2^q, a value on the format's grid or above its range. -/
def FFmt.codeOf (f : FFmt) (n : Nat) (q : Int) : Nat :=
  if n == 0 then 0
  else
    let E := (topBit n : Int) + q
    if E < 1 - f.bias then n
    else
      let k := topBit n
      let frac := if k ≤ f.T then n * 2 ^ (f.T - k) else n / 2 ^ (k - f.T)
      (E + f.bias).toNat * 2 ^ f.T + (frac - 2 ^ f.T)

/-- Does the mode give infinity on overflow (R99)? -/
def overflowsToInf (rm : Rm) (neg : Bool) : Bool :=
  match rm with
  | .nearestEven | .nearestAway => true
  | .towardZero => false
  | .upward => !neg
  | .downward => neg

/-- An infinite outcome, mapped under R99. -/
def FFmt.infOutcome (f : FFmt) (sat neg : Bool) : Nat :=
  if sat then f.sign neg f.maxCode else if f.hasInf then f.infCode neg else f.nanCode

/-- Round a magnitude into a format (R98, R99); `sat` is the saturation choice. -/
def FFmt.round (f : FFmt) (rm : Rm) (sat neg : Bool) (x : Mag) : Nat :=
  if x.m == 0 then f.sign neg 0
  else
    let E := (topBit x.m : Int) + x.e
    let q := max (E - f.T) (1 - f.bias - f.T)
    -- in a format without significand bits the even neighbour has an even exponent field (R97)
    let odd : Nat → Bool := fun n =>
      if f.T == 0 then n != 0 && (E + f.bias) % 2 == 1 else n % 2 == 1
    let n := roundAt rm neg x q odd
    if f.kind == .b8u && neg then (if n == 0 then 0 else if sat then 0 else f.nanCode)
    else
      let mx := f.magOf f.maxCode
      if cmpScaled n q mx.1 mx.2 == .gt then
        (if overflowsToInf rm neg then f.infOutcome sat neg else f.sign neg f.maxCode)
      else f.sign neg (f.codeOf n q)

/-- Encode an exact value into a floating format (R101). -/
def FFmt.encode (f : FFmt) (rm : Rm) (sat : Bool) : Fv → Nat
  | .nan => f.nanCode
  | .inf s => if f.kind == .b8u && s then (if sat then 0 else f.nanCode) else f.infOutcome sat s
  | .fin s m e => f.round rm sat s ⟨m, e, false⟩

/-- The value that a code of another kind would have: a whole number (R103). -/
def Fv.ofInt (x : Int) : Fv := .fin (x < 0) x.natAbs 0

/-- A value rounded to an integer in the mode (R102). -/
def roundToInt (rm : Rm) (neg : Bool) (m : Nat) (e : Int) : Int :=
  let n := roundAt rm neg ⟨m, e, false⟩ 0 (fun n => n % 2 == 1)
  if neg then -(n : Int) else n

/-- Encode into an integer destination of n bits. `wrap` holds when the source is an integer lane
type: with saturation off a value out of range then keeps its low bits (R100, R102, R103). -/
def encodeInt (signed : Bool) (n : Nat) (rm : Rm) (sat wrap : Bool) (v : Fv) : Nat :=
  let lo : Int := if signed then -(2 ^ (n - 1)) else 0
  let hi : Int := if signed then 2 ^ (n - 1) - 1 else 2 ^ n - 1
  let bits : Int → Nat := fun x => (x % 2 ^ n).toNat
  let off := if signed then lo else hi
  match v with
  | .nan => bits (if sat then 0 else off)
  | .inf s => bits (if sat then (if s then lo else hi) else off)
  | .fin s m e =>
    let x := roundToInt rm s m e
    if lo ≤ x && x ≤ hi then bits x
    else if sat then bits (if x < lo then lo else hi)
    else if wrap then bits x else bits off

/-! Exact arithmetic on values. A zero result takes its sign under R464. -/

def Fv.isZero : Fv → Bool
  | .fin _ m _ => m == 0
  | _ => false

def Fv.isNeg : Fv → Bool
  | .nan => false
  | .inf s => s
  | .fin s _ _ => s

def Fv.neg : Fv → Fv
  | .nan => .nan
  | .inf s => .inf (!s)
  | .fin s m e => .fin (!s) m e

def Fv.abs : Fv → Fv
  | .nan => .nan
  | .inf _ => .inf false
  | .fin _ m e => .fin false m e

/-- An exact product. -/
def Fv.mul : Fv → Fv → Fv
  | .nan, _ => .nan
  | _, .nan => .nan
  | .inf s, .inf t => .inf (s != t)
  | .inf s, .fin t m _ => if m == 0 then .nan else .inf (s != t)
  | .fin s m _, .inf t => if m == 0 then .nan else .inf (s != t)
  | .fin s m e, .fin t n f => .fin (s != t) (m * n) (e + f)

/-- The signed whole number of a magnitude at a lower exponent. -/
def scaledInt (s : Bool) (m : Nat) (e lo : Int) : Int :=
  let x : Int := m * 2 ^ (e - lo).toNat
  if s then -x else x

/-- An exact sum; `rm` decides the sign of an exact zero (R464). -/
def Fv.add (rm : Rm) : Fv → Fv → Fv
  | .nan, _ => .nan
  | _, .nan => .nan
  | .inf s, .inf t => if s == t then .inf s else .nan
  | .inf s, .fin .. => .inf s
  | .fin .., .inf t => .inf t
  | .fin s m e, .fin t n f =>
    if m == 0 && n == 0 then .fin (if s == t then s else rm == .downward) 0 0
    else
      let lo := min e f
      let x := scaledInt s m e lo + scaledInt t n f lo
      if x == 0 then .fin (rm == .downward) 0 0 else .fin (x < 0) x.natAbs lo

def Fv.sub (rm : Rm) (a b : Fv) : Fv := a.add rm b.neg

/-- Compare two values that are not NaN; −0 equals +0. -/
def Fv.cmp : Fv → Fv → Ordering
  | .inf s, .inf t => compare (if s then 0 else 1) (if t then 0 else 1)
  | .inf s, _ => if s then .lt else .gt
  | _, .inf t => if t then .gt else .lt
  | .fin s m e, .fin t n f => compare (scaledInt s m e (min e f)) (scaledInt t n f (min e f))
  | .nan, _ => .eq
  | _, .nan => .eq

def Fv.lt (a b : Fv) : Bool := a != .nan && b != .nan && a.cmp b == .lt
def Fv.le (a b : Fv) : Bool := a != .nan && b != .nan && a.cmp b != .gt
def Fv.feq (a b : Fv) : Bool := a != .nan && b != .nan && a.cmp b == .eq

/-- R132: the order in which −0 is less than +0. -/
def Fv.ltTotal (a b : Fv) : Bool :=
  a.lt b || (a.isZero && b.isZero && a.isNeg && !b.isNeg)

/-- MIN (R132). -/
def Fv.min (nanp : Bool) (a b : Fv) : Fv :=
  if a == .nan then (if nanp then .nan else b)
  else if b == .nan then (if nanp then .nan else a)
  else if b.ltTotal a then b else a

/-- MAX (R132). -/
def Fv.max (nanp : Bool) (a b : Fv) : Fv :=
  if a == .nan then (if nanp then .nan else b)
  else if b == .nan then (if nanp then .nan else a)
  else if a.ltTotal b then b else a

/-- Round to an integral value of the same sign (R134). -/
def Fv.rint (rm : Rm) : Fv → Fv
  | .fin s m e => .fin s (roundToInt rm s m e).natAbs 0
  | v => v

/-- The exact sum of a group of products or terms: NaN when any term is NaN or infinities of both
signs stand among them, else their infinity, else the exact sum with zero counting as +0 (R108). -/
def groupSum (l : List Fv) : Fv :=
  if l.any (· == .nan) || (l.any (· == .inf false) && l.any (· == .inf true)) then .nan
  else if l.any (· == .inf false) then .inf false
  else if l.any (· == .inf true) then .inf true
  else
    let lo := l.foldl (fun a v => match v with
      | .fin _ _ e => Min.min a e
      | _ => a) 0
    let x := l.foldl (fun a v => match v with
      | .fin s m e => a + scaledInt s m e lo
      | _ => a) (0 : Int)
    .fin (x < 0) x.natAbs lo

/-! The lane types and format codes as values. -/

/-- The floating format of a floating lane type's element. -/
def LTy.ffmt : LTy → FFmt
  | .f16 | .f16x2 => .f16
  | .bf16 | .bf16x2 => .bf16
  | .f64 => .f64
  | _ => .f32

/-- The width of a lane type, in bits. -/
def LTy.width : LTy → Nat
  | .s8 | .n8 => 8
  | .s16 | .n16 | .f16 | .bf16 => 16
  | .s64 | .n64 | .f64 | .b64 => 64
  | .b128 => 128
  | _ => 32

/-- A code read as a signed number of n bits. -/
def signedOf (n x : Nat) : Int := if x % 2 ^ n < 2 ^ (n - 1) then (x % 2 ^ n : Nat) else (x % 2 ^ n : Nat) - (2 ^ n : Int)

/-- The floating lane types, packed ones included. -/
def LTy.isFp : LTy → Bool
  | .f16 | .bf16 | .f32 | .f64 | .f16x2 | .bf16x2 => true
  | _ => false

/-- The exact value of a register value read as a lane type (R89, R90). -/
def LTy.decode (ty : LTy) (x : Nat) : Fv :=
  if ty.isFp then ty.ffmt.decode (x % 2 ^ ty.width)
  else .ofInt (if ty.isSigned then signedOf ty.width x else (x % 2 ^ ty.width : Nat))

/-- Extend a narrow result to its register or pair (R89). -/
def LTy.extend (ty : LTy) (x : Nat) : Nat :=
  match ty with
  | .s8 => (signedOf 8 x % 2 ^ 32).toNat
  | .s16 => (signedOf 16 x % 2 ^ 32).toNat
  | _ => x % 2 ^ ty.width

/-- The floating format of a format code, `none` for the integer codes (R92). -/
def Fmt.ffmt : Fmt → Option FFmt
  | .s8p1 => some ⟨.b8s, 0, 7⟩
  | .s8p2 => some ⟨.b8s, 1, 6⟩
  | .s8p3 => some ⟨.b8s, 2, 5⟩
  | .s8p4 => some ⟨.b8s, 3, 4⟩
  | .s8p5 => some ⟨.b8s, 4, 3⟩
  | .s8p6 => some ⟨.b8s, 5, 2⟩
  | .s8p7 => some ⟨.b8s, 6, 1⟩
  | .s8p1f => some ⟨.b8f, 0, 7⟩
  | .s8p2f => some ⟨.b8f, 1, 6⟩
  | .s8p3f => some ⟨.b8f, 2, 5⟩
  | .s8p4f => some ⟨.b8f, 3, 4⟩
  | .s8p5f => some ⟨.b8f, 4, 3⟩
  | .s8p6f => some ⟨.b8f, 5, 2⟩
  | .s8p7f => some ⟨.b8f, 6, 1⟩
  | .n8p1 => some ⟨.b8u, 0, 8⟩
  | .n8p2 => some ⟨.b8u, 1, 7⟩
  | .n8p3 => some ⟨.b8u, 2, 6⟩
  | .n8p4 => some ⟨.b8u, 3, 5⟩
  | .n8p5 => some ⟨.b8u, 4, 4⟩
  | .n8p6 => some ⟨.b8u, 5, 3⟩
  | .n8p7 => some ⟨.b8u, 6, 2⟩
  | .int8 | .uint8 | .int4 => none
  | .fp16 => some .f16
  | .bf16 => some .bf16
  | .fp32 => some .f32

/-- Element width in bits (R96). -/
def Fmt.width : Fmt → Nat
  | .int4 => 4
  | .fp16 | .bf16 => 16
  | .fp32 => 32
  | _ => 8

/-- The exact value of a code (R92). -/
def Fmt.decode (f : Fmt) (x : Nat) : Fv :=
  match f.ffmt with
  | some g => g.decode (x % 2 ^ f.width)
  | none => .ofInt (if f == .uint8 then (x % 256 : Nat) else signedOf f.width x)

/-- Encode a value into a format code; `wrap` when the source is an integer lane type (R100). -/
def Fmt.encode (f : Fmt) (rm : Rm) (sat wrap : Bool) (v : Fv) : Nat :=
  match f.ffmt with
  | some g => g.encode rm sat v
  | none => encodeInt (f != .uint8) f.width rm sat wrap v

/-- Encode a value into a lane type, extended to its register or pair (R100 to R103, R89). -/
def LTy.encode (ty : LTy) (rm : Rm) (sat wrap : Bool) (v : Fv) : Nat :=
  match ty with
  | .f16 | .bf16 | .f32 | .f64 | .f16x2 | .bf16x2 => ty.ffmt.encode rm sat v
  | .n8 | .n16 | .n32 | .n64 => ty.extend (encodeInt false ty.width rm sat wrap v)
  | _ => ty.extend (encodeInt true ty.width rm sat wrap v)

/-- Is the type an integer lane type (R100)? -/
def LTy.intSource : LTy → Bool
  | .s8 | .n8 | .s16 | .n16 | .s32 | .n32 | .s64 | .n64 => true
  | _ => false

/-! FP32 helpers used by the engines. -/

/-- The exact value of an FP32 word. -/
def f32v (w : Word) : Fv := FFmt.f32.decode w.toNat

/-- rnd_f32 of an exact value (R7). -/
def rndF32 (rm : Rm) (v : Fv) : Word := BitVec.ofNat 32 (FFmt.f32.encode rm false v)

/-- The class bits of SETP.CLASS (R126). -/
def FFmt.classBit (f : FFmt) (code : Nat) : Nat :=
  match f.decode code with
  | .nan => 0
  | .inf true => 1
  | .inf false => 8
  | .fin s m e =>
    if m == 0 then (if s then 4 else 5)
    else if (topBit m : Int) + e < 1 - f.bias then (if s then 3 else 6)
    else (if s then 2 else 7)

end Sys2Proof
end

