-- ==== Sys2Proof/Config.lean ====
section
/-! DEFINITION. What the manual leaves open and the model leaves free: constants without a body, so
that no proof can rest on a value of them. Each is applied to the operands it depends on, or to a
counter of State for a fresh value each time. -/

namespace Sys2Proof.Config

/-- Which member's entry translates when the entries of one page group differ (R175): an index
below the size of the group, taken modulo that size. -/
opaque groupMember : Nat → Nat

/-- Which of a die's four memory controllers serves a line: a number modulo 4 (R20 leaves the hash open). -/
opaque controllerOf : Nat → Nat

/-- Where the four lines of a superblock lie in a memory-side cache (R20 leaves the address hash open): a number modulo
8192, slice and set. -/
opaque mscSet : Nat → Nat

/-- Which of several ways, or lines of equal rank, a fill takes. -/
opaque mscWay : Nat → Nat

/-- Which of the two values an overlapping copy delivers to a destination byte (R214): true for the
value that the source byte held before the command. -/
opaque copyOverlap : Nat → Bool

/-- The rounding of a special function where the model's interval evaluation does not separate the
neighbours (R136 fixes the value; entry 6). -/
opaque sfuUnresolved : Nat → Word → Word

/-- The module's estimated power, in watts, at the given levels (R368), levels of die A's clusters
first. -/
opaque estimatedPower : List Nat → Nat

/-- Whether a write to a line of the other die leaves the line modified in the issuing die's
memory-side cache (R22, R440). -/
opaque remoteModified : Nat → Bool

/-- The body of an SPDM response beyond what R384 names. -/
opaque spdmBody : Nat → Nat → List Byte

/-- The rollback count fused in a die (R381). -/
opaque rollbackCount : Bool → Nat

/-- SHA-256 of an image (R380, R381). Images are named by numbers. -/
opaque sha256 : Nat → BitVec 256

/-- Whether an image's ECDSA signature on P-256 over SHA-256 verifies under the fused key (R381). -/
opaque imageVerifies : Nat → Bool

/-- The version that an image carries (R381). -/
opaque imageVersion : Nat → Nat

/-- How many spare rows a vault has (R461), die B's vaults from 64 on. -/
opaque spareRows : Nat → Nat

/-- Where the context arena lies that each die's firmware allocates at boot from tenant 0's memory (R409): its virtual
address. -/
opaque arenaBase : Bool → Nat

/-- The voltage floor and ceiling fused in a die, in mV (R459). -/
opaque voltageFloor : Bool → Nat
opaque voltageCeiling : Bool → Nat

/-- A free number for an outcome that the manual does not fix. -/
opaque free : Nat → Nat

end Sys2Proof.Config
end

