-- ==== Sys2Proof/WellFormed.lean ====
section
/-! DEFINITION. What a well-formed instruction is: one that passes the operand checks of R50. -/

namespace Sys2Proof

/-- The instruction passes every operand check of R50 (types, register groups, uniform names,
reserved values of subfields). -/
abbrev Instr.WellFormed (i : Instr) : Prop := i.legal = true

end Sys2Proof
end

