-- ==== Sys2Proof/Decode.lean ====
section
/-! DEFINITION. The instruction word: its fields (R49), the decoder, total on every word and
rejecting by `none` (R50, R67, R68), then the encoder, written from the same tables. -/

namespace Sys2Proof

/-- The fields of an instruction word (R49). -/
structure Fields where
  op : BitVec 8
  fn : BitVec 8
  d : BitVec 9
  a : BitVec 9
  b : BitVec 9
  c : BitVec 9
  e : BitVec 9
  g1i : BitVec 3
  g1n : Bool
  g2i : BitVec 3
  g2n : Bool
  ch : BitVec 3
  ty : BitVec 5
  cc : Bool
  bi : Bool
  mod : BitVec 13
  sc : BitVec 3
  yl : Bool
  imm : BitVec 32
  deriving DecidableEq, Repr

/-- The fields of a word (R49). -/
def Fields.ofWord (w : IWord) : Fields where
  op := w.extractLsb' 0 8
  fn := w.extractLsb' 8 8
  d := w.extractLsb' 16 9
  a := w.extractLsb' 25 9
  b := w.extractLsb' 34 9
  c := w.extractLsb' 43 9
  e := w.extractLsb' 52 9
  g1i := w.extractLsb' 61 3
  g1n := w.getLsbD 64
  g2i := w.extractLsb' 65 3
  g2n := w.getLsbD 68
  ch := w.extractLsb' 69 3
  ty := w.extractLsb' 72 5
  cc := w.getLsbD 77
  bi := w.getLsbD 78
  mod := w.extractLsb' 79 13
  sc := w.extractLsb' 92 3
  yl := w.getLsbD 95
  imm := w.extractLsb' 96 32

/-- The word of the fields (R49). -/
def Fields.toWord (f : Fields) : IWord :=
  f.imm ++ BitVec.ofBool f.yl ++ f.sc ++ f.mod ++ BitVec.ofBool f.bi ++ BitVec.ofBool f.cc ++ f.ty ++
    f.ch ++ BitVec.ofBool f.g2n ++ f.g2i ++ BitVec.ofBool f.g1n ++ f.g1i ++ f.e ++ f.c ++ f.b ++ f.a ++
    f.d ++ f.fn ++ f.op

/-- A word with OP, FN and the shared fields, every other field zero. -/
def Fields.base (h : Hdr) (op fn : BitVec 8) : Fields where
  op := op
  fn := fn
  d := 0
  a := 0
  b := 0
  c := 0
  e := 0
  g1i := h.g1.idx
  g1n := h.g1.neg
  g2i := h.g2.idx
  g2n := h.g2.neg
  ch := 0
  ty := 0
  cc := false
  bi := false
  mod := 0
  sc := h.sc
  yl := h.yl
  imm := 0

def Fields.hdr (f : Fields) : Hdr := ⟨⟨f.g1n, f.g1i⟩, ⟨f.g2n, f.g2i⟩, f.sc, f.yl⟩

/-- Operand B (R59). -/
def Fields.srcB (f : Fields) : SrcB := if f.bi then .imm f.imm else .reg f.b

def Fields.setB (f : Fields) : SrcB → Fields
  | .reg r => { f with b := r }
  | .imm v => { f with bi := true, imm := v }

/-! The code tables of R60, R92, R97, R57, R180. -/

def LTy.code : LTy → BitVec 5
  | .s8 => 0x01
  | .n8 => 0x02
  | .s16 => 0x03
  | .n16 => 0x04
  | .s32 => 0x05
  | .n32 => 0x06
  | .s64 => 0x07
  | .n64 => 0x08
  | .f16 => 0x09
  | .bf16 => 0x0A
  | .f32 => 0x0B
  | .f64 => 0x0C
  | .f16x2 => 0x0D
  | .bf16x2 => 0x0E
  | .b32 => 0x0F
  | .b64 => 0x10
  | .b128 => 0x11

def LTy.ofCode (c : BitVec 5) : Option LTy :=
  match c.toNat with
  | 1 => some .s8
  | 2 => some .n8
  | 3 => some .s16
  | 4 => some .n16
  | 5 => some .s32
  | 6 => some .n32
  | 7 => some .s64
  | 8 => some .n64
  | 9 => some .f16
  | 10 => some .bf16
  | 11 => some .f32
  | 12 => some .f64
  | 13 => some .f16x2
  | 14 => some .bf16x2
  | 15 => some .b32
  | 16 => some .b64
  | 17 => some .b128
  | _ => none

def Fmt.code : Fmt → BitVec 5
  | .s8p1 => 0x00
  | .s8p2 => 0x01
  | .s8p3 => 0x02
  | .s8p4 => 0x03
  | .s8p5 => 0x04
  | .s8p6 => 0x05
  | .s8p7 => 0x06
  | .s8p1f => 0x08
  | .s8p2f => 0x09
  | .s8p3f => 0x0A
  | .s8p4f => 0x0B
  | .s8p5f => 0x0C
  | .s8p6f => 0x0D
  | .s8p7f => 0x0E
  | .n8p1 => 0x10
  | .n8p2 => 0x11
  | .n8p3 => 0x12
  | .n8p4 => 0x13
  | .n8p5 => 0x14
  | .n8p6 => 0x15
  | .n8p7 => 0x16
  | .int8 => 0x18
  | .uint8 => 0x19
  | .int4 => 0x1A
  | .fp16 => 0x1B
  | .bf16 => 0x1C
  | .fp32 => 0x1D

def Fmt.ofCode (c : BitVec 5) : Option Fmt :=
  match c.toNat with
  | 0 => some .s8p1
  | 1 => some .s8p2
  | 2 => some .s8p3
  | 3 => some .s8p4
  | 4 => some .s8p5
  | 5 => some .s8p6
  | 6 => some .s8p7
  | 8 => some .s8p1f
  | 9 => some .s8p2f
  | 10 => some .s8p3f
  | 11 => some .s8p4f
  | 12 => some .s8p5f
  | 13 => some .s8p6f
  | 14 => some .s8p7f
  | 16 => some .n8p1
  | 17 => some .n8p2
  | 18 => some .n8p3
  | 19 => some .n8p4
  | 20 => some .n8p5
  | 21 => some .n8p6
  | 22 => some .n8p7
  | 24 => some .int8
  | 25 => some .uint8
  | 26 => some .int4
  | 27 => some .fp16
  | 28 => some .bf16
  | 29 => some .fp32
  | _ => none

def Rm.code : Rm → BitVec 3
  | .nearestEven => 0x00
  | .towardZero => 0x01
  | .upward => 0x02
  | .downward => 0x03
  | .nearestAway => 0x04

def Rm.ofCode (c : BitVec 3) : Option Rm :=
  match c.toNat with
  | 0 => some .nearestEven
  | 1 => some .towardZero
  | 2 => some .upward
  | 3 => some .downward
  | 4 => some .nearestAway
  | _ => none

def Hint.code : Hint → BitVec 3
  | .default => 0x00
  | .stream => 0x01
  | .keep => 0x02
  | .nol1 => 0x03
  | .nomsc => 0x04
  | .last => 0x05

def Hint.ofCode (c : BitVec 3) : Option Hint :=
  match c.toNat with
  | 0 => some .default
  | 1 => some .stream
  | 2 => some .keep
  | 3 => some .nol1
  | 4 => some .nomsc
  | 5 => some .last
  | _ => none

def Scope.code : Scope → BitVec 3
  | .none => 0x00
  | .warp => 0x01
  | .block => 0x02
  | .die => 0x03
  | .module => 0x04
  | .system => 0x05

def Scope.ofCode (c : BitVec 3) : Option Scope :=
  match c.toNat with
  | 0 => some .none
  | 1 => some .warp
  | 2 => some .block
  | 3 => some .die
  | 4 => some .module
  | 5 => some .system
  | _ => none

/-- MOD with SAT in bit 0 (R116, R120). -/
def mod1 (sat : Bool) : BitVec 13 := 0#12 ++ BitVec.ofBool sat

/-- MOD[12:4] of SETP (R125). -/
def PredDst.bits (p : PredDst) : BitVec 9 := BitVec.ofBool p.psn ++ p.bop ++ p.ps ++ p.pd

/-- MOD of the access forms (R180). -/
def Acc.modBits (x : Acc) (bw : Bool) : BitVec 13 :=
  x.scope.code ++ x.sem ++ 0#2 ++ BitVec.ofBool bw ++ 0#1 ++ BitVec.ofBool x.sp ++ 0#3

/-- The fields that LD, ST, ATOM and RED share (R180); bit 4 of AS must be zero, which the decoder
checks with the unused fields. -/
def Fields.acc (f : Fields) : Option Acc := do
  let scope ← Scope.ofCode (f.mod.extractLsb' 10 3)
  let ch ← Hint.ofCode f.ch
  some { scope := scope, sem := f.mod.extractLsb' 8 2, sp := f.mod.getLsbD 3, ch := ch, a := f.a, off := f.imm }

/-- MOD[8:0] of BAR: IX and BIDX (R196). -/
def BarIx.bits : BarIx → BitVec 9
  | .bidx i => 0#1 ++ i
  | .reg _ => 0x100#9

/-- Field A of BAR (R196). -/
def BarIx.areg : BarIx → Reg
  | .bidx _ => 0
  | .reg a => a

def Fields.barIx (f : Fields) : BarIx :=
  if f.mod.getLsbD 8 then .reg f.a else .bidx (f.mod.extractLsb' 0 8)

/-- UNIT (R229). -/
def unitBits : UnitSel → BitVec 3
  | none => 0#3
  | some m => 1#1 ++ m

def unitOf (b : BitVec 3) : Option UnitSel :=
  if b == 0 then some none else if b.getLsbD 2 then some (some (b.extractLsb' 0 2)) else none

/-- BSEP and BFMT (R235). -/
def bfmtBits : Option Fmt → BitVec 6
  | none => 0#6
  | some f => 1#1 ++ f.code

def bfmtOf (bsep : Bool) (c : BitVec 5) : Option (Option Fmt) :=
  if bsep then (Fmt.ofCode c).map some else some none

/-! One encoder and one parser per instruction shape. The parser reads the fields that the shape
uses. -/

def IntBin.enc (op fn : BitVec 8) (x : IntBin) : Fields :=
  ({ Fields.base x.h op fn with ty := x.ty.code, cc := x.cc, mod := mod1 x.sat, d := x.d, a := x.a } : Fields).setB x.b

def IntBin.parse (f : Fields) : Option IntBin := do
  let ty ← LTy.ofCode f.ty
  some { h := f.hdr, ty := ty, sat := f.mod.getLsbD 0, cc := f.cc, d := f.d, a := f.a, b := f.srcB }

def IntUn.enc (op fn : BitVec 8) (x : IntUn) : Fields :=
  { Fields.base x.h op fn with ty := x.ty.code, cc := x.cc, mod := mod1 x.sat, d := x.d, a := x.a }

def IntUn.parse (f : Fields) : Option IntUn := do
  let ty ← LTy.ofCode f.ty
  some { h := f.hdr, ty := ty, sat := f.mod.getLsbD 0, cc := f.cc, d := f.d, a := f.a }

def Typed2.enc (op fn : BitVec 8) (x : Typed2) : Fields :=
  ({ Fields.base x.h op fn with ty := x.ty.code, d := x.d, a := x.a } : Fields).setB x.b

def Typed2.parse (f : Fields) : Option Typed2 := do
  let ty ← LTy.ofCode f.ty
  some { h := f.hdr, ty := ty, d := f.d, a := f.a, b := f.srcB }

def Typed3.enc (op fn : BitVec 8) (x : Typed3) : Fields :=
  ({ Fields.base x.h op fn with ty := x.ty.code, d := x.d, a := x.a, c := x.c } : Fields).setB x.b

def Typed3.parse (f : Fields) : Option Typed3 := do
  let ty ← LTy.ofCode f.ty
  some { h := f.hdr, ty := ty, d := f.d, a := f.a, b := f.srcB, c := f.c }

def Dot4.enc (op fn : BitVec 8) (x : Dot4) : Fields :=
  ({ Fields.base x.h op fn with ty := x.ty.code, mod := mod1 x.sat, d := x.d, a := x.a, c := x.c } : Fields).setB x.b

def Dot4.parse (f : Fields) : Option Dot4 := do
  let ty ← LTy.ofCode f.ty
  some { h := f.hdr, ty := ty, sat := f.mod.getLsbD 0, d := f.d, a := f.a, b := f.srcB, c := f.c }

def Logic2.enc (op fn : BitVec 8) (x : Logic2) : Fields :=
  ({ Fields.base x.h op fn with ty := x.ty.code, cc := x.cc, d := x.d, a := x.a } : Fields).setB x.b

def Logic2.parse (f : Fields) : Option Logic2 := do
  let ty ← LTy.ofCode f.ty
  some { h := f.hdr, ty := ty, cc := f.cc, d := f.d, a := f.a, b := f.srcB }

def Logic1.enc (op fn : BitVec 8) (x : Logic1) : Fields :=
  { Fields.base x.h op fn with ty := x.ty.code, cc := x.cc, d := x.d, a := x.a }

def Logic1.parse (f : Fields) : Option Logic1 := do
  let ty ← LTy.ofCode f.ty
  some { h := f.hdr, ty := ty, cc := f.cc, d := f.d, a := f.a }

def Truth.enc (op fn : BitVec 8) (x : Truth) : Fields :=
  ({ Fields.base x.h op fn with ty := x.ty.code, cc := x.cc, mod := 0#5 ++ x.tbl, d := x.d, a := x.a, c := x.c } : Fields).setB x.b

def Truth.parse (f : Fields) : Option Truth := do
  let ty ← LTy.ofCode f.ty
  some { h := f.hdr, ty := ty, cc := f.cc, tbl := f.mod.extractLsb' 0 8, d := f.d, a := f.a, b := f.srcB, c := f.c }

def Typed1.enc (op fn : BitVec 8) (x : Typed1) : Fields :=
  { Fields.base x.h op fn with ty := x.ty.code, d := x.d, a := x.a }

def Typed1.parse (f : Fields) : Option Typed1 := do
  let ty ← LTy.ofCode f.ty
  some { h := f.hdr, ty := ty, d := f.d, a := f.a }

def MovOp.enc (op fn : BitVec 8) (x : MovOp) : Fields :=
  ({ Fields.base x.h op fn with ty := x.ty.code, d := x.d } : Fields).setB x.b

def MovOp.parse (f : Fields) : Option MovOp := do
  let ty ← LTy.ofCode f.ty
  some { h := f.hdr, ty := ty, d := f.d, b := f.srcB }

def SetpCmp.enc (op fn : BitVec 8) (x : SetpCmp) : Fields :=
  ({ Fields.base x.h op fn with ty := x.ty.code, mod := x.p.bits ++ x.cmp, a := x.a } : Fields).setB x.b

def SetpCmp.parse (f : Fields) : Option SetpCmp := do
  let ty ← LTy.ofCode f.ty
  some { h := f.hdr, ty := ty, p := ⟨f.mod.getLsbD 12, f.mod.extractLsb' 10 2, f.mod.extractLsb' 7 3, f.mod.extractLsb' 4 3⟩, cmp := f.mod.extractLsb' 0 4, a := f.a, b := f.srcB }

def SetpCct.enc (op fn : BitVec 8) (x : SetpCct) : Fields :=
  { Fields.base x.h op fn with mod := x.p.bits ++ x.test }

def SetpCct.parse (f : Fields) : Option SetpCct :=
  some { h := f.hdr, p := ⟨f.mod.getLsbD 12, f.mod.extractLsb' 10 2, f.mod.extractLsb' 7 3, f.mod.extractLsb' 4 3⟩, test := f.mod.extractLsb' 0 4 }

def SetpClass.enc (op fn : BitVec 8) (x : SetpClass) : Fields :=
  { Fields.base x.h op fn with ty := x.ty.code, mod := x.p.bits ++ 0#4, a := x.a, imm := 0#23 ++ x.cls }

def SetpClass.parse (f : Fields) : Option SetpClass := do
  let ty ← LTy.ofCode f.ty
  some { h := f.hdr, ty := ty, p := ⟨f.mod.getLsbD 12, f.mod.extractLsb' 10 2, f.mod.extractLsb' 7 3, f.mod.extractLsb' 4 3⟩, a := f.a, cls := f.imm.extractLsb' 0 9 }

def Pcomb.enc (op fn : BitVec 8) (x : Pcomb) : Fields :=
  { Fields.base x.h op fn with mod := 0#1 ++ x.pd ++ x.pc ++ x.pb ++ x.pa, imm := 0#24 ++ x.tbl }

def Pcomb.parse (f : Fields) : Option Pcomb :=
  some { h := f.hdr, pa := f.mod.extractLsb' 0 3, pb := f.mod.extractLsb' 3 3, pc := f.mod.extractLsb' 6 3, pd := f.mod.extractLsb' 9 3, tbl := f.imm.extractLsb' 0 8 }

def SelP.enc (op fn : BitVec 8) (x : SelP) : Fields :=
  ({ Fields.base x.h op fn with ty := x.ty.code, mod := 0#9 ++ BitVec.ofBool x.psn ++ x.ps, d := x.d, a := x.a } : Fields).setB x.b

def SelP.parse (f : Fields) : Option SelP := do
  let ty ← LTy.ofCode f.ty
  some { h := f.hdr, ty := ty, psn := f.mod.getLsbD 3, ps := f.mod.extractLsb' 0 3, d := f.d, a := f.a, b := f.srcB }

def SelCc.enc (op fn : BitVec 8) (x : SelCc) : Fields :=
  ({ Fields.base x.h op fn with ty := x.ty.code, mod := 0#9 ++ x.test, d := x.d, a := x.a } : Fields).setB x.b

def SelCc.parse (f : Fields) : Option SelCc := do
  let ty ← LTy.ofCode f.ty
  some { h := f.hdr, ty := ty, test := f.mod.extractLsb' 0 4, d := f.d, a := f.a, b := f.srcB }

def DOnly.enc (op fn : BitVec 8) (x : DOnly) : Fields :=
  { Fields.base x.h op fn with d := x.d }

def DOnly.parse (f : Fields) : Option DOnly :=
  some { h := f.hdr, d := f.d }

def PmovFrom.enc (op fn : BitVec 8) (x : PmovFrom) : Fields :=
  { Fields.base x.h op fn with a := x.a, imm := 0#25 ++ x.mask }

def PmovFrom.parse (f : Fields) : Option PmovFrom :=
  some { h := f.hdr, a := f.a, mask := f.imm.extractLsb' 0 7 }

def Flt2.enc (op fn : BitVec 8) (x : Flt2) : Fields :=
  ({ Fields.base x.h op fn with ty := x.ty.code, mod := 0#10 ++ x.rm.code, cc := x.cc, d := x.d, a := x.a } : Fields).setB x.b

def Flt2.parse (f : Fields) : Option Flt2 := do
  let ty ← LTy.ofCode f.ty
  let rm ← Rm.ofCode (f.mod.extractLsb' 0 3)
  some { h := f.hdr, ty := ty, rm := rm, cc := f.cc, d := f.d, a := f.a, b := f.srcB }

def Flt3.enc (op fn : BitVec 8) (x : Flt3) : Fields :=
  ({ Fields.base x.h op fn with ty := x.ty.code, mod := 0#10 ++ x.rm.code, cc := x.cc, d := x.d, a := x.a, c := x.c } : Fields).setB x.b

def Flt3.parse (f : Fields) : Option Flt3 := do
  let ty ← LTy.ofCode f.ty
  let rm ← Rm.ofCode (f.mod.extractLsb' 0 3)
  some { h := f.hdr, ty := ty, rm := rm, cc := f.cc, d := f.d, a := f.a, b := f.srcB, c := f.c }

def FltMm.enc (op fn : BitVec 8) (x : FltMm) : Fields :=
  ({ Fields.base x.h op fn with ty := x.ty.code, mod := 0#9 ++ BitVec.ofBool x.nanp ++ 0#3, cc := x.cc, d := x.d, a := x.a } : Fields).setB x.b

def FltMm.parse (f : Fields) : Option FltMm := do
  let ty ← LTy.ofCode f.ty
  some { h := f.hdr, ty := ty, nanp := f.mod.getLsbD 3, cc := f.cc, d := f.d, a := f.a, b := f.srcB }

def Flt1.enc (op fn : BitVec 8) (x : Flt1) : Fields :=
  { Fields.base x.h op fn with ty := x.ty.code, cc := x.cc, d := x.d, a := x.a }

def Flt1.parse (f : Fields) : Option Flt1 := do
  let ty ← LTy.ofCode f.ty
  some { h := f.hdr, ty := ty, cc := f.cc, d := f.d, a := f.a }

def FltRint.enc (op fn : BitVec 8) (x : FltRint) : Fields :=
  { Fields.base x.h op fn with ty := x.ty.code, mod := 0#10 ++ x.rm.code, d := x.d, a := x.a }

def FltRint.parse (f : Fields) : Option FltRint := do
  let ty ← LTy.ofCode f.ty
  let rm ← Rm.ofCode (f.mod.extractLsb' 0 3)
  some { h := f.hdr, ty := ty, rm := rm, d := f.d, a := f.a }

def SfuOp.enc (op fn : BitVec 8) (x : SfuOp) : Fields :=
  { Fields.base x.h op fn with ty := LTy.f32.code, mod := 0#10 ++ x.rm.code, d := x.d, a := x.a }

def SfuOp.parse (f : Fields) : Option SfuOp := do
  let rm ← Rm.ofCode (f.mod.extractLsb' 0 3)
  some { h := f.hdr, rm := rm, d := f.d, a := f.a }

def CvtOp.enc (op fn : BitVec 8) (x : CvtOp) : Fields :=
  { Fields.base x.h op fn with ty := x.ty.code, mod := 0#4 ++ x.lt.code ++ BitVec.ofBool x.sat ++ x.rm.code, d := x.d, a := x.a }

def CvtOp.parse (f : Fields) : Option CvtOp := do
  let ty ← LTy.ofCode f.ty
  let lt ← LTy.ofCode (f.mod.extractLsb' 4 5)
  let rm ← Rm.ofCode (f.mod.extractLsb' 0 3)
  some { h := f.hdr, ty := ty, lt := lt, sat := f.mod.getLsbD 3, rm := rm, d := f.d, a := f.a }

def PackOp.enc (op fn : BitVec 8) (x : PackOp) : Fields :=
  { Fields.base x.h op fn with ty := x.fmt.code, mod := 0#4 ++ x.lt.code ++ BitVec.ofBool x.sat ++ x.rm.code, d := x.d, a := x.a }

def PackOp.parse (f : Fields) : Option PackOp := do
  let fmt ← Fmt.ofCode f.ty
  let lt ← LTy.ofCode (f.mod.extractLsb' 4 5)
  let rm ← Rm.ofCode (f.mod.extractLsb' 0 3)
  some { h := f.hdr, fmt := fmt, lt := lt, sat := f.mod.getLsbD 3, rm := rm, d := f.d, a := f.a }

def VpermOp.enc (op fn : BitVec 8) (x : VpermOp) : Fields :=
  ({ Fields.base x.h op fn with ty := x.ty.code, mod := 0#5 ++ BitVec.ofBool x.pw ++ x.pd ++ 0#1 ++ x.seg, d := x.d, a := x.a, c := x.c } : Fields).setB x.b

def VpermOp.parse (f : Fields) : Option VpermOp := do
  let ty ← LTy.ofCode f.ty
  some { h := f.hdr, ty := ty, pw := f.mod.getLsbD 7, pd := f.mod.extractLsb' 4 3, seg := f.mod.extractLsb' 0 3, d := f.d, a := f.a, b := f.srcB, c := f.c }

def ReduceOp.enc (op fn : BitVec 8) (x : ReduceOp) : Fields :=
  { Fields.base x.h op fn with ty := x.ty.code, mod := 0#9 ++ BitVec.ofBool x.nanp ++ x.rm.code, d := x.d, a := x.a }

def ReduceOp.parse (f : Fields) : Option ReduceOp := do
  let ty ← LTy.ofCode f.ty
  let rm ← Rm.ofCode (f.mod.extractLsb' 0 3)
  some { h := f.hdr, ty := ty, rm := rm, nanp := f.mod.getLsbD 3, d := f.d, a := f.a }

def ScanOp.enc (op fn : BitVec 8) (x : ScanOp) : Fields :=
  { Fields.base x.h op fn with ty := x.ty.code, mod := 0#6 ++ x.op ++ BitVec.ofBool x.nanp ++ x.rm.code, d := x.d, a := x.a }

def ScanOp.parse (f : Fields) : Option ScanOp := do
  let ty ← LTy.ofCode f.ty
  let rm ← Rm.ofCode (f.mod.extractLsb' 0 3)
  some { h := f.hdr, ty := ty, rm := rm, nanp := f.mod.getLsbD 3, op := f.mod.extractLsb' 4 3, d := f.d, a := f.a }

def BallotOp.enc (op fn : BitVec 8) (x : BallotOp) : Fields :=
  { Fields.base x.h op fn with mod := 0#9 ++ BitVec.ofBool x.psn ++ x.ps, d := x.d }

def BallotOp.parse (f : Fields) : Option BallotOp :=
  some { h := f.hdr, psn := f.mod.getLsbD 3, ps := f.mod.extractLsb' 0 3, d := f.d }

def VoteOp.enc (op fn : BitVec 8) (x : VoteOp) : Fields :=
  { Fields.base x.h op fn with mod := 0#6 ++ x.pd ++ BitVec.ofBool x.psn ++ x.ps }

def VoteOp.parse (f : Fields) : Option VoteOp :=
  some { h := f.hdr, psn := f.mod.getLsbD 3, ps := f.mod.extractLsb' 0 3, pd := f.mod.extractLsb' 4 3 }

def UmovLane.enc (op fn : BitVec 8) (x : UmovLane) : Fields :=
  ({ Fields.base x.h op fn with ty := x.ty.code, d := x.d, a := x.a, c := x.c } : Fields).setB x.b

def UmovLane.parse (f : Fields) : Option UmovLane := do
  let ty ← LTy.ofCode f.ty
  some { h := f.hdr, ty := ty, d := f.d, a := f.a, b := f.srcB, c := f.c }

def DispOp.enc (op fn : BitVec 8) (x : DispOp) : Fields :=
  { Fields.base x.h op fn with imm := x.disp }

def DispOp.parse (f : Fields) : Option DispOp :=
  some { h := f.hdr, disp := f.imm }

def AOnly.enc (op fn : BitVec 8) (x : AOnly) : Fields :=
  { Fields.base x.h op fn with a := x.a }

def AOnly.parse (f : Fields) : Option AOnly :=
  some { h := f.hdr, a := f.a }

def CallOp.enc (op fn : BitVec 8) (x : CallOp) : Fields :=
  { Fields.base x.h op fn with d := x.d, imm := x.disp }

def CallOp.parse (f : Fields) : Option CallOp :=
  some { h := f.hdr, d := f.d, disp := f.imm }

def CallxOp.enc (op fn : BitVec 8) (x : CallxOp) : Fields :=
  { Fields.base x.h op fn with d := x.d, a := x.a }

def CallxOp.parse (f : Fields) : Option CallxOp :=
  some { h := f.hdr, d := f.d, a := f.a }

def Bare.enc (op fn : BitVec 8) (x : Bare) : Fields :=
  Fields.base x.h op fn

def Bare.parse (f : Fields) : Option Bare :=
  some { h := f.hdr }

def WaitcOp.enc (op fn : BitVec 8) (x : WaitcOp) : Fields :=
  { Fields.base x.h op fn with imm := x.tl ++ x.cp ++ x.st ++ x.ld }

def WaitcOp.parse (f : Fields) : Option WaitcOp :=
  some { h := f.hdr, tl := f.imm.extractLsb' 24 8, cp := f.imm.extractLsb' 16 8, st := f.imm.extractLsb' 8 8, ld := f.imm.extractLsb' 0 8 }

def SreadOp.enc (op fn : BitVec 8) (x : SreadOp) : Fields :=
  { Fields.base x.h op fn with d := x.d, imm := 0#28 ++ x.spec }

def SreadOp.parse (f : Fields) : Option SreadOp :=
  some { h := f.hdr, d := f.d, spec := f.imm.extractLsb' 0 4 }

def LdOp.enc (op fn : BitVec 8) (x : LdOp) : Fields :=
  { Fields.base x.h op fn with ty := x.ty.code, mod := x.x.modBits x.bw, ch := x.x.ch.code, a := x.x.a, imm := x.x.off, d := x.d }

def LdOp.parse (f : Fields) : Option LdOp := do
  let ty ← LTy.ofCode f.ty
  let x ← f.acc
  some { h := f.hdr, ty := ty, x := x, bw := f.mod.getLsbD 5, d := f.d }

def StOp.enc (op fn : BitVec 8) (x : StOp) : Fields :=
  { Fields.base x.h op fn with ty := x.ty.code, mod := x.x.modBits x.bw, ch := x.x.ch.code, a := x.x.a, imm := x.x.off, b := x.b }

def StOp.parse (f : Fields) : Option StOp := do
  let ty ← LTy.ofCode f.ty
  let x ← f.acc
  some { h := f.hdr, ty := ty, x := x, bw := f.mod.getLsbD 5, b := f.b }

def PrefOp.enc (op fn : BitVec 8) (x : PrefOp) : Fields :=
  { Fields.base x.h op fn with ch := x.ch.code, mod := 0#9 ++ BitVec.ofBool x.sp ++ 0#3, a := x.a, imm := x.off }

def PrefOp.parse (f : Fields) : Option PrefOp := do
  let ch ← Hint.ofCode f.ch
  some { h := f.hdr, ch := ch, sp := f.mod.getLsbD 3, a := f.a, off := f.imm }

def CctlOp.enc (op fn : BitVec 8) (x : CctlOp) : Fields :=
  { Fields.base x.h op fn with mod := 0#9 ++ BitVec.ofBool x.sp ++ 0#2 ++ BitVec.ofBool x.all, a := x.a, imm := x.off }

def CctlOp.parse (f : Fields) : Option CctlOp :=
  some { h := f.hdr, all := f.mod.getLsbD 0, sp := f.mod.getLsbD 3, a := f.a, off := f.imm }

def AtomOp.enc (op fn : BitVec 8) (x : AtomOp) : Fields :=
  { Fields.base x.h op fn with ty := x.ty.code, mod := x.x.modBits false, ch := x.x.ch.code, a := x.x.a, imm := x.x.off, d := x.d, b := x.b, c := x.c }

def AtomOp.parse (f : Fields) : Option AtomOp := do
  let ty ← LTy.ofCode f.ty
  let x ← f.acc
  some { h := f.hdr, ty := ty, x := x, d := f.d, b := f.b, c := f.c }

def RedOp.enc (op fn : BitVec 8) (x : RedOp) : Fields :=
  { Fields.base x.h op fn with ty := x.ty.code, mod := x.x.modBits false, ch := x.x.ch.code, a := x.x.a, imm := x.x.off, b := x.b }

def RedOp.parse (f : Fields) : Option RedOp := do
  let ty ← LTy.ofCode f.ty
  let x ← f.acc
  some { h := f.hdr, ty := ty, x := x, b := f.b }

def FenceOp.enc (op fn : BitVec 8) (x : FenceOp) : Fields :=
  { Fields.base x.h op fn with mod := x.scope.code ++ x.kind ++ 0#8 }

def FenceOp.parse (f : Fields) : Option FenceOp := do
  let scope ← Scope.ofCode (f.mod.extractLsb' 10 3)
  some { h := f.hdr, scope := scope, kind := f.mod.extractLsb' 8 2 }

def BarInit.enc (op fn : BitVec 8) (x : BarInit) : Fields :=
  ({ Fields.base x.h op fn with mod := BitVec.ofBool x.off ++ 0#1 ++ 0#2 ++ x.ix.bits, a := x.ix.areg, c := x.c } : Fields).setB x.b

def BarInit.parse (f : Fields) : Option BarInit :=
  some { h := f.hdr, off := f.mod.getLsbD 12, ix := f.barIx, b := f.srcB, c := f.c }

def BarExpect.enc (op fn : BitVec 8) (x : BarExpect) : Fields :=
  ({ Fields.base x.h op fn with mod := 0#1 ++ BitVec.ofBool x.rmt ++ x.spc ++ x.ix.bits, a := x.ix.areg } : Fields).setB x.b

def BarExpect.parse (f : Fields) : Option BarExpect :=
  some { h := f.hdr, rmt := f.mod.getLsbD 11, spc := f.mod.extractLsb' 9 2, ix := f.barIx, b := f.srcB }

def BarArrive.enc (op fn : BitVec 8) (x : BarArrive) : Fields :=
  { Fields.base x.h op fn with mod := 0#1 ++ BitVec.ofBool x.rmt ++ x.spc ++ x.ix.bits, a := x.ix.areg }

def BarArrive.parse (f : Fields) : Option BarArrive :=
  some { h := f.hdr, rmt := f.mod.getLsbD 11, spc := f.mod.extractLsb' 9 2, ix := f.barIx }

def BarWait.enc (op fn : BitVec 8) (x : BarWait) : Fields :=
  ({ Fields.base x.h op fn with mod := 0#1 ++ 0#1 ++ 0#2 ++ x.ix.bits, a := x.ix.areg } : Fields).setB x.b

def BarWait.parse (f : Fields) : Option BarWait :=
  some { h := f.hdr, ix := f.barIx, b := f.srcB }

def QclaimOp.enc (op fn : BitVec 8) (x : QclaimOp) : Fields :=
  ({ Fields.base x.h op fn with mod := 0#10 ++ x.pd, d := x.d, a := x.a } : Fields).setB x.b

def QclaimOp.parse (f : Fields) : Option QclaimOp :=
  some { h := f.hdr, pd := f.mod.extractLsb' 0 3, d := f.d, a := f.a, b := f.srcB }

def QposOp.enc (op fn : BitVec 8) (x : QposOp) : Fields :=
  ({ Fields.base x.h op fn with a := x.a, c := x.c } : Fields).setB x.b

def QposOp.parse (f : Fields) : Option QposOp :=
  some { h := f.hdr, a := f.a, b := f.srcB, c := f.c }

def QawaitOp.enc (op fn : BitVec 8) (x : QawaitOp) : Fields :=
  ({ Fields.base x.h op fn with d := x.d, a := x.a } : Fields).setB x.b

def QawaitOp.parse (f : Fields) : Option QawaitOp :=
  some { h := f.hdr, d := f.d, a := f.a, b := f.srcB }

def PushOp.enc (op fn : BitVec 8) (x : PushOp) : Fields :=
  { Fields.base x.h op fn with mod := 0#8 ++ x.tgt ++ x.pd, a := x.a, c := x.c }

def PushOp.parse (f : Fields) : Option PushOp :=
  some { h := f.hdr, tgt := f.mod.extractLsb' 3 2, pd := f.mod.extractLsb' 0 3, a := f.a, c := f.c }

def EvsigOp.enc (op fn : BitVec 8) (x : EvsigOp) : Fields :=
  { Fields.base x.h op fn with mod := 0#12 ++ BitVec.ofBool x.ea, a := x.a, imm := x.bym1 ++ x.ev }

def EvsigOp.parse (f : Fields) : Option EvsigOp :=
  some { h := f.hdr, ea := f.mod.getLsbD 0, a := f.a, ev := f.imm.extractLsb' 0 16, bym1 := f.imm.extractLsb' 16 16 }

def PublishOp.enc (op fn : BitVec 8) (x : PublishOp) : Fields :=
  { Fields.base x.h op fn with mod := x.scope.code ++ 0#10, imm := 0#24 ++ x.win }

def PublishOp.parse (f : Fields) : Option PublishOp := do
  let scope ← Scope.ofCode (f.mod.extractLsb' 10 3)
  some { h := f.hdr, scope := scope, win := f.imm.extractLsb' 0 8 }

def MmaOp.enc (op fn : BitVec 8) (x : MmaOp) : Fields :=
  { Fields.base x.h op fn with ty := x.fmt.code, mod := unitBits x.unit ++ BitVec.ofBool x.za ++ 0#3 ++ bfmtBits x.bfmt, imm := 0#14 ++ x.col ++ 0#1 ++ x.fb ++ 0#1 ++ x.fa ++ 0#1 ++ x.acc }

def MmaOp.parse (f : Fields) : Option MmaOp := do
  let fmt ← Fmt.ofCode f.ty
  let unit ← unitOf (f.mod.extractLsb' 10 3)
  let bfmt ← bfmtOf (f.mod.getLsbD 5) (f.mod.extractLsb' 0 5)
  some { h := f.hdr, fmt := fmt, unit := unit, za := f.mod.getLsbD 9, bfmt := bfmt, col := f.imm.extractLsb' 16 2, fb := f.imm.extractLsb' 12 3, fa := f.imm.extractLsb' 8 3, acc := f.imm.extractLsb' 0 7 }

def MscaleOp.enc (op fn : BitVec 8) (x : MscaleOp) : Fields :=
  { Fields.base x.h op fn with mod := unitBits x.unit ++ BitVec.ofBool x.si ++ 0#9, a := x.a, imm := 0#8 ++ x.col ++ x.nw ++ 0#1 ++ x.fs ++ 0#1 ++ x.ts ++ 0#1 ++ x.td }

def MscaleOp.parse (f : Fields) : Option MscaleOp := do
  let unit ← unitOf (f.mod.extractLsb' 10 3)
  some { h := f.hdr, unit := unit, si := f.mod.getLsbD 9, a := f.a, col := f.imm.extractLsb' 22 2, nw := f.imm.extractLsb' 20 2, fs := f.imm.extractLsb' 16 3, ts := f.imm.extractLsb' 8 7, td := f.imm.extractLsb' 0 7 }

def MzeroOp.enc (op fn : BitVec 8) (x : MzeroOp) : Fields :=
  { Fields.base x.h op fn with mod := unitBits x.unit ++ 0#10, imm := 0#25 ++ x.acc }

def MzeroOp.parse (f : Fields) : Option MzeroOp := do
  let unit ← unitOf (f.mod.extractLsb' 10 3)
  some { h := f.hdr, unit := unit, acc := f.imm.extractLsb' 0 7 }

def MmovOp.encLd (op fn : BitVec 8) (x : MmovOp) : Fields :=
  { Fields.base x.h op fn with mod := unitBits x.unit ++ 0#7 ++ x.nc, imm := 0#18 ++ x.col ++ 0#1 ++ x.acc, d := x.r }

def MmovOp.parseLd (f : Fields) : Option MmovOp := do
  let unit ← unitOf (f.mod.extractLsb' 10 3)
  some { h := f.hdr, unit := unit, nc := f.mod.extractLsb' 0 3, col := f.imm.extractLsb' 8 6, acc := f.imm.extractLsb' 0 7, r := f.d }

def MmovOp.encSt (op fn : BitVec 8) (x : MmovOp) : Fields :=
  { Fields.base x.h op fn with mod := unitBits x.unit ++ 0#7 ++ x.nc, imm := 0#18 ++ x.col ++ 0#1 ++ x.acc, a := x.r }

def MmovOp.parseSt (f : Fields) : Option MmovOp := do
  let unit ← unitOf (f.mod.extractLsb' 10 3)
  some { h := f.hdr, unit := unit, nc := f.mod.extractLsb' 0 3, col := f.imm.extractLsb' 8 6, acc := f.imm.extractLsb' 0 7, r := f.a }

def FpushOp.enc (op fn : BitVec 8) (x : FpushOp) : Fields :=
  { Fields.base x.h op fn with ty := x.fmt.code, mod := 0#5 ++ x.nr ++ BitVec.ofBool x.cv ++ BitVec.ofBool x.sat ++ x.rm.code, a := x.a, imm := 0#29 ++ x.fifo }

def FpushOp.parse (f : Fields) : Option FpushOp := do
  let fmt ← Fmt.ofCode f.ty
  let rm ← Rm.ofCode (f.mod.extractLsb' 0 3)
  some { h := f.hdr, fmt := fmt, nr := f.mod.extractLsb' 5 3, cv := f.mod.getLsbD 4, sat := f.mod.getLsbD 3, rm := rm, a := f.a, fifo := f.imm.extractLsb' 0 3 }

def MmodeOp.enc (op fn : BitVec 8) (x : MmodeOp) : Fields :=
  { Fields.base x.h op fn with mod := unitBits x.unit ++ 0#7 ++ x.rm.code }

def MmodeOp.parse (f : Fields) : Option MmodeOp := do
  let unit ← unitOf (f.mod.extractLsb' 10 3)
  let rm ← Rm.ofCode (f.mod.extractLsb' 0 3)
  some { h := f.hdr, unit := unit, rm := rm }

def MepiOp.enc (op fn : BitVec 8) (x : MepiOp) : Fields :=
  { Fields.base x.h op fn with mod := unitBits x.unit ++ BitVec.ofBool x.it ++ BitVec.ofBool x.be ++ BitVec.ofBool x.ce ++ 0#7, b := x.b, c := x.c, imm := 0#8 ++ x.col ++ x.nw ++ 0#1 ++ x.fs ++ 0#9 ++ x.acc }

def MepiOp.parse (f : Fields) : Option MepiOp := do
  let unit ← unitOf (f.mod.extractLsb' 10 3)
  some { h := f.hdr, unit := unit, it := f.mod.getLsbD 9, be := f.mod.getLsbD 8, ce := f.mod.getLsbD 7, b := f.b, c := f.c, col := f.imm.extractLsb' 22 2, nw := f.imm.extractLsb' 20 2, fs := f.imm.extractLsb' 16 3, acc := f.imm.extractLsb' 0 7 }

def CmpsOp.enc (op fn : BitVec 8) (x : CmpsOp) : Fields :=
  { Fields.base x.h op fn with a := x.a, c := x.c }

def CmpsOp.parse (f : Fields) : Option CmpsOp :=
  some { h := f.hdr, a := f.a, c := f.c }

def CreadOp.enc (op fn : BitVec 8) (x : CreadOp) : Fields :=
  { Fields.base x.h op fn with d := x.d, a := x.a }

def CreadOp.parse (f : Fields) : Option CreadOp :=
  some { h := f.hdr, d := f.d, a := f.a }

def CretireOp.enc (op fn : BitVec 8) (x : CretireOp) : Fields :=
  { Fields.base x.h op fn with mod := 0#12 ++ BitVec.ofBool x.fl, a := x.a }

def CretireOp.parse (f : Fields) : Option CretireOp :=
  some { h := f.hdr, fl := f.mod.getLsbD 0, a := f.a }

def CreplayOp.enc (op fn : BitVec 8) (x : CreplayOp) : Fields :=
  { Fields.base x.h op fn with d := x.d, a := x.a, b := x.b, c := x.c, e := x.e }

def CreplayOp.parse (f : Fields) : Option CreplayOp :=
  some { h := f.hdr, d := f.d, a := f.a, b := f.b, c := f.c, e := f.e }

def WaittOp.enc (op fn : BitVec 8) (x : WaittOp) : Fields :=
  { Fields.base x.h op fn with mod := 0#12 ++ BitVec.ofBool x.rel, a := x.a }

def WaittOp.parse (f : Fields) : Option WaittOp :=
  some { h := f.hdr, rel := f.mod.getLsbD 0, a := f.a }

def PclsOp.enc (op fn : BitVec 8) (x : PclsOp) : Fields :=
  (Fields.base x.h op fn).setB x.b

def PclsOp.parse (f : Fields) : Option PclsOp :=
  some { h := f.hdr, b := f.srcB }

def SwptOp.enc (op fn : BitVec 8) (x : SwptOp) : Fields :=
  { Fields.base x.h op fn with imm := 0#24 ++ x.sw }

def SwptOp.parse (f : Fields) : Option SwptOp :=
  some { h := f.hdr, sw := f.imm.extractLsb' 0 8 }

def CkptOp.enc (op fn : BitVec 8) (x : CkptOp) : Fields :=
  { Fields.base x.h op fn with a := x.a, b := x.b, imm := 0#24 ++ x.ck }

def CkptOp.parse (f : Fields) : Option CkptOp :=
  some { h := f.hdr, a := f.a, b := f.b, ck := f.imm.extractLsb' 0 8 }

def TrapOp.enc (op fn : BitVec 8) (x : TrapOp) : Fields :=
  { Fields.base x.h op fn with imm := 0#16 ++ x.code }

def TrapOp.parse (f : Fields) : Option TrapOp :=
  some { h := f.hdr, code := f.imm.extractLsb' 0 16 }

def CsrRd.enc (op fn : BitVec 8) (x : CsrRd) : Fields :=
  { Fields.base x.h op fn with d := x.d, imm := 0#20 ++ x.csr }

def CsrRd.parse (f : Fields) : Option CsrRd :=
  some { h := f.hdr, d := f.d, csr := f.imm.extractLsb' 0 12 }

def CsrWr.enc (op fn : BitVec 8) (x : CsrWr) : Fields :=
  { Fields.base x.h op fn with a := x.a, imm := 0#20 ++ x.csr }

def CsrWr.parse (f : Fields) : Option CsrWr :=
  some { h := f.hdr, a := f.a, csr := f.imm.extractLsb' 0 12 }

/-- CINIT: MOD[1] CFG, MOD[0] LOGE (R288). -/
def CinitOp.enc (op fn : BitVec 8) (x : CinitOp) : Fields :=
  match x.cfg with
  | none => { Fields.base x.h op fn with mod := 0#12 ++ BitVec.ofBool x.log, a := x.a }
  | some g => ({ Fields.base x.h op fn with mod := 0#11 ++ 1#1 ++ BitVec.ofBool x.log, a := x.a, c := g.c, e := g.e } : Fields).setB g.b

def CinitOp.parse (f : Fields) : Option CinitOp :=
  some { h := f.hdr, log := f.mod.getLsbD 0, a := f.a, cfg := if f.mod.getLsbD 1 then some ⟨f.srcB, f.c, f.e⟩ else none }

/-- OP 0x00 (R67). -/
def parse00 (f : Fields) : Option Instr :=
  match f.fn.toNat with
  | 0 => (IntBin.parse f).map .intAdd
  | 1 => (IntBin.parse f).map .intAddc
  | 2 => (IntBin.parse f).map .intSub
  | 3 => (IntBin.parse f).map .intSubb
  | 4 => (IntUn.parse f).map .intNeg
  | 5 => (IntUn.parse f).map .intAbs
  | 6 => (IntBin.parse f).map .intMin
  | 7 => (IntBin.parse f).map .intMax
  | _ => none

/-- OP 0x01 (R67). -/
def parse01 (f : Fields) : Option Instr :=
  match f.fn.toNat with
  | 0 => (Typed2.parse f).map .imulLo
  | 1 => (Typed2.parse f).map .imulHi
  | 2 => (Typed2.parse f).map .imulWide
  | 3 => (Typed3.parse f).map .imulMadlo
  | 4 => (Typed3.parse f).map .imulMadhi
  | 5 => (Typed3.parse f).map .imulMadwide
  | _ => none

/-- OP 0x02 (R67). -/
def parse02 (f : Fields) : Option Instr :=
  match f.fn.toNat with
  | 0 => (Typed2.parse f).map .idivDiv
  | 1 => (Typed2.parse f).map .idivRem
  | _ => none

/-- OP 0x03 (R67). -/
def parse03 (f : Fields) : Option Instr :=
  match f.fn.toNat with
  | 0 => (Dot4.parse f).map .idotDp4
  | _ => none

/-- OP 0x10 (R67). -/
def parse10 (f : Fields) : Option Instr :=
  match f.fn.toNat with
  | 0 => (Logic2.parse f).map .logicAnd
  | 1 => (Logic2.parse f).map .logicOr
  | 2 => (Logic2.parse f).map .logicXor
  | 3 => (Logic1.parse f).map .logicNot
  | 4 => (Truth.parse f).map .logicTruth
  | _ => none

/-- OP 0x11 (R67). -/
def parse11 (f : Fields) : Option Instr :=
  match f.fn.toNat with
  | 0 => (Logic2.parse f).map .shiftShl
  | 1 => (Logic2.parse f).map .shiftShr
  | 2 => (Logic2.parse f).map .shiftSar
  | 3 => (Typed3.parse f).map .shiftFshl
  | 4 => (Typed3.parse f).map .shiftFshr
  | _ => none

/-- OP 0x12 (R67). -/
def parse12 (f : Fields) : Option Instr :=
  match f.fn.toNat with
  | 0 => (Typed1.parse f).map .bitPopc
  | 1 => (Typed1.parse f).map .bitClz
  | 2 => (Typed1.parse f).map .bitCtz
  | 3 => (Typed1.parse f).map .bitBrev
  | 4 => (Typed2.parse f).map .bitBfe
  | 5 => (Typed3.parse f).map .bitBfi
  | _ => none

/-- OP 0x13 (R67). -/
def parse13 (f : Fields) : Option Instr :=
  match f.fn.toNat with
  | 0 => (MovOp.parse f).map .mov
  | 1 => (Typed3.parse f).map .movBsel
  | _ => none

/-- OP 0x20 (R67). -/
def parse20 (f : Fields) : Option Instr :=
  match f.fn.toNat with
  | 0 => (SetpCmp.parse f).map .setpCmp
  | 1 => (SetpCct.parse f).map .setpCct
  | 2 => (SetpClass.parse f).map .setpClass
  | _ => none

/-- OP 0x21 (R67). -/
def parse21 (f : Fields) : Option Instr :=
  match f.fn.toNat with
  | 0 => (Pcomb.parse f).map .pcomb
  | _ => none

/-- OP 0x22 (R67). -/
def parse22 (f : Fields) : Option Instr :=
  match f.fn.toNat with
  | 0 => (SelP.parse f).map .sel
  | 1 => (SelCc.parse f).map .selCc
  | _ => none

/-- OP 0x23 (R67). -/
def parse23 (f : Fields) : Option Instr :=
  match f.fn.toNat with
  | 0 => (DOnly.parse f).map .pmovToreg
  | 1 => (PmovFrom.parse f).map .pmovFromreg
  | _ => none

/-- OP 0x30 (R67). -/
def parse30 (f : Fields) : Option Instr :=
  match f.fn.toNat with
  | 0 => (Flt2.parse f).map .farithAdd
  | 1 => (Flt2.parse f).map .farithSub
  | 2 => (Flt2.parse f).map .farithMul
  | 3 => (Flt3.parse f).map .farithFma
  | 4 => (FltMm.parse f).map .farithMin
  | 5 => (FltMm.parse f).map .farithMax
  | 6 => (Flt1.parse f).map .farithAbs
  | 7 => (Flt1.parse f).map .farithNeg
  | _ => none

/-- OP 0x31 (R67). -/
def parse31 (f : Fields) : Option Instr :=
  match f.fn.toNat with
  | 0 => (FltRint.parse f).map .fmiscRint
  | 1 => (Typed2.parse f).map .fmiscCopysign
  | _ => none

/-- OP 0x40 (R67). -/
def parse40 (f : Fields) : Option Instr :=
  match f.fn.toNat with
  | 0 => (Flt2.parse f).map .darithAdd
  | 1 => (Flt2.parse f).map .darithSub
  | 2 => (Flt2.parse f).map .darithMul
  | 3 => (Flt3.parse f).map .darithFma
  | 4 => (FltMm.parse f).map .darithMin
  | 5 => (FltMm.parse f).map .darithMax
  | 6 => (Flt1.parse f).map .darithAbs
  | 7 => (Flt1.parse f).map .darithNeg
  | 8 => (FltRint.parse f).map .darithRint
  | _ => none

/-- OP 0x41 (R67). -/
def parse41 (f : Fields) : Option Instr :=
  match f.fn.toNat with
  | 0 => (SfuOp.parse f).map .sfuRcp
  | 1 => (SfuOp.parse f).map .sfuRsq
  | 2 => (SfuOp.parse f).map .sfuSqrt
  | 3 => (SfuOp.parse f).map .sfuEx2
  | 4 => (SfuOp.parse f).map .sfuLg2
  | 5 => (SfuOp.parse f).map .sfuSin
  | 6 => (SfuOp.parse f).map .sfuCos
  | 7 => (SfuOp.parse f).map .sfuTanh
  | _ => none

/-- OP 0x50 (R67). -/
def parse50 (f : Fields) : Option Instr :=
  match f.fn.toNat with
  | 0 => (CvtOp.parse f).map .cvtI2i
  | 1 => (CvtOp.parse f).map .cvtI2f
  | 2 => (CvtOp.parse f).map .cvtF2i
  | 3 => (CvtOp.parse f).map .cvtF2f
  | 4 => (PackOp.parse f).map .cvtPack
  | 5 => (PackOp.parse f).map .cvtUnpack
  | _ => none

/-- OP 0x60 (R67). -/
def parse60 (f : Fields) : Option Instr :=
  match f.fn.toNat with
  | 0 => (VpermOp.parse f).map .vpermIdx
  | 1 => (VpermOp.parse f).map .vpermUp
  | 2 => (VpermOp.parse f).map .vpermDown
  | 3 => (VpermOp.parse f).map .vpermXor
  | _ => none

/-- OP 0x61 (R67). -/
def parse61 (f : Fields) : Option Instr :=
  match f.fn.toNat with
  | 0 => (ReduceOp.parse f).map .reduceAdd
  | 1 => (ReduceOp.parse f).map .reduceMin
  | 2 => (ReduceOp.parse f).map .reduceMax
  | 3 => (Typed1.parse f).map .reduceAnd
  | 4 => (Typed1.parse f).map .reduceOr
  | 5 => (Typed1.parse f).map .reduceXor
  | _ => none

/-- OP 0x62 (R67). -/
def parse62 (f : Fields) : Option Instr :=
  match f.fn.toNat with
  | 0 => (ScanOp.parse f).map .scanIncl
  | 1 => (ScanOp.parse f).map .scanExcl
  | _ => none

/-- OP 0x63 (R67). -/
def parse63 (f : Fields) : Option Instr :=
  match f.fn.toNat with
  | 0 => (BallotOp.parse f).map .voteBallot
  | 1 => (VoteOp.parse f).map .voteAny
  | 2 => (VoteOp.parse f).map .voteAll
  | 3 => (Typed1.parse f).map .voteMatch
  | _ => none

/-- OP 0x64 (R67). -/
def parse64 (f : Fields) : Option Instr :=
  match f.fn.toNat with
  | 0 => (Typed1.parse f).map .umovFirst
  | 1 => (UmovLane.parse f).map .umovLane
  | _ => none

/-- OP 0x70 (R67). -/
def parse70 (f : Fields) : Option Instr :=
  match f.fn.toNat with
  | 0 => (DispOp.parse f).map .bra
  | _ => none

/-- OP 0x71 (R67). -/
def parse71 (f : Fields) : Option Instr :=
  match f.fn.toNat with
  | 0 => (AOnly.parse f).map .brx
  | _ => none

/-- OP 0x72 (R67). -/
def parse72 (f : Fields) : Option Instr :=
  match f.fn.toNat with
  | 0 => (CallOp.parse f).map .call
  | _ => none

/-- OP 0x73 (R67). -/
def parse73 (f : Fields) : Option Instr :=
  match f.fn.toNat with
  | 0 => (CallxOp.parse f).map .callx
  | _ => none

/-- OP 0x74 (R67). -/
def parse74 (f : Fields) : Option Instr :=
  match f.fn.toNat with
  | 0 => (AOnly.parse f).map .ret
  | _ => none

/-- OP 0x75 (R67). -/
def parse75 (f : Fields) : Option Instr :=
  match f.fn.toNat with
  | 0 => (DispOp.parse f).map .jset
  | _ => none

/-- OP 0x76 (R67). -/
def parse76 (f : Fields) : Option Instr :=
  match f.fn.toNat with
  | 0 => (Bare.parse f).map .jwait
  | _ => none

/-- OP 0x77 (R67). -/
def parse77 (f : Fields) : Option Instr :=
  match f.fn.toNat with
  | 0 => (Bare.parse f).map .exit
  | _ => none

/-- OP 0x78 (R67). -/
def parse78 (f : Fields) : Option Instr :=
  match f.fn.toNat with
  | 0 => (WaitcOp.parse f).map .waitc
  | _ => none

/-- OP 0x79 (R67). -/
def parse79 (f : Fields) : Option Instr :=
  match f.fn.toNat with
  | 0 => (Bare.parse f).map .yield
  | _ => none

/-- OP 0x7A (R67). -/
def parse7A (f : Fields) : Option Instr :=
  match f.fn.toNat with
  | 0 => (SreadOp.parse f).map .sread
  | _ => none

/-- OP 0x7B (R67). -/
def parse7B (f : Fields) : Option Instr :=
  match f.fn.toNat with
  | 0 => (Bare.parse f).map .nop
  | _ => none

/-- OP 0x80 (R67). -/
def parse80 (f : Fields) : Option Instr :=
  match f.fn.toNat with
  | 0 => (LdOp.parse f).map .ld
  | _ => none

/-- OP 0x81 (R67). -/
def parse81 (f : Fields) : Option Instr :=
  match f.fn.toNat with
  | 0 => (StOp.parse f).map .st
  | _ => none

/-- OP 0x82 (R67). -/
def parse82 (f : Fields) : Option Instr :=
  match f.fn.toNat with
  | 0 => (PrefOp.parse f).map .prefL1
  | 1 => (PrefOp.parse f).map .prefMsc
  | _ => none

/-- OP 0x83 (R67). -/
def parse83 (f : Fields) : Option Instr :=
  match f.fn.toNat with
  | 0 => (CctlOp.parse f).map .cctlInvl1
  | 1 => (CctlOp.parse f).map .cctlWbmsc
  | _ => none

/-- OP 0x90 (R67). -/
def parse90 (f : Fields) : Option Instr :=
  match f.fn.toNat with
  | 0 => (AtomOp.parse f).map .atomAdd
  | 1 => (AtomOp.parse f).map .atomMin
  | 2 => (AtomOp.parse f).map .atomMax
  | 3 => (AtomOp.parse f).map .atomAnd
  | 4 => (AtomOp.parse f).map .atomOr
  | 5 => (AtomOp.parse f).map .atomXor
  | 6 => (AtomOp.parse f).map .atomXchg
  | 7 => (AtomOp.parse f).map .atomCas
  | _ => none

/-- OP 0x91 (R67). -/
def parse91 (f : Fields) : Option Instr :=
  match f.fn.toNat with
  | 0 => (RedOp.parse f).map .redAdd
  | 1 => (RedOp.parse f).map .redMin
  | 2 => (RedOp.parse f).map .redMax
  | 3 => (RedOp.parse f).map .redAnd
  | 4 => (RedOp.parse f).map .redOr
  | 5 => (RedOp.parse f).map .redXor
  | _ => none

/-- OP 0x92 (R67). -/
def parse92 (f : Fields) : Option Instr :=
  match f.fn.toNat with
  | 0 => (FenceOp.parse f).map .fence
  | _ => none

/-- OP 0xA0 (R67). -/
def parseA0 (f : Fields) : Option Instr :=
  match f.fn.toNat with
  | 0 => (BarInit.parse f).map .barInit
  | 1 => (BarExpect.parse f).map .barExpect
  | 2 => (BarArrive.parse f).map .barArrive
  | 3 => (BarWait.parse f).map .barWait
  | _ => none

/-- OP 0xA1 (R67). -/
def parseA1 (f : Fields) : Option Instr :=
  match f.fn.toNat with
  | 0 => (QclaimOp.parse f).map .qclaim
  | _ => none

/-- OP 0xA2 (R67). -/
def parseA2 (f : Fields) : Option Instr :=
  match f.fn.toNat with
  | 0 => (QposOp.parse f).map .qcommit
  | _ => none

/-- OP 0xA3 (R67). -/
def parseA3 (f : Fields) : Option Instr :=
  match f.fn.toNat with
  | 0 => (QawaitOp.parse f).map .qawait
  | _ => none

/-- OP 0xA4 (R67). -/
def parseA4 (f : Fields) : Option Instr :=
  match f.fn.toNat with
  | 0 => (QposOp.parse f).map .qretire
  | _ => none

/-- OP 0xA5 (R67). -/
def parseA5 (f : Fields) : Option Instr :=
  match f.fn.toNat with
  | 0 => (PushOp.parse f).map .push
  | _ => none

/-- OP 0xA6 (R67). -/
def parseA6 (f : Fields) : Option Instr :=
  match f.fn.toNat with
  | 0 => (EvsigOp.parse f).map .evsig
  | _ => none

/-- OP 0xA7 (R67). -/
def parseA7 (f : Fields) : Option Instr :=
  match f.fn.toNat with
  | 0 => (DOnly.parse f).map .take
  | _ => none

/-- OP 0xA8 (R67). -/
def parseA8 (f : Fields) : Option Instr :=
  match f.fn.toNat with
  | 0 => (PublishOp.parse f).map .publish
  | _ => none

/-- OP 0xB0 (R67). -/
def parseB0 (f : Fields) : Option Instr :=
  match f.fn.toNat with
  | 0 => (MmaOp.parse f).map .mmaM32N32K64
  | 1 => (MmaOp.parse f).map .mmaM32N64K64
  | 2 => (MmaOp.parse f).map .mmaM32N16K128
  | 3 => (MmaOp.parse f).map .mmaM32N32K32
  | 4 => (MmaOp.parse f).map .mmaM32N64K32
  | 5 => (MmaOp.parse f).map .mmaM32N32K128
  | 6 => (MmaOp.parse f).map .mmaM32N32K8
  | _ => none

/-- OP 0xB1 (R67). -/
def parseB1 (f : Fields) : Option Instr :=
  match f.fn.toNat with
  | 0 => (MscaleOp.parse f).map .mscale
  | _ => none

/-- OP 0xB2 (R67). -/
def parseB2 (f : Fields) : Option Instr :=
  match f.fn.toNat with
  | 0 => (MzeroOp.parse f).map .mzero
  | _ => none

/-- OP 0xB3 (R67). -/
def parseB3 (f : Fields) : Option Instr :=
  match f.fn.toNat with
  | 0 => (MmovOp.parseLd f).map .mld
  | _ => none

/-- OP 0xB4 (R67). -/
def parseB4 (f : Fields) : Option Instr :=
  match f.fn.toNat with
  | 0 => (MmovOp.parseSt f).map .mst
  | _ => none

/-- OP 0xB5 (R67). -/
def parseB5 (f : Fields) : Option Instr :=
  match f.fn.toNat with
  | 0 => (FpushOp.parse f).map .fpush
  | _ => none

/-- OP 0xB6 (R67). -/
def parseB6 (f : Fields) : Option Instr :=
  match f.fn.toNat with
  | 0 => (MmodeOp.parse f).map .mmode
  | _ => none

/-- OP 0xB7 (R67). -/
def parseB7 (f : Fields) : Option Instr :=
  match f.fn.toNat with
  | 0 => (MepiOp.parse f).map .mepi
  | _ => none

/-- OP 0xC0 (R67). -/
def parseC0 (f : Fields) : Option Instr :=
  match f.fn.toNat with
  | 0 => (CinitOp.parse f).map .cinit
  | _ => none

/-- OP 0xC1 (R67). -/
def parseC1 (f : Fields) : Option Instr :=
  match f.fn.toNat with
  | 0 => (CmpsOp.parse f).map .cmps
  | _ => none

/-- OP 0xC2 (R67). -/
def parseC2 (f : Fields) : Option Instr :=
  match f.fn.toNat with
  | 0 => (AOnly.parse f).map .cflush
  | _ => none

/-- OP 0xC3 (R67). -/
def parseC3 (f : Fields) : Option Instr :=
  match f.fn.toNat with
  | 0 => (CreadOp.parse f).map .cread
  | _ => none

/-- OP 0xC4 (R67). -/
def parseC4 (f : Fields) : Option Instr :=
  match f.fn.toNat with
  | 0 => (CretireOp.parse f).map .cretire
  | _ => none

/-- OP 0xC5 (R67). -/
def parseC5 (f : Fields) : Option Instr :=
  match f.fn.toNat with
  | 0 => (CreplayOp.parse f).map .creplay
  | _ => none

/-- OP 0xD0 (R67). -/
def parseD0 (f : Fields) : Option Instr :=
  match f.fn.toNat with
  | 0 => (DOnly.parse f).map .time
  | _ => none

/-- OP 0xD1 (R67). -/
def parseD1 (f : Fields) : Option Instr :=
  match f.fn.toNat with
  | 0 => (WaittOp.parse f).map .waitt
  | _ => none

/-- OP 0xD2 (R67). -/
def parseD2 (f : Fields) : Option Instr :=
  match f.fn.toNat with
  | 0 => (PclsOp.parse f).map .pcls
  | _ => none

/-- OP 0xD3 (R67). -/
def parseD3 (f : Fields) : Option Instr :=
  match f.fn.toNat with
  | 0 => (SwptOp.parse f).map .swpt
  | _ => none

/-- OP 0xD4 (R67). -/
def parseD4 (f : Fields) : Option Instr :=
  match f.fn.toNat with
  | 0 => (CkptOp.parse f).map .ckpt
  | _ => none

/-- OP 0xE0 (R67). -/
def parseE0 (f : Fields) : Option Instr :=
  match f.fn.toNat with
  | 0 => (TrapOp.parse f).map .trap
  | _ => none

/-- OP 0xE1 (R67). -/
def parseE1 (f : Fields) : Option Instr :=
  match f.fn.toNat with
  | 0 => (TrapOp.parse f).map .brk
  | _ => none

/-- OP 0xE2 (R67). -/
def parseE2 (f : Fields) : Option Instr :=
  match f.fn.toNat with
  | 0 => (Bare.parse f).map .eret
  | _ => none

/-- OP 0xE3 (R67). -/
def parseE3 (f : Fields) : Option Instr :=
  match f.fn.toNat with
  | 0 => (CsrRd.parse f).map .csrRd
  | 1 => (CsrWr.parse f).map .csrWr
  | _ => none

/-- OP 0xE4 (R67). -/
def parseE4 (f : Fields) : Option Instr :=
  match f.fn.toNat with
  | 0 => (Bare.parse f).map .wfi
  | _ => none

/-- The instruction that OP and FN name, with its operand fields (R67, R68). -/
def parseInstr (f : Fields) : Option Instr :=
  match f.op.toNat with
  | 0x00 => parse00 f
  | 0x01 => parse01 f
  | 0x02 => parse02 f
  | 0x03 => parse03 f
  | 0x10 => parse10 f
  | 0x11 => parse11 f
  | 0x12 => parse12 f
  | 0x13 => parse13 f
  | 0x20 => parse20 f
  | 0x21 => parse21 f
  | 0x22 => parse22 f
  | 0x23 => parse23 f
  | 0x30 => parse30 f
  | 0x31 => parse31 f
  | 0x40 => parse40 f
  | 0x41 => parse41 f
  | 0x50 => parse50 f
  | 0x60 => parse60 f
  | 0x61 => parse61 f
  | 0x62 => parse62 f
  | 0x63 => parse63 f
  | 0x64 => parse64 f
  | 0x70 => parse70 f
  | 0x71 => parse71 f
  | 0x72 => parse72 f
  | 0x73 => parse73 f
  | 0x74 => parse74 f
  | 0x75 => parse75 f
  | 0x76 => parse76 f
  | 0x77 => parse77 f
  | 0x78 => parse78 f
  | 0x79 => parse79 f
  | 0x7A => parse7A f
  | 0x7B => parse7B f
  | 0x80 => parse80 f
  | 0x81 => parse81 f
  | 0x82 => parse82 f
  | 0x83 => parse83 f
  | 0x90 => parse90 f
  | 0x91 => parse91 f
  | 0x92 => parse92 f
  | 0xA0 => parseA0 f
  | 0xA1 => parseA1 f
  | 0xA2 => parseA2 f
  | 0xA3 => parseA3 f
  | 0xA4 => parseA4 f
  | 0xA5 => parseA5 f
  | 0xA6 => parseA6 f
  | 0xA7 => parseA7 f
  | 0xA8 => parseA8 f
  | 0xB0 => parseB0 f
  | 0xB1 => parseB1 f
  | 0xB2 => parseB2 f
  | 0xB3 => parseB3 f
  | 0xB4 => parseB4 f
  | 0xB5 => parseB5 f
  | 0xB6 => parseB6 f
  | 0xB7 => parseB7 f
  | 0xC0 => parseC0 f
  | 0xC1 => parseC1 f
  | 0xC2 => parseC2 f
  | 0xC3 => parseC3 f
  | 0xC4 => parseC4 f
  | 0xC5 => parseC5 f
  | 0xD0 => parseD0 f
  | 0xD1 => parseD1 f
  | 0xD2 => parseD2 f
  | 0xD3 => parseD3 f
  | 0xD4 => parseD4 f
  | 0xE0 => parseE0 f
  | 0xE1 => parseE1 f
  | 0xE2 => parseE2 f
  | 0xE3 => parseE3 f
  | 0xE4 => parseE4 f
  | _ => none

/-! The encoder. -/

/-- The fields of an instruction; an event has no word. -/
def encodeFields : Instr → Option Fields
  | .intAdd x => some (x.enc 0x00 0x00)
  | .intAddc x => some (x.enc 0x00 0x01)
  | .intSub x => some (x.enc 0x00 0x02)
  | .intSubb x => some (x.enc 0x00 0x03)
  | .intNeg x => some (x.enc 0x00 0x04)
  | .intAbs x => some (x.enc 0x00 0x05)
  | .intMin x => some (x.enc 0x00 0x06)
  | .intMax x => some (x.enc 0x00 0x07)
  | .imulLo x => some (x.enc 0x01 0x00)
  | .imulHi x => some (x.enc 0x01 0x01)
  | .imulWide x => some (x.enc 0x01 0x02)
  | .imulMadlo x => some (x.enc 0x01 0x03)
  | .imulMadhi x => some (x.enc 0x01 0x04)
  | .imulMadwide x => some (x.enc 0x01 0x05)
  | .idivDiv x => some (x.enc 0x02 0x00)
  | .idivRem x => some (x.enc 0x02 0x01)
  | .idotDp4 x => some (x.enc 0x03 0x00)
  | .logicAnd x => some (x.enc 0x10 0x00)
  | .logicOr x => some (x.enc 0x10 0x01)
  | .logicXor x => some (x.enc 0x10 0x02)
  | .logicNot x => some (x.enc 0x10 0x03)
  | .logicTruth x => some (x.enc 0x10 0x04)
  | .shiftShl x => some (x.enc 0x11 0x00)
  | .shiftShr x => some (x.enc 0x11 0x01)
  | .shiftSar x => some (x.enc 0x11 0x02)
  | .shiftFshl x => some (x.enc 0x11 0x03)
  | .shiftFshr x => some (x.enc 0x11 0x04)
  | .bitPopc x => some (x.enc 0x12 0x00)
  | .bitClz x => some (x.enc 0x12 0x01)
  | .bitCtz x => some (x.enc 0x12 0x02)
  | .bitBrev x => some (x.enc 0x12 0x03)
  | .bitBfe x => some (x.enc 0x12 0x04)
  | .bitBfi x => some (x.enc 0x12 0x05)
  | .mov x => some (x.enc 0x13 0x00)
  | .movBsel x => some (x.enc 0x13 0x01)
  | .setpCmp x => some (x.enc 0x20 0x00)
  | .setpCct x => some (x.enc 0x20 0x01)
  | .setpClass x => some (x.enc 0x20 0x02)
  | .pcomb x => some (x.enc 0x21 0x00)
  | .sel x => some (x.enc 0x22 0x00)
  | .selCc x => some (x.enc 0x22 0x01)
  | .pmovToreg x => some (x.enc 0x23 0x00)
  | .pmovFromreg x => some (x.enc 0x23 0x01)
  | .farithAdd x => some (x.enc 0x30 0x00)
  | .farithSub x => some (x.enc 0x30 0x01)
  | .farithMul x => some (x.enc 0x30 0x02)
  | .farithFma x => some (x.enc 0x30 0x03)
  | .farithMin x => some (x.enc 0x30 0x04)
  | .farithMax x => some (x.enc 0x30 0x05)
  | .farithAbs x => some (x.enc 0x30 0x06)
  | .farithNeg x => some (x.enc 0x30 0x07)
  | .fmiscRint x => some (x.enc 0x31 0x00)
  | .fmiscCopysign x => some (x.enc 0x31 0x01)
  | .darithAdd x => some (x.enc 0x40 0x00)
  | .darithSub x => some (x.enc 0x40 0x01)
  | .darithMul x => some (x.enc 0x40 0x02)
  | .darithFma x => some (x.enc 0x40 0x03)
  | .darithMin x => some (x.enc 0x40 0x04)
  | .darithMax x => some (x.enc 0x40 0x05)
  | .darithAbs x => some (x.enc 0x40 0x06)
  | .darithNeg x => some (x.enc 0x40 0x07)
  | .darithRint x => some (x.enc 0x40 0x08)
  | .sfuRcp x => some (x.enc 0x41 0x00)
  | .sfuRsq x => some (x.enc 0x41 0x01)
  | .sfuSqrt x => some (x.enc 0x41 0x02)
  | .sfuEx2 x => some (x.enc 0x41 0x03)
  | .sfuLg2 x => some (x.enc 0x41 0x04)
  | .sfuSin x => some (x.enc 0x41 0x05)
  | .sfuCos x => some (x.enc 0x41 0x06)
  | .sfuTanh x => some (x.enc 0x41 0x07)
  | .cvtI2i x => some (x.enc 0x50 0x00)
  | .cvtI2f x => some (x.enc 0x50 0x01)
  | .cvtF2i x => some (x.enc 0x50 0x02)
  | .cvtF2f x => some (x.enc 0x50 0x03)
  | .cvtPack x => some (x.enc 0x50 0x04)
  | .cvtUnpack x => some (x.enc 0x50 0x05)
  | .vpermIdx x => some (x.enc 0x60 0x00)
  | .vpermUp x => some (x.enc 0x60 0x01)
  | .vpermDown x => some (x.enc 0x60 0x02)
  | .vpermXor x => some (x.enc 0x60 0x03)
  | .reduceAdd x => some (x.enc 0x61 0x00)
  | .reduceMin x => some (x.enc 0x61 0x01)
  | .reduceMax x => some (x.enc 0x61 0x02)
  | .reduceAnd x => some (x.enc 0x61 0x03)
  | .reduceOr x => some (x.enc 0x61 0x04)
  | .reduceXor x => some (x.enc 0x61 0x05)
  | .scanIncl x => some (x.enc 0x62 0x00)
  | .scanExcl x => some (x.enc 0x62 0x01)
  | .voteBallot x => some (x.enc 0x63 0x00)
  | .voteAny x => some (x.enc 0x63 0x01)
  | .voteAll x => some (x.enc 0x63 0x02)
  | .voteMatch x => some (x.enc 0x63 0x03)
  | .umovFirst x => some (x.enc 0x64 0x00)
  | .umovLane x => some (x.enc 0x64 0x01)
  | .bra x => some (x.enc 0x70 0x00)
  | .brx x => some (x.enc 0x71 0x00)
  | .call x => some (x.enc 0x72 0x00)
  | .callx x => some (x.enc 0x73 0x00)
  | .ret x => some (x.enc 0x74 0x00)
  | .jset x => some (x.enc 0x75 0x00)
  | .jwait x => some (x.enc 0x76 0x00)
  | .exit x => some (x.enc 0x77 0x00)
  | .waitc x => some (x.enc 0x78 0x00)
  | .yield x => some (x.enc 0x79 0x00)
  | .sread x => some (x.enc 0x7A 0x00)
  | .nop x => some (x.enc 0x7B 0x00)
  | .ld x => some (x.enc 0x80 0x00)
  | .st x => some (x.enc 0x81 0x00)
  | .prefL1 x => some (x.enc 0x82 0x00)
  | .prefMsc x => some (x.enc 0x82 0x01)
  | .cctlInvl1 x => some (x.enc 0x83 0x00)
  | .cctlWbmsc x => some (x.enc 0x83 0x01)
  | .atomAdd x => some (x.enc 0x90 0x00)
  | .atomMin x => some (x.enc 0x90 0x01)
  | .atomMax x => some (x.enc 0x90 0x02)
  | .atomAnd x => some (x.enc 0x90 0x03)
  | .atomOr x => some (x.enc 0x90 0x04)
  | .atomXor x => some (x.enc 0x90 0x05)
  | .atomXchg x => some (x.enc 0x90 0x06)
  | .atomCas x => some (x.enc 0x90 0x07)
  | .redAdd x => some (x.enc 0x91 0x00)
  | .redMin x => some (x.enc 0x91 0x01)
  | .redMax x => some (x.enc 0x91 0x02)
  | .redAnd x => some (x.enc 0x91 0x03)
  | .redOr x => some (x.enc 0x91 0x04)
  | .redXor x => some (x.enc 0x91 0x05)
  | .fence x => some (x.enc 0x92 0x00)
  | .barInit x => some (x.enc 0xA0 0x00)
  | .barExpect x => some (x.enc 0xA0 0x01)
  | .barArrive x => some (x.enc 0xA0 0x02)
  | .barWait x => some (x.enc 0xA0 0x03)
  | .qclaim x => some (x.enc 0xA1 0x00)
  | .qcommit x => some (x.enc 0xA2 0x00)
  | .qawait x => some (x.enc 0xA3 0x00)
  | .qretire x => some (x.enc 0xA4 0x00)
  | .push x => some (x.enc 0xA5 0x00)
  | .evsig x => some (x.enc 0xA6 0x00)
  | .take x => some (x.enc 0xA7 0x00)
  | .publish x => some (x.enc 0xA8 0x00)
  | .mmaM32N32K64 x => some (x.enc 0xB0 0x00)
  | .mmaM32N64K64 x => some (x.enc 0xB0 0x01)
  | .mmaM32N16K128 x => some (x.enc 0xB0 0x02)
  | .mmaM32N32K32 x => some (x.enc 0xB0 0x03)
  | .mmaM32N64K32 x => some (x.enc 0xB0 0x04)
  | .mmaM32N32K128 x => some (x.enc 0xB0 0x05)
  | .mmaM32N32K8 x => some (x.enc 0xB0 0x06)
  | .mscale x => some (x.enc 0xB1 0x00)
  | .mzero x => some (x.enc 0xB2 0x00)
  | .mld x => some (x.encLd 0xB3 0x00)
  | .mst x => some (x.encSt 0xB4 0x00)
  | .fpush x => some (x.enc 0xB5 0x00)
  | .mmode x => some (x.enc 0xB6 0x00)
  | .mepi x => some (x.enc 0xB7 0x00)
  | .cinit x => some (x.enc 0xC0 0x00)
  | .cmps x => some (x.enc 0xC1 0x00)
  | .cflush x => some (x.enc 0xC2 0x00)
  | .cread x => some (x.enc 0xC3 0x00)
  | .cretire x => some (x.enc 0xC4 0x00)
  | .creplay x => some (x.enc 0xC5 0x00)
  | .time x => some (x.enc 0xD0 0x00)
  | .waitt x => some (x.enc 0xD1 0x00)
  | .pcls x => some (x.enc 0xD2 0x00)
  | .swpt x => some (x.enc 0xD3 0x00)
  | .ckpt x => some (x.enc 0xD4 0x00)
  | .trap x => some (x.enc 0xE0 0x00)
  | .brk x => some (x.enc 0xE1 0x00)
  | .eret x => some (x.enc 0xE2 0x00)
  | .csrRd x => some (x.enc 0xE3 0x00)
  | .csrWr x => some (x.enc 0xE3 0x01)
  | .wfi x => some (x.enc 0xE4 0x00)
  | .loadDataReturn _ _ _ _ => none
  | .accessPerformed _ _ _ => none
  | .windowSwitch _ => none
  | .takeServe _ => none
  | .copy _ _ _ => none
  | .multicast _ _ _ => none
  | .feed _ _ _ => none
  | .store _ _ _ => none
  | .copyEnginePublish _ _ _ => none
  | .byteCredit _ _ => none
  | .copyCommandComplete _ => none
  | .ctxset _ _ _ => none
  | .ray _ _ _ => none
  | .cone _ _ _ => none
  | .frustum _ _ _ => none
  | .nodeVisit _ _ => none
  | .recordCommit _ _ => none
  | .done _ => none
  | .continuationStart _ _ => none
  | .fifoRunAppend _ _ _ => none
  | .streamOperation _ _ _ => none
  | .blockPlace _ => none
  | .blockResourcesReturn _ => none
  | .launchComplete _ => none
  | .cardAdmission _ _ => none
  | .jobRelease _ => none
  | .instanceRelease _ => none
  | .preemption _ => none
  | .nodeBatch _ => none
  | .cutDrainEnd _ => none
  | .drainTimeout _ => none
  | .blockResume _ => none
  | .deadline _ => none
  | .budget _ => none
  | .bandwidth _ _ _ => none
  | .ckptovr _ => none
  | .errorRecordDeferredWrite _ _ => none
  | .regulatorWindow _ => none
  | .srcmt _ _ _ _ => none
  | .srctl _ _ _ => none
  | .qmctl _ _ _ => none
  | .tlbinv _ _ => none
  | .tlbInvalidationComplete _ => none
  | .tways _ _ _ => none
  | .carveOutChangeComplete _ => none
  | .tdrop _ _ => none
  | .evcount _ _ => none
  | .evctlReset _ => none
  | .evctlFree _ => none
  | .diemodeSingle _ _ => none
  | .diemodeBoth _ => none
  | .dtimelo _ => none
  | .irqack _ _ => none
  | .hbeat _ _ => none
  | .pwrlim _ _ => none
  | .fwcmdStage _ _ _ _ => none
  | .fwcmdCommit _ _ => none
  | .firmwareFirstHeartbeat _ => none
  | .firmwareRollback _ => none
  | .registerWrite _ _ _ _ => none
  | .interruptLine _ _ => none
  | .powerRequest _ => none
  | .levelChange _ _ => none
  | .corePowerGate _ _ => none
  | .coreWake _ _ => none
  | .powerLimitTransition _ => none
  | .thermalTrip _ => none
  | .powerOn _ _ _ => none
  | .ptpMessage _ _ => none
  | .qbvGateEvent _ _ => none
  | .ingestFrame _ _ _ => none
  | .hostWrite _ _ => none
  | .hostRead _ _ => none
  | .hostWindowCompletion _ _ _ _ => none
  | .getVersion _ => none
  | .getCapabilities _ => none
  | .negotiateAlgorithms _ => none
  | .getDigests _ => none
  | .getCertificate _ => none
  | .challenge _ => none
  | .getMeasurements _ => none
  | .patrol _ _ _ => none
  | .uncorrectableErrorFound _ _ => none
  | .uncorrectableErrorConsumed _ _ _ _ => none
  | .remoteWriteResend _ _ _ => none
  | .remoteResponse _ _ => none
  | .linkRetry _ => none
  | .trivetHeartbeat _ => none
  | .dieLost _ => none
  | .sequencerHang _ _ => none
  | .powerSequencerHang _ => none
  | .lockstepMismatch _ => none
  | .engineHung _ _ => none
  | .vaultRowSpare _ _ _ => none
  | .coreSpare _ _ => none
  | .waittTargetReached _ => none
  | .watchdogAbandon _ => none
  | .remoteReadResend _ => none
  | .keptResultAged _ => none
  | .configurationRequest _ => none

/-- The word of an instruction; an event has none. -/
def encode (i : Instr) : Option IWord := (encodeFields i).map Fields.toWord

/-- The word of an instruction, 0 for an event. -/
def Instr.word (i : Instr) : IWord := (encode i).getD 0

/-- The decoder (R50): OP and FN are assigned, every operand passes its checks, and encoding the
instruction gives the word back, so that every field the form does not use, and every MOD bit it does
not define, is zero. -/
def decode (w : IWord) : Option Instr :=
  match parseInstr (Fields.ofWord w) with
  | none => none
  | some i => if i.legal && encode i == some w then some i else none

/-- A word in memory: sixteen bytes, lowest address first (R48). -/
def wordOfBytes (bs : List Byte) : IWord :=
  BitVec.ofNat 128 (bs.foldr (fun b n => b.toNat + 256 * n) 0)

/-- The bytes of a word, lowest address first (R48). -/
def bytesOfWord (w : IWord) : List Byte :=
  (List.range 16).map fun k => w.extractLsb' (8 * k) 8

/-- The instruction at the head of a list of bytes, with the rest. -/
def decodeBytes (bs : List Byte) : Option (Instr × List Byte) :=
  if bs.length < 16 then none else (decode (wordOfBytes (bs.take 16))).map fun i => (i, bs.drop 16)

/-- The instruction that the decoder reads from the table's word `w` of `nbits` bits: the low
`nbits` bits of the instruction word, every bit above them zero. -/
def decodeTableWord (nbits w : Nat) : Option Instr :=
  (decodeBytes (bytesOfWord (BitVec.ofNat 128 (w % 2 ^ nbits)))).map (·.1)

end Sys2Proof
end

