-- ==== Sys2Proof/Machine/Data.lean ====
section
/-! DEFINITION. The containers of State: sparse maps from numbers, with a default that is never
listed; keyed records; lane masks; fields of wide records. -/

namespace Sys2Proof.Machine

/-- The value at a key of a sparse map; an unlisted key holds the default. -/
def sget {α : Type} (d : α) : List (Nat × α) → Nat → α
  | [], _ => d
  | (j, v) :: l, k => if j = k then v else sget d l k

/-- Insert an entry before the first greater key. -/
def sins {α : Type} (k : Nat) (v : α) : List (Nat × α) → List (Nat × α)
  | [] => [(k, v)]
  | (j, u) :: l => if k < j then (k, v) :: (j, u) :: l else (j, u) :: sins k v l

/-- Remove the entries of a key. -/
def sdel {α : Type} (k : Nat) : List (Nat × α) → List (Nat × α)
  | [] => []
  | (j, u) :: l => if j = k then sdel k l else (j, u) :: sdel k l

/-- Write a key; writing the default removes its entry. -/
def sset {α : Type} [DecidableEq α] (d : α) (l : List (Nat × α)) (k : Nat) (v : α) : List (Nat × α) :=
  if v = d then sdel k l else sins k v (sdel k l)

/-- The canonical form: keys strictly rising and no entry equal to the default. -/
def swf {α : Type} [DecidableEq α] (d : α) : List (Nat × α) → Bool
  | [] => true
  | (k, v) :: l => decide (v ≠ d) && l.all (fun p => decide (k < p.1)) && swf d l

/-- The record of a key. -/
def alook {κ ν : Type} [DecidableEq κ] (k : κ) : List (κ × ν) → Option ν
  | [] => none
  | (j, v) :: l => if j = k then some v else alook k l

/-- Replace the record of a key, or add it at the end. -/
def aput {κ ν : Type} [DecidableEq κ] (k : κ) (v : ν) : List (κ × ν) → List (κ × ν)
  | [] => [(k, v)]
  | (j, u) :: l => if j = k then (k, v) :: l else (j, u) :: aput k v l

/-- Remove the records of a key. -/
def adel {κ ν : Type} [DecidableEq κ] (k : κ) : List (κ × ν) → List (κ × ν)
  | [] => []
  | (j, u) :: l => if j = k then adel k l else (j, u) :: adel k l

/-- The 32 lanes in ascending order. -/
def laneList : List Nat := List.range 32

/-- The lanes of a mask, ascending. -/
def lanesOf (m : Mask) : List Nat := laneList.filter m.getLsbD

/-- The mask of the lanes below `n` that satisfy a condition. -/
def maskBelow (f : Nat → Bool) : Nat → Mask
  | 0 => 0
  | n + 1 => maskBelow f n ||| (if f n then 1#32 <<< n else 0)

/-- The mask of the lanes that satisfy a condition. -/
def maskOf (f : Nat → Bool) : Mask := maskBelow f 32

/-- How many lanes a mask holds. -/
def lanesIn (m : Mask) : Nat := (lanesOf m).length

/-- The lowest lane of a mask. -/
def lowLane (m : Mask) : Option Nat := (lanesOf m).head?

/-- Bits [hi:lo] of a number read as a bit field. -/
def bits (x hi lo : Nat) : Nat := x / 2 ^ lo % 2 ^ (hi + 1 - lo)

/-- Bit `i` of a number. -/
def bitAt (x i : Nat) : Bool := x / 2 ^ i % 2 == 1

/-- The number whose base-256 digits, lowest first, are the bytes: little-endian (R3). -/
def ofBytes : List Byte → Nat
  | [] => 0
  | b :: l => b.toNat + 256 * ofBytes l

/-- The `n` bytes of a number, lowest first. -/
def toBytes : Nat → Nat → List Byte
  | 0, _ => []
  | n + 1, x => BitVec.ofNat 8 x :: toBytes n (x / 256)

/-- A two's-complement n-bit number. -/
def toSigned (n x : Nat) : Int := if x % 2 ^ n < 2 ^ (n - 1) then ((x % 2 ^ n : Nat) : Int) else ((x % 2 ^ n : Nat) : Int) - 2 ^ n

/-- The n-bit code of an integer. -/
def wrapInt (n : Nat) (x : Int) : Nat := (x % 2 ^ n).toNat

/-- Replace the element of a list at an index. -/
def listSet {α : Type} : List α → Nat → α → List α
  | [], _, _ => []
  | _ :: l, 0, v => v :: l
  | a :: l, n + 1, v => a :: listSet l n v

/-- The numbers a, a+1, …, a+n−1. -/
def rangeFrom (a n : Nat) : List Nat := (List.range n).map (a + ·)

/-- A / B rounded up. -/
def ceilDiv (a b : Nat) : Nat := (a + b - 1) / b

end Sys2Proof.Machine
end

