-- ==== Sys2Proof/Machine/State.lean ====
section
/-! DEFINITION. The state of the module: every piece that the manual names (INVENTORY.md lists the
rule of each), as plain data; the reasons for a stop; the state after reset. -/

namespace Sys2Proof.Machine

/-! ## Warps (R25) -/

/-- A live path (R147). `spilled` says that the entry lies in the warp's spill area (R149), where its 16 bytes stand. -/
structure PathEntry where
  mask : Mask
  pc : Pc
  jidx : BitVec 4
  park : Bool
  spilled : Bool
  deriving DecidableEq, Repr

/-- A live join record (R147). A warp lists its records in registration order, oldest first. -/
structure JoinRec where
  idx : BitVec 4
  target : Pc
  group : Mask
  arrived : Mask
  parent : BitVec 4
  deriving DecidableEq, Repr

/-- The four asynchronous counters (R64). -/
inductive Ctr where
  | ld | st | cp | tl
  deriving DecidableEq, Repr

/-- An unfinished counted instruction (R64): its class, its number and how much of it is left. A
counter is the number of its class's entries; a finished entry leaves once every earlier entry of
its class has left. -/
structure Op where
  cls : Ctr
  id : Nat
  left : Nat
  deriving DecidableEq, Repr

/-- Registers that an unfinished instruction has still to write: `locked` for the interlocked
results of R62, not for the destinations of LD and ATOM (R63). -/
structure Pend where
  id : Nat
  lanes : Mask
  regs : List Nat
  locked : Bool
  deriving DecidableEq, Repr

/-- A wait in progress: the t of a WAITT and its issue fields (R374); a begun BAR.WAIT (R197) by the place of its
object, its phase bit, and whether the phase has changed (true) or the object was disarmed (false) meanwhile; a QAWAIT in
its ring's queue (R200). -/
inductive Hold where
  | none
  | waitt (t : Nat) (h : Hdr)
  | barWait (key : Nat) (b : Bool) (out : Option Bool)
  | qawait
  deriving DecidableEq, Repr

/-- A fence that still orders accesses (R190, R252): its place in program order, its kind, its
scope and the lanes for which it stands. -/
structure Fence where
  stamp : Nat
  kind : BitVec 2
  scope : Scope
  lanes : Mask
  deriving DecidableEq, Repr

/-- What a trap handler's entry saves (R163, R392). -/
structure Frozen where
  g : List Word
  step : Bool
  paths : List PathEntry
  joins : List JoinRec
  deriving DecidableEq, Repr

/-- A warp (R25), or a sequencer's one-lane warp (R69). Registers, predicates and condition codes
are sparse with default zero: lane register r of lane L stands at key 32 r + L. `notBefore`,
`lastIssue` and `readySince`, the cycle since which the warp has been ready, are core cycles (R46, R47), and so is `heldAt`, the cycle in which a wait that holds the
warp issued (R58); `yl` tells of the YL bit and `yieldAt` of the cycle of a YIELD (R46, R159); `sysRel` holds the lanes that a FENCE of kind rel, acqrel or sc at
SYSTEM scope has passed (R267); `stepDue` is a step trap that waits for the accesses or results of the
instruction numbered `stepOf` (R403); `owed` says that a trap of another cause came before a step trap, which the issue
after ERET takes (R391, R403); `placed` is the cycle of the block's placement on the core (R46); `spill` holds the
16-byte entries of the warp's spill area by their place (R35, R149). -/
structure Warp where
  role : Nat
  spos : Nat
  core : Nat
  part : Nat
  budget : Nat
  prio : Nat
  launched : Mask
  exited : Mask
  paths : List PathEntry
  joins : List JoinRec
  vregs : List (Nat × Word)
  gregs : List (Nat × Word)
  preds : List (Nat × Mask)
  ccC : Mask
  ccZ : Mask
  ccN : Mask
  ccV : Mask
  ops : List Op
  pend : List Pend
  hold : Hold
  fences : List Fence
  sysRel : Mask
  step : Bool
  frozen : Option Frozen
  fetchPark : Bool
  notBefore : Nat
  lastIssue : Option Nat
  readySince : Option Nat
  heldAt : Option Nat
  yl : Bool
  yieldAt : Option Nat
  stepDue : Option (Mask × Pc)
  stepOf : Nat
  owed : Bool
  placed : Nat
  spill : List (Nat × BitVec 128)
  deriving DecidableEq, Repr

/-- A warp at its first instruction (R37). -/
def Warp.fresh (role spos core part budget prio : Nat) (launched : Mask) (pc : Pc) : Warp where
  role := role
  spos := spos
  core := core
  part := part
  budget := budget
  prio := prio
  launched := launched
  exited := 0
  paths := [⟨launched, pc, 0, false, false⟩]
  joins := []
  vregs := []
  gregs := []
  preds := []
  ccC := 0
  ccZ := 0
  ccN := 0
  ccV := 0
  ops := []
  pend := []
  hold := .none
  fences := []
  sysRel := 0
  step := false
  frozen := none
  fetchPark := false
  notBefore := 0
  lastIssue := none
  readySince := none
  heldAt := none
  yl := false
  yieldAt := none
  stepDue := none
  stepOf := 0
  owed := false
  placed := 0
  spill := []

/-! ## Blocks (R26, R33) -/

/-- A run at a FIFO's write port (R232): the FPUSH or FEED that appends it, its bytes not yet
entered, and whether all its bytes have reached the port. -/
structure FifoRun where
  feed : Bool
  id : Nat
  who : Issuer
  data : List Byte
  closed : Bool
  deriving DecidableEq, Repr

/-- An operand FIFO (R232, R233). `bytes` holds what has been appended from stream position `base`
on; a byte that has been read is `none`. `resv` is the position of the next unreserved byte. -/
structure Fifo where
  base : Nat
  bytes : List (Option Byte)
  resv : Nat
  runs : List FifoRun
  deriving DecidableEq, Repr

/-- The rounding mode and the compositor state of a unit (R227, R277). -/
structure UnitState where
  mode : Rm
  thr : Word
  logbase : BitVec 64
  lcap : BitVec 24
  deriving DecidableEq, Repr

/-- A tile or compositor operation in a stream (R230, R287): its instruction, its lanes still to do,
the register sources that it read at issue for each lane, its FIFO reservations, its 16-byte log writes
still to be performed (R285) and whether its datapath cycles have begun. -/
structure StreamOp where
  id : Nat
  who : Issuer
  instr : Instr
  lanes : Mask
  src : List (Nat × List Word)
  resA : Option Nat
  resB : Option Nat
  logs : List (Nat × BitVec 128)
  begun : Bool
  deriving DecidableEq, Repr

/-- An operation on its way to a unit (R229, R230): the cycle of its core in which it arrives, the span position and the
unit, and the partition that sent it. -/
structure Arrival where
  due : Nat
  spos : Nat
  unit : Nat
  part : Nat
  op : StreamOp
  deriving DecidableEq, Repr

/-- A consistent cut in progress (R404 to R407): when it began, its occasion, the CKPT number, and
whether its drain has ended and its record is being written (R399). -/
structure Cut where
  since : Nat
  reason : BitVec 2
  ckno : BitVec 8
  writing : Bool
  deriving DecidableEq, Repr

/-- The batch of a node block (R359): the die and ring of its node ring's registers, first position and size, whether its
TAKE has been served, the die that places it (R360), how often it has been formed (R450), and the
addresses of the ring's descriptor and of its first granule. -/
structure Batch where
  die : DieId
  ring : Nat
  pos : Nat
  count : Nat
  dealt : Bool
  on : DieId
  tries : Nat
  desc : Nat
  addr : Nat
  deriving DecidableEq, Repr

/-- A resident block (R26, R33). Tiles, slots and cull bits are sparse with default zero: element
(row, col) of tile t of unit m at span position p stands at ((p*4+m)*128+t)*2048 + row*64 + col;
slot s at p*32768 + s. `since` is the device time of its placement; `stopFor` names the job for which a pre-emption has asked it
to stop (R353, R426); `late` to `limq` are its totals (R447), and `mapq` counts the queries that met a map error (R445). `coming` lists the operations on their way to a unit, in the order of their arrival. `scratchAt` and `storeAt` list, for each span position, the pieces (start, length) of the
core's scratchpad array and of each unit's share of its accumulator store that the block takes (R33). -/
structure Block where
  handle : Nat
  job : Nat
  inst : Nat
  no : Nat
  tenant : Nat
  die : DieId
  cluster : Nat
  base : Nat
  kdVa : Nat
  kd : BitVec 2048
  order : Nat
  cls : Nat
  lmask : BitVec 32
  ckptSince : Nat
  since : Nat
  ckno : Option (BitVec 8)
  stopReq : Option (BitVec 2)
  stopFor : Option Nat
  cut : Option Cut
  halted : Bool
  late : Nat
  dropped : Nat
  invq : Nat
  conts : Nat
  limq : Nat
  mapq : Nat
  tiles : List (Nat × Word)
  slots : List (Nat × BitVec 1024)
  units : List (Nat × UnitState)
  fifos : List (Nat × Fifo)
  streams : List (Nat × List StreamOp)
  coming : List Arrival
  ctxs : List (Nat × BitVec 512)
  cull : List (Nat × Bool)
  overflow : List (Nat × Nat × Nat)
  scratchAt : List (List (Nat × Nat))
  storeAt : List (List (Nat × Nat))
  batch : Option Batch
  passed : Bool
  abandonAt : Option Nat
  deriving DecidableEq, Repr

/-! ## Memory accesses -/

/-- The read-modify-write functions (R188). -/
inductive AtomFn where
  | add | min | max | and | or | xor | xchg | cas
  deriving DecidableEq, Repr

/-- What an unfinished access instruction does. -/
inductive AccOp where
  | ld
  | st
  | atom (f : AtomFn)
  | red (f : AtomFn)
  | invL1
  | invAll
  | wbMsc
  deriving DecidableEq, Repr

/-- One lane of an unfinished access: its virtual address and the register data it read at issue;
`req` marks a request that is outstanding at the host or at the other die. -/
structure LaneAcc where
  lane : Nat
  addr : Nat
  data : Nat
  cmp : Nat
  req : Bool
  deriving DecidableEq, Repr

/-- An unfinished memory access instruction (R183). `id` rises in issue order; `lanes` lists the
lanes not yet performed; `all` the lanes it issued for; `parked` says that one of its lanes has parked
(R401); `part` lists the bytes of a byte-wise access that have been performed, as lane, offset and value (R185); `word` is
its instruction word; `core` and `spos` are its warp's, `fences` the fences that stood before it and
`sys` its warp's `sysRel`, as they were at issue. -/
structure Acc where
  id : Nat
  who : Issuer
  op : AccOp
  ty : LTy
  size : Nat
  bw : Bool
  scope : Scope
  sem : BitVec 2
  ch : Hint
  word : BitVec 128
  dreg : Nat
  parked : Bool
  part : List (Nat × Nat × Nat)
  core : Nat
  spos : Nat
  fences : List Fence
  sys : Mask
  all : Mask
  lanes : List LaneAcc
  deriving DecidableEq, Repr

/-- Who accesses memory (R249): the die, the unit whose translations it uses, the tenant, the job
whose staged windows it reaches, the block and span position for scratchpad, or the sequencer. -/
structure Agent where
  die : DieId
  unit : Nat
  tenant : Nat
  job : Option Nat
  block : Option Nat
  spos : Nat
  seq : Option SeqId
  deriving DecidableEq, Repr

/-- A prefetch of a lane that waits at a memory controller (R191, R364): its number, its agent, whether it fills L1, its
hint and its address. -/
structure Fill where
  id : Nat
  g : Agent
  l1 : Bool
  ch : Hint
  addr : Nat
  deriving DecidableEq, Repr

/-- Who waits on a pending entry (R400, R399); `record` is the Percolator with the context record of a block. -/
inductive Waiter where
  | lane (acc lane : Nat)
  | fetch (who : Issuer)
  | copy (cmd : Nat)
  | path (query path : Nat)
  | stream (block key : Nat)
  | percolator (item : Nat)
  | record (block : Nat)
  deriving DecidableEq, Repr

/-- A parked access (R400): the die and tenant it translates for, its 64 KiB page, the reason
(1 translation, 2 poisoned fill) and, for poison, the sector. -/
structure Park where
  who : Waiter
  die : DieId
  tenant : Nat
  page : Nat
  reason : Nat
  sector : Nat
  deriving DecidableEq, Repr

/-- An L1 line (R187, R262): its core, its physical line, its eviction rank (R57: 0 first, 2 last) and the data it was
filled with. -/
structure L1Line where
  die : DieId
  core : Nat
  line : Nat
  rank : Nat
  data : List Byte
  deriving DecidableEq, Repr

/-- A line of a die's memory-side cache (R20, R22, R192, R361): whether it is dirty, the tenant in whose
ways it lies, its way, whether it is a first candidate for eviction (R57), the memory bytes beneath a dirty line, and, for a
line homed on the other die, whether that die's coherence directory shows it as written here (R22, R440). -/
structure MscLine where
  die : DieId
  line : Nat
  dirty : Bool
  tenant : Nat
  way : Nat
  stream : Bool
  back : List Byte
  owned : Bool
  deriving DecidableEq, Repr

/-- A cached translation (R179, R337): die, unit, tenant, 64 KiB page; physical page, entry bits. -/
structure TlbEnt where
  die : DieId
  unit : Nat
  tenant : Nat
  page : Nat
  entry : BitVec 64
  pa : Nat
  deriving DecidableEq, Repr

/-- A remote write whose response is outstanding (R433, R434): its issuing die and tag, the access
and lane it belongs to, how often it was sent again and when last, its home, whether its page is
duplex, its address, and the offsets of the bytes that it carries; for a write of the copy engine the first position that
it moves, the command and the bytes. -/
structure Remote where
  die : DieId
  tag : BitVec 24
  acc : Nat
  lane : Nat
  resends : Nat
  sent : Nat
  home : DieId
  duplex : Bool
  va : Nat
  offs : List Nat
  cmd : Option Nat
  data : List Byte
  deriving DecidableEq, Repr

/-- A result kept at a home (R434): issuing die, tag, old value, time. -/
structure Kept where
  home : DieId
  die : DieId
  tag : BitVec 24
  value : Nat
  time : Nat
  deriving DecidableEq, Repr

/-- A request that left an endpoint for the host (R267, R268): 0 read, 1 posted write, 2 FetchAdd,
3 Swap, 4 CAS; `ro` is the Relaxed Ordering attribute, and `lo` the offset of its bytes in the access. A request of an
engine or the Percolator names access 2^64. -/
structure HostReq where
  die : DieId
  kind : Nat
  pa : Nat
  size : Nat
  data : Nat
  ro : Bool
  acc : Nat
  lane : Nat
  lo : Nat
  deriving DecidableEq, Repr

/-! ## Engines -/

/-- A copy-engine command (R210, R215): its engine, the pushing warp and its PUSH, the record, how
many bytes it has moved, how many of a FEED have entered its FIFO, the bytes credited at each span position, the span
position at which a piece has met a full early-credit table (R220), and the bytes chosen for an overlapping command's positions (R214). -/
structure CopyCmd where
  id : Nat
  die : DieId
  core : Nat
  block : Nat
  spos : Nat
  who : Issuer
  op : Nat
  word : BitVec 512
  started : Bool
  moved : Nat
  entered : Nat
  credited : List (Nat × Nat)
  stuck : Option Nat
  snap : List (Nat × Byte)
  deriving DecidableEq, Repr

/-- An early credit (R220): core, block, barrier index, bytes. -/
structure Credit where
  die : DieId
  core : Nat
  block : Nat
  bar : Nat
  bytes : Nat
  deriving DecidableEq, Repr

/-- A command in a traversal input ring (R292). -/
structure TravCmd where
  die : DieId
  cluster : Nat
  block : Nat
  spos : Nat
  who : Issuer
  op : Nat
  word : BitVec 512
  deriving DecidableEq, Repr

/-- The geometry of a pending item: a beam (R305) by the vectors d, u, v of its instance chain, its
grid size exponent, pixel origin and split depth; or a cone (R306). Vectors are FP32 words. -/
inductive Shape where
  | beam (apex d u v : List Word) (near far : Word) (lg i0 j0 depth : Nat)
  | cone (apex w e1 e2 : List Word) (t near far : Word) (path depth : Nat)
  deriving DecidableEq, Repr

/-- A pending item (R316): a node reference, a beam or cone, the instance chain outermost first, the
entry key of its node's box in the parent, and how many inner nodes stand above it (R298). -/
structure Item where
  ref : Word
  shape : Shape
  chain : List Word
  key : Word
  nest : Nat
  deriving DecidableEq, Repr

/-- A beam path (R311): the item it visits, its stack and its spilled entries (next first), the records it has
still to commit, the items that wait for the continuation reserve (R317), and the bytes of the visited node that have been
read (R320). A spilled entry has its place in
the spill area and tells whether its write is still to be performed. -/
structure TravPath where
  id : Nat
  cur : Option Item
  stack : List Item
  spill : List (Nat × Bool × Item)
  out : List (BitVec 512)
  waiting : List Item
  seen : List (Nat × List Byte)
  deriving DecidableEq, Repr

/-- A started query (R293): its unit, block, command, captured context, paths, flags and counts. -/
structure Query where
  id : Nat
  die : DieId
  cluster : Nat
  block : Nat
  spos : Nat
  who : Issuer
  op : Nat
  word : BitVec 512
  ctx : BitVec 512
  paths : List TravPath
  invalid : Bool
  spillF : Bool
  contF : Bool
  deepF : Bool
  mapF : Bool
  limF : Bool
  nrec : Nat
  ncont : Nat
  nextPath : Nat
  closed : Bool
  deriving DecidableEq, Repr

/-- A pending continuation (R317). -/
structure Cont where
  query : Nat
  item : Item
  deriving DecidableEq, Repr

/-- The marks of a ring (R200), named by the physical address of its descriptor, and its waiting
QAWAITs in the order they reached the home, and the PUSHes that complete when COMMIT reaches a
position (R205): issuer, number, position. -/
structure RingMarks where
  pa : Nat
  commits : List Nat
  retires : List Nat
  waiters : List Issuer
  pushes : List (Issuer × Nat × Nat)
  deriving DecidableEq, Repr

/-- A TAKE that the Percolator has still to serve (R39, R207), also after its warp has exited: its launch and die; `zero` when it issued after the
sources of its job were stopped (R356). -/
structure TakeReq where
  id : Nat
  who : Issuer
  job : Nat
  inst : Nat
  die : DieId
  lanes : Mask
  dreg : Nat
  zero : Bool
  deriving DecidableEq, Repr

/-- A PUBLISH that has still to switch its window (R209): the switch waits for the counted
instructions listed. -/
structure PubReq where
  id : Nat
  who : Issuer
  job : Nat
  win : Nat
  before : List Nat
  deriving DecidableEq, Repr

/-! ## Jobs -/

/-- A publish window (R223). `undo` lists for each instance of the job that has been released the bytes of its backings
written since its release or its last switch: the instance, the address, the byte that stood there, and whether the
instance itself has written it (R465). -/
structure Window where
  desc : Nat
  va : Nat
  size : Nat
  bpa0 : Nat
  bpa1 : Nat
  pub : Bool
  undo : List (Nat × Nat × Byte × Bool)
  deriving DecidableEq, Repr

/-- An instance of a job (R343 to R346, R353, R421, R448): its release and deadline, whether its first
block has been placed in this run, its undealt records, its next block number, its budget count while no block
is resident and since when one is, its estimate, whether it places nothing more, whether its deadline has been
judged, whether it has switched a window, its rollbacks, when it was complete, its totals (R447), when its run ended while a
stopped run of it still has blocks whose resources have not returned, the STATUS of the completion record that is then
due (R269), its kills, and the die from which the launch has been withdrawn (R41). -/
structure Inst where
  no : Nat
  rel : Nat
  deadline : Option Nat
  first : Bool
  remaining : Nat
  nextBlock : Nat
  budgetUsed : Nat
  resSince : Option Nat
  estimate : Nat
  stopped : Bool
  ddlDone : Bool
  switched : Bool
  rollbacks : Nat
  doneAt : Option Nat
  sums : List Nat
  ended : Option Nat
  status : Option Nat
  kills : Nat
  leaving : Option DieId
  deriving DecidableEq, Repr

/-- An admitted job (R341): the die that admitted it, its number, tenant and ring, its card and
kernel descriptor as copied at admission, its waits still open, its release time, tokens, windows
and instances; whether it has left, whether its tenant was disabled (R344), since when it is first in the ready
queue (R352), and its throttled windows with the windows of its last code 3 record and of the last one counted
(R425). A node block is a job with a batch and no card (R359). -/
structure Job where
  id : Nat
  die : DieId
  no : Nat
  tenant : Nat
  ring : Nat
  card : BitVec 2048
  kdVa : Nat
  kd : BitVec 2048
  open_ : List Nat
  rel : Option Nat
  nextInst : Nat
  tokens : Nat
  windows : List Window
  insts : List Inst
  batch : Option Batch
  gone : Bool
  cancelled : Bool
  firstSince : Option Nat
  throttled : Nat
  bwAt : Option Nat
  bwWin : Option Nat
  deriving DecidableEq, Repr

/-- A context record (R411 to R413): the block and its warps as the record describes them, the
unstarted commands and credits that travel, the record's bytes, the die in whose context arena they lie, and
their virtual address there, in tenant 0's tables (R409). -/
structure CtxRec where
  job : Nat
  inst : Nat
  block : Block
  warps : List (Issuer × Warp)
  copies : List CopyCmd
  credits : List (Nat × Nat × Nat)
  travs : List TravCmd
  accs : List Acc
  pubs : List PubReq
  bytes : List Byte
  owner : DieId
  place : Nat
  deriving DecidableEq, Repr

/-! ## Dies -/

/-- A live event entry (R347, R348): name, count, inline waits (job, wait number, target) and
chained waits. -/
structure EvEntry where
  name : BitVec 16
  count : Word
  waits : List (Nat × Nat × Nat)
  chained : List (Nat × Nat × Nat)
  deriving DecidableEq, Repr

/-- An error record that waits for its ring (R398, R399): the tenant, its eight words, and for a
kind 1 record the pending entry whose parked accesses are counted when it is written. -/
structure Held where
  tenant : Nat
  words : List (BitVec 64)
  page : Nat
  reason : Nat
  deriving DecidableEq, Repr

/-- A completion record that waits for the repair of its page (R345, R399). -/
structure DoneRec where
  tenant : Nat
  jobNo : BitVec 16
  va : Nat
  status : Nat
  inst : Nat
  deriving DecidableEq, Repr

/-- An item that the Percolator holds until a page is repaired (R399): a completion record, a PUB bit to be written back
into its window descriptor (R223), a batch to be retired (R424), or a write of SRCTL, QMCTL or SRCMT that waits for a
descriptor. -/
inductive PercItem where
  | done (r : DoneRec)
  | pub (tenant no desc : Nat) (b : Bool)
  | retire (tenant : Nat) (b : Batch)
  | srctl (ring : Nat) (v : Word)
  | qmctl (ring : Nat) (v : Word)
  | srcmt (by_ : RegWriter) (ring : Nat) (v : Word)
  deriving DecidableEq, Repr

/-- The power state of a core (R370): it runs or may run; it holds no warp since a time; it is
gated; it asked to wake at a time. -/
inductive CorePower where
  | awake
  | holding (since : Nat)
  | gated
  | waking (since : Nat)
  deriving DecidableEq, Repr

/-- An ingest stream (R387, R388): its descriptor, dropped frames, record pending. -/
structure Ingest where
  desc : BitVec 256
  dropped : Nat
  posted : Bool
  deriving DecidableEq, Repr

/-- Phases of a firmware update (R463, FWSTAT). -/
inductive FwPhase where
  | idle | verifying | quiescing | running | committed | rejected | rolledBack
  deriving DecidableEq, Repr

/-- A die: its clock, registers, tables and supervision state. `limitSeen` is the power limit on which its power sequencer
last acted (R371); `gates` tells for each Ethernet port which of its 256 gate control list entries is in effect,
`gateSince` since when, and `gateList` the entries, 256 times the interval in ns plus the open gates of the 8 traffic
classes (R386); `discarded` counts for each CSI-2 receiver the frames of other types (R385); `slots` holds the images of the
boot flash, image k (0 Trivet, 1 power sequencer, 2 Percolator) of slot n at 2k + n, `slotA`, `slotP` and `slotT` tell
whether slot 1 is active for the Percolator, the power sequencer and the Trivet, and `fwNew` is the staged image
(R381, R463). `tagged` lists the tags of the last 2 ms with
their times (R433), `arena` is where the context arena lies that the firmware allocated (R409),
`granted` lists the reads (item, address, length) that the Percolator has made for an item that still waits at a memory
controller (R364), and `worked` when each engine last delivered something (R453). `ranIn` lists, for jobs whose blocks have left the die, when
one was placed and when it left (R425), and `rowErrs` the vault, row and time of the corrected errors of vault rows
(R461). -/
structure Die where
  up : Bool
  serving : Bool
  lost : Bool
  dtime : Nat
  pcsr : List (Nat × Word)
  tcsr : List (Nat × Word)
  ways : List (Nat × BitVec 16)
  twaysQ : List (Nat × Word)
  tlbBusy : List (Nat × Bool × Nat)
  tdrop : List (Nat × Word)
  busy : Bool
  withdrawing : Bool
  events : List EvEntry
  held : List Held
  percQ : List (Nat × PercItem)
  ovf : List (Nat × Bool)
  levels : List (Nat × Nat)
  rails : List (Nat × Nat)
  ratios : List (Nat × Nat)
  requests : List (Nat × Nat)
  powerAt : Nat
  limitSeen : Nat
  power : List (Nat × CorePower)
  wakes : List Nat
  marked : List Nat
  retired : List Nat
  spares : List (Nat × Nat)
  rowsSpared : List (Nat × Nat)
  rowErrs : List (Nat × Nat × Nat)
  jobNo : BitVec 16
  admitted : Bool
  lastRing : Nat
  stamps : List (Nat × Nat × Nat)
  regul : List (Nat × Nat × Nat)
  waitsWin : List (Nat × Nat × Nat)
  ranIn : List (Nat × Nat × Nat)
  windowAt : Nat
  tag : BitVec 24
  tagged : List (BitVec 24 × Nat)
  arena : Nat
  granted : List (Nat × Nat × Nat)
  worked : List (Nat × Nat)
  ingest : List (Nat × Ingest)
  gates : List (Nat × Nat)
  gateSince : List (Nat × Nat)
  gateList : List (Nat × Nat)
  discarded : List (Nat × Nat)
  corrected : List (Nat × Nat)
  dpCount : List (Nat × Nat)
  restarts : List (Nat × Nat)
  trivetBeat : Nat
  retrainAt : Option Nat
  retries : Nat
  powerBeat : Nat
  frozenGrants : Bool
  hangs : List Nat
  halted : Bool
  fw : FwPhase
  fwImage : Bool
  fwVersion : Nat
  fwNew : Nat
  slots : List (Nat × Nat)
  slotA : Bool
  slotP : Bool
  slotT : Bool
  version : Nat
  measured : List (BitVec 256)
  spdm : List (Nat × List Byte)
  hostDropped : Nat
  pwrPending : Option Word
  patrolMem : Nat
  patrolVaults : Nat
  config : List Bool
  deriving DecidableEq, Repr

/-- A sequencer (R165, R166, R396, R456). -/
structure SeqRec where
  irqPend : Word
  irqMask : Word
  dtimeHi : Word
  lastBeat : Nat
  halted : Bool
  isolated : Bool
  awaitBeat : Bool
  deriving DecidableEq, Repr

/-- A soft error that will strike (R402, R451): the next result that a warp's lane writes, by an
exclusive or; or one element of the next MMA of a block in a unit. -/
inductive Upset where
  | lane (who : Issuer) (lane : Nat) (flip : Nat)
  | row (block unit row col : Nat) (flip : Word)
  deriving DecidableEq, Repr

/-- Which agent moves next: a warp or sequencer issues; the port of a partition selects a warp
(R46); a device event happens; device time passes; a cache drops a line or a translation, which it
may at any time (R179, R187, R20); some bytes of a byte-wise access are performed before the others (R185); a copy engine starts a command, or moves
one piece of a started one, `lost` when its remote write does not reach its home (R271, R434); a traversal unit reads one 16-byte piece of a node ahead of the others (R320); a prefetch or an
ingest frame that waited at a memory controller is tried again (R364); an array
corrects errors, a vault at the rows given (R428); the Percolator withdraws a die from a launch, or adds one to it (R41, R42). -/
inductive Turn where
  | issue (w : Issuer)
  | slot (die : DieId) (core part : Nat) (y : Bool)
  | event (e : Instr)
  | pass (ns : Nat)
  | dropTlb (die : DieId) (unit tenant page : Nat)
  | dropL1 (die : DieId) (core line : Nat)
  | dropMsc (die : DieId) (line : Nat)
  | copyStart (die : DieId) (core block : Nat)
  | copyPiece (cmd : Nat) (lost : Bool)
  | nodePiece (query path off : Nat)
  | fill (id : Nat)
  | frame (die : DieId) (stream : Nat)
  | bytes (id lane lo n : Nat)
  | corrected (die : DieId) (array : Nat) (rows : List (Nat × Nat))
  | spread (job inst : Nat) (die : DieId) (add : Bool)
  deriving DecidableEq, Repr

/-- The machine. `agenda` lists the coming turns and `upsets` the coming soft errors: both are
inputs. `cur` is the warp that issues. `cycle` is the clock of the core that `clockOf` names,
and `clocks` lists those of the other cores (R4); `half` tells that half a ns of device time has passed beyond DTIME, and
`ports` the cycle in which each issue port was last used (R45). `nextId` numbers what the machine creates; `freeCtr` numbers
the values that the manual leaves open; `bad` lists the uncorrectable 64-bit words of local arrays by their physical
place, and `badPart` the bytes of such a word that have been written since (R431);
`fills` lists the prefetches that wait at a memory controller (R364), and `frames` the ingest frames that do, oldest first;
`apart` the duplex ranges written while one die is away (R362). -/
structure State where
  agenda : List Turn
  upsets : List Upset
  cur : Option Issuer
  cycle : Nat
  clockOf : Nat
  clocks : List (Nat × Nat)
  half : Bool
  ports : List (Nat × Nat)
  nextId : Nat
  freeCtr : Nat
  mem : List Host.Cell
  warps : List (Issuer × Warp)
  seqs : List (SeqId × SeqRec)
  blocks : List Block
  dieA : Die
  dieB : Die
  accs : List Acc
  parks : List Park
  pendq : List (DieId × Nat × Nat × Nat)
  l1 : List L1Line
  msc : List MscLine
  tlb : List TlbEnt
  poison : List (Nat × List Nat)
  bad : List Nat
  badPart : List (Nat × List Nat)
  remotes : List Remote
  kept : List Kept
  hostOut : List HostReq
  hostIn : List (Nat × List Byte × Bool)
  copies : List CopyCmd
  early : List Credit
  travQ : List TravCmd
  queries : List Query
  conts : List Cont
  rings : List RingMarks
  takes : List TakeReq
  pubs : List PubReq
  jobs : List Job
  ctxRecs : List CtxRec
  msix : List (Nat × Nat)
  fills : List Fill
  frames : List (DieId × Nat × List Byte)
  apart : List (Nat × Nat)
  deriving DecidableEq, Repr

/-- Why the machine stops. -/
inductive Fault where
  /-- Raised by `exec` for an instruction of R67 when the state names no live warp or sequencer to
  issue it: no instruction issues without an issuer (R2, R25). Safe: nothing is claimed of it. -/
  | noIssuer
  deriving DecidableEq, Repr

/-- Why an instruction has no meaning. -/
inductive Refusal where
  /-- Raised by `exec` for an instruction that the model does not give a meaning. Safe. -/
  | notModelled (mnemonic : String)
  deriving DecidableEq, Repr

/-! ## Reset -/

/-- A die after reset, before boot (R380, R336, R338, R368, R455; entry 2 for the rest). -/
def Die.reset : Die where
  up := false
  serving := false
  lost := false
  dtime := 0
  pcsr := []
  tcsr := []
  ways := []
  twaysQ := []
  tlbBusy := []
  tdrop := []
  busy := false
  withdrawing := false
  events := []
  held := []
  percQ := []
  ovf := []
  levels := []
  rails := []
  ratios := []
  requests := []
  powerAt := 0
  limitSeen := 450
  power := []
  wakes := []
  marked := []
  retired := []
  spares := []
  rowsSpared := []
  rowErrs := []
  jobNo := 0
  admitted := false
  lastRing := 63
  stamps := []
  regul := []
  waitsWin := []
  ranIn := []
  windowAt := 0
  tag := 0
  tagged := []
  arena := 0
  granted := []
  worked := []
  ingest := []
  gates := []
  gateSince := []
  gateList := []
  discarded := []
  corrected := []
  dpCount := []
  restarts := []
  trivetBeat := 0
  retrainAt := none
  retries := 0
  powerBeat := 0
  frozenGrants := false
  hangs := []
  halted := false
  fw := .idle
  fwImage := false
  fwVersion := 0
  fwNew := 0
  slots := []
  slotA := false
  slotP := false
  slotT := false
  version := 0
  measured := []
  spdm := []
  hostDropped := 0
  pwrPending := none
  patrolMem := 0
  patrolVaults := 0
  config := []

/-- A sequencer after reset (entry 2). -/
def SeqRec.reset : SeqRec where
  irqPend := 0
  irqMask := 0
  dtimeHi := 0
  lastBeat := 0
  halted := false
  isolated := false
  awaitBeat := false

/-- The module right after reset. No job, no block and no warp is resident; every register holds the
value of the manual, or zero (entry 2). -/
def State.reset : State where
  agenda := []
  upsets := []
  cur := none
  cycle := 0
  clockOf := 0
  clocks := []
  half := false
  ports := []
  nextId := 0
  freeCtr := 0
  mem := []
  warps := []
  seqs := []
  blocks := []
  dieA := Die.reset
  dieB := Die.reset
  accs := []
  parks := []
  pendq := []
  l1 := []
  msc := []
  tlb := []
  poison := []
  bad := []
  badPart := []
  remotes := []
  kept := []
  hostOut := []
  hostIn := []
  copies := []
  early := []
  travQ := []
  queries := []
  conts := []
  rings := []
  takes := []
  pubs := []
  jobs := []
  ctxRecs := []
  msix := []
  fills := []
  frames := []
  apart := []

end Sys2Proof.Machine
end

