-- ==== Sys2Proof/Machine/Mem.lean ====
section
/-! DEFINITION. Memory: the location keys of the one memory map, the local apertures and their issue
checks (R167 to R172, R182, R195), page walks and cached translations (R173 to R179), publish windows
(R208, R223), and reading and writing a location under poison, duplex pages and an absent home (R178,
R429, R431, R437, R438). -/

namespace Sys2Proof.Machine

/-! ## The records of State -/

def State.die (s : State) (d : DieId) : Die := if d then s.dieB else s.dieA

def State.setDie (s : State) (d : DieId) (x : Die) : State :=
  if d then { s with dieB := x } else { s with dieA := x }

def State.warp? (s : State) (who : Issuer) : Option Warp := alook who s.warps

def State.setWarp (s : State) (who : Issuer) (w : Warp) : State :=
  { s with warps := aput who w s.warps }

def State.block? (s : State) (h : Nat) : Option Block := s.blocks.find? (·.handle == h)

def State.setBlock (s : State) (b : Block) : State :=
  { s with blocks := s.blocks.map fun c => if c.handle == b.handle then b else c }

def State.job? (s : State) (id : Nat) : Option Job := s.jobs.find? (·.id == id)

def State.setJob (s : State) (j : Job) : State :=
  { s with jobs := s.jobs.map fun c => if c.id == j.id then j else c }

def Job.inst? (j : Job) (no : Nat) : Option Inst := j.insts.find? (·.no == no)

def Job.setInst (j : Job) (i : Inst) : Job :=
  { j with insts := j.insts.map fun c => if c.no == i.no then i else c }

def State.seq (s : State) (q : SeqId) : SeqRec := (alook q s.seqs).getD SeqRec.reset

def State.setSeq (s : State) (q : SeqId) (x : SeqRec) : State := { s with seqs := aput q x s.seqs }

/-- Device time of a die (R378). -/
def State.now (s : State) (d : DieId) : Nat := (s.die d).dtime

/-- A fresh number for what the machine creates. -/
def State.bump (s : State) : State := { s with nextId := s.nextId + 1 }

/-- A fresh index of a free value. -/
def State.bumpFree (s : State) : State := { s with freeCtr := s.freeCtr + 1 }

/-- The die of an issuer. -/
def State.dieOf (s : State) : Issuer → DieId
  | .warp b _ => match s.block? b with
    | some c => c.die
    | none => false
  | .seq q => q.die

/-- A die is out of service (R360, R439): its memory answers no access. -/
def State.absent (s : State) (d : DieId) : Bool := (s.die d).lost

/-! ## Location keys

One memory holds every location: physical memory and the host window at their physical address,
vaults from 2^44, sequencer SRAMs from 2^45, scratchpads from 2^46. -/

def vaultKey (d : DieId) (v off : Nat) : Nat := 2 ^ 44 + ((if d then 64 else 0) + v) * 2 ^ 25 + off

def sramKey (q : SeqId) (off : Nat) : Nat :=
  2 ^ 45 + (((if q.die then 2 else 0) + (if q.trivet then 1 else 0)) * 8 + q.num) * 2 ^ 20 + off

def scratchKey (block spos off : Nat) : Nat := 2 ^ 46 + (block * 4 + spos) * 2 ^ 21 + off

/-- The number of a core among those of both dies. -/
def coreKey (d : DieId) (core : Nat) : Nat := (if d then 64 else 0) + core

/-- The physical place of byte `off` of a core's scratchpad array, and of its accumulator store (1 MiB for each matrix
unit, unit 0 first): the errors of R431 stand there. -/
def scratchPhys (d : DieId) (core off : Nat) : Nat := 2 ^ 45 + 2 ^ 40 + coreKey d core * 2 ^ 21 + off
def storePhys (d : DieId) (core off : Nat) : Nat := 2 ^ 45 + 2 ^ 41 + coreKey d core * 2 ^ 23 + off

/-- Byte `o` of an allocation: its place in the array whose pieces (start, length) the allocation takes in order. -/
def pieceOffset : List (Nat × Nat) → Nat → Nat
  | [], o => o
  | (a, n) :: l, o => if o < n then a + o else pieceOffset l (o - n)

/-- The logical core at a span position of a block. -/
def Block.coreAt (b : Block) (spos : Nat) : Nat := b.cluster * 4 + b.base + spos

/-- The physical place of a location: that of a scratchpad byte in its core's array; any other location is its own. -/
def State.physKey (s : State) (l : Nat) : Nat :=
  if l < 2 ^ 46 then l
  else
    let x := l - 2 ^ 46
    match s.block? (x / 2 ^ 23) with
    | some b => scratchPhys b.die (b.coreAt (x / 2 ^ 21 % 4)) (pieceOffset (b.scratchAt.getD (x / 2 ^ 21 % 4) []) (x % 2 ^ 21))
    | none => l

/-- The byte at a location; an unlisted location holds zero (entry 3). -/
def State.byte (s : State) (l : Nat) : Byte := sget 0 s.mem l

/-- Store bytes from a location upward. -/
def putBytes (m : List Host.Cell) : Nat → List Byte → List Host.Cell
  | _, [] => m
  | l, b :: bs => putBytes (sset 0 m l b) (l + 1) bs

/-- The `n` bytes from a location upward. -/
def State.bytes (s : State) (l n : Nat) : List Byte := (rangeFrom l n).map s.byte

def State.store (s : State) (l : Nat) (bs : List Byte) : State := { s with mem := putBytes s.mem l bs }

/-! ## Descriptor fields (R79, R80) -/

def kdField (kd : BitVec 2048) (hi lo : Nat) : Nat := (kd.extractLsb' lo (hi + 1 - lo)).toNat

def kdSpan (kd : BitVec 2048) : Nat := kdField kd 34 32
def kdDeep (kd : BitVec 2048) : Bool := kd.getLsbD 35
def kdTrapv (kd : BitVec 2048) : Bool := kd.getLsbD 36
def kdTiles (kd : BitVec 2048) : Nat := kdField kd 47 40
def kdFifos (kd : BitVec 2048) : Nat := kdField kd 55 48
def kdSlots (kd : BitVec 2048) : Nat := kdField kd 79 64
def kdBarriers (kd : BitVec 2048) : Nat := kdField kd 88 80
/-- SCRATCH in bytes. -/
def kdScratch (kd : BitVec 2048) : Nat := kdField kd 106 96 * 1024
def kdCode (kd : BitVec 2048) : Nat := kdField kd 191 128
def kdTrap (kd : BitVec 2048) : Nat := kdField kd 223 192
def kdCkptns (kd : BitVec 2048) : Nat := kdField kd 255 224
def kdLivekib (kd : BitVec 2048) : Nat := kdField kd 287 256
def kdVmap (kd : BitVec 2048) (g : Nat) : Nat := kdField kd (289 + 2 * g) (288 + 2 * g)
def kdVcount (kd : BitVec 2048) : Nat := kdField kd 305 304
def kdSwcount (kd : BitVec 2048) : Nat := kdField kd 319 312
def kdSwt (kd : BitVec 2048) (v : Nat) : Nat := kdField kd (447 + 64 * v) (384 + 64 * v)

/-- A field of role record k. -/
def kdRole (kd : BitVec 2048) (k hi lo : Nat) : Nat := kdField kd (1024 + 128 * k + hi) (1024 + 128 * k + lo)
def roleEntry (kd : BitVec 2048) (k : Nat) : Nat := kdRole kd k 31 0
/-- The register budget of a role (R29). -/
def roleBudget (kd : BitVec 2048) (k : Nat) : Nat := kdRole kd k 37 32 * 8
def rolePrio (kd : BitVec 2048) (k : Nat) : Nat := kdRole kd k 39 38
def roleWarps (kd : BitVec 2048) (k : Nat) : Nat := kdRole kd k 48 40
def roleCmask (kd : BitVec 2048) (k : Nat) : Nat := kdRole kd k 52 49
def roleLast (kd : BitVec 2048) (k : Nat) : Nat := kdRole kd k 58 53

/-! ## Agents -/

/-- Translation units: cores 0 to 47, then traversal units, copy engines, compositors, the ingest
engine and the Percolator. -/
def unitTrav (cluster : Nat) : Nat := 100 + cluster
def unitCopy (core : Nat) : Nat := 200 + core
def unitComp (core : Nat) : Nat := 300 + core
def unitIngest : Nat := 400
def unitPerc : Nat := 401

/-- The agent of a warp or sequencer. -/
def State.agentOf (s : State) (who : Issuer) (w : Warp) : Agent :=
  match who with
  | .warp h _ =>
    match s.block? h with
    | some b => ⟨b.die, w.core, b.tenant, some b.job, some h, w.spos, none⟩
    | none => ⟨false, w.core, 0, none, some h, w.spos, none⟩
  | .seq q => ⟨q.die, 500 + (if q.trivet then 8 else 0) + q.num, 0, none, none, 0, some q⟩

/-- An engine acting for a block on one of its span cores. -/
def State.agentFor (s : State) (h unit spos : Nat) : Agent :=
  match s.block? h with
  | some b => ⟨b.die, unit, b.tenant, some b.job, some h, spos, none⟩
  | none => ⟨false, unit, 0, none, some h, spos, none⟩

/-- The Percolator of a die acting for a tenant (R399). -/
def percAgent (d : DieId) (tenant : Nat) : Agent := ⟨d, unitPerc, tenant, none, none, 0, none⟩

/-! ## Local apertures -/

/-- VA[51:48] = 0xF (R168). -/
def isLocal (a : Nat) : Bool := bits a 51 48 == 15

/-- The reset value of a Percolator register: 16 for VOWN (R338), else 0 (R336, entry 2). -/
def csrDefault (n : Nat) : Word := if 0x300 ≤ n && n < 0x330 then 16 else 0

/-- The tenant that a vault's owner register names; 16 is all tenants (R338, R170). -/
def State.vaultOwner (s : State) (d : DieId) (v : Nat) : Nat := (sget (csrDefault (0x300 + v)) (s.die d).pcsr (0x300 + v) : Word).toNat

/-- The aperture checks of one address (R167, R168, R170, R172). -/
def State.apertureOk (s : State) (g : Agent) (a : Nat) : Bool :=
  a < 2 ^ 52 && (!isLocal a ||
    (match bits a 47 44 with
    | 0 => g.seq.isSome || g.block.isSome
    | 1 => g.seq.isNone && g.block.isSome
    | 2 => g.seq.isNone && bits a 43 42 == 0 && bits a 35 25 == 0 && decide (bits a 41 36 < 48) &&
        (g.tenant == 0 || s.vaultOwner g.die (bits a 41 36) == 16 ||
          s.vaultOwner g.die (bits a 41 36) == g.tenant)
    | _ => false))

/-- SCRATCH of the agent's block, in bytes, and its span size. -/
def State.scratchOf (s : State) (g : Agent) : Nat × Nat :=
  match g.block.bind s.block? with
  | some b => (kdScratch b.kd, kdSpan b.kd)
  | none => (0, 0)

/-- Bytes of a sequencer's SRAM (R172). -/
def sramSize (q : SeqId) : Nat := if q.trivet then 512 * 1024 else 128 * 1024

/-- The bounds checks of one address (R169, R172). -/
def State.boundsOk (s : State) (g : Agent) (a : Nat) : Bool :=
  !isLocal a ||
    (match bits a 47 44 with
    | 0 => match g.seq with
      | some q => decide (bits a 43 0 < sramSize q)
      | none => decide (bits a 43 0 < (s.scratchOf g).1)
    | 1 => decide (bits a 43 42 < (s.scratchOf g).2) && decide (bits a 41 0 < (s.scratchOf g).1)
    | _ => true)

/-- Does a byte lie in a barrier object of the block (R194, R195)? -/
def State.inBarrier (s : State) (g : Agent) (a : Nat) : Bool :=
  isLocal a && g.seq.isNone &&
    (match g.block.bind s.block? with
    | some b => match bits a 47 44 with
      | 0 => decide (bits a 43 0 < 16 * kdBarriers b.kd)
      | 1 => decide (bits a 41 0 < 16 * kdBarriers b.kd)
      | _ => false
    | none => false)

/-- The location of an aperture address that passed its checks. -/
def localKey (g : Agent) (a : Nat) : Nat :=
  match bits a 47 44 with
  | 0 => match g.seq with
    | some q => sramKey q (bits a 43 0)
    | none => scratchKey (g.block.getD 0) g.spos (bits a 43 0)
  | 1 => scratchKey (g.block.getD 0) (bits a 43 42) (bits a 41 0)
  | _ => vaultKey g.die (bits a 41 36) (bits a 24 0)

/-! ## Page tables -/

/-- The die on which physical memory lies; the host window has none (R382). -/
def homeOf (pa : Nat) : Option DieId :=
  if pa < 2 ^ 36 then some false else if pa < 2 ^ 37 then some true else none

/-- The reserved physical range (R382). -/
def reservedPa (pa : Nat) : Bool := decide (2 ^ 37 ≤ pa) && decide (pa < 2 ^ 43)

def isHost (pa : Nat) : Bool := decide (2 ^ 43 ≤ pa)

/-- The same offset on the other die (R178). -/
def otherCopy (pa : Nat) : Nat := if pa < 2 ^ 36 then pa + 2 ^ 36 else pa - 2 ^ 36

/-- What a translation gives: the physical address, the leaf's bits, and the publish window of its job that it went
through: the job, the window's index and the instance that the agent acts for. -/
structure Xl where
  pa : Nat
  entry : Nat
  window : Option (Nat × Nat × Nat)
  deriving DecidableEq, Repr

def Xl.kind (x : Xl) : Nat := bits x.entry 12 11
def Xl.dup (x : Xl) : Bool := bitAt x.entry 10
def Xl.pol (x : Xl) : Nat := bits x.entry 9 7

/-- The permissions that an access needs (R176). -/
structure Perm where
  r : Bool
  w : Bool
  x : Bool
  deriving DecidableEq, Repr

def permOk (e : Nat) (p : Perm) : Bool := (!p.r || bitAt e 4) && (!p.w || bitAt e 5) && (!p.x || bitAt e 6)

/-- The eight bytes of a page-table entry. -/
def State.pte (s : State) (table idx : Nat) : Nat := ofBytes (s.bytes (table + 8 * idx) 8)

/-- Reserved bits and values of every entry, and V (R174). -/
def pteOk (e : Nat) : Bool :=
  bitAt e 0 && bits e 63 44 == 0 && bits e 3 2 == 0 && bits e 14 13 != 3 && bits e 12 11 != 3 &&
    decide (bits e 9 7 ≤ 2)

/-- A table entry that names a table of memory; tables are 32 KiB-aligned by ADDR's position. -/
def tableOk (e : Nat) : Bool :=
  pteOk e && !bitAt e 1 && bits e 14 4 == 0 && !reservedPa (bits e 43 15 * 2 ^ 15)

def pageBytes (e : Nat) : Nat :=
  match bits e 14 13 with
  | 0 => 2 ^ 16
  | 1 => 2 ^ 21
  | _ => 2 ^ 30

/-- A leaf: no reserved value and an aligned page (R174, R175). -/
def leafOk (lvl e : Nat) : Bool :=
  pteOk e && bitAt e 1 && (if lvl == 2 then bits e 14 13 == 2 else decide (bits e 14 13 ≤ 1)) &&
    bits e 43 15 * 2 ^ 15 % pageBytes e == 0

/-- The entry of a group that translates (R175): the entry itself where all members agree, else that
of some member. -/
def State.groupEntry (s : State) (table idx n : Nat) : Nat :=
  let base := idx / n * n
  let e := s.pte table idx
  if (List.range n).all (fun k => s.pte table (base + k) == e) then e
  else s.pte table (base + Config.groupMember s.freeCtr % n)

/-- The root of a tenant's tables (R173, R335). -/
def State.root (s : State) (d : DieId) (t : Nat) : Nat :=
  (sget 0 (s.die d).pcsr (0x101 + 16 * t) : Word).toNat + (sget 0 (s.die d).pcsr (0x102 + 16 * t) : Word).toNat % 4096 * 2 ^ 32

/-- A walk (R173, R175): the leaf that maps an address, or `none` for the translation fault. A walk
that would read a table homed on an absent die has no table to read and faults too. -/
def State.walk (s : State) (d : DieId) (t va : Nat) : Option Nat :=
  let readable := fun pa => match homeOf pa with
    | some h => !s.absent h
    | none => true
  let root := s.root d t
  if reservedPa root || !readable root then none
  else
    let e1 := s.pte root (bits va 51 40)
    let t2 := bits e1 43 15 * 2 ^ 15
    if !tableOk e1 || !readable t2 then none
    else
      let e2 := s.pte t2 (bits va 39 28)
      if bitAt e2 1 then
        let e := if bits e2 14 13 == 2 then s.groupEntry t2 (bits va 39 28) 4 else e2
        if leafOk 2 e then some e else none
      else
        let t3 := bits e2 43 15 * 2 ^ 15
        if !tableOk e2 || !readable t3 then none
        else
          let e3 := s.pte t3 (bits va 27 16)
          let e := if bits e3 14 13 == 1 then s.groupEntry t3 (bits va 27 16) 32 else e3
          if leafOk 3 e then some e else none

/-- The physical address under a leaf (R175). -/
def leafPa (e va : Nat) : Nat := bits e 43 15 * 2 ^ 15 + va % pageBytes e

/-- The leaf gives the access what it needs and lies outside the reserved range (R175, R176). -/
def leafAllows (e : Nat) (p : Perm) : Bool := permOk e p && !reservedPa (bits e 43 15 * 2 ^ 15)

/-- The cached translation of a page (R179). -/
def State.cached (s : State) (g : Agent) (va : Nat) : Option Nat :=
  (s.tlb.find? fun t => t.die == g.die && t.unit == g.unit && t.tenant == g.tenant && t.page == va / 65536).map
    (·.entry.toNat)

/-! ## The memory-side caches (R20, R22, R57, R177, R363, R366) -/

/-- A memory controller of a die moves bytes of a line for a tenant in the current window (R363); tenant 0
is not regulated. -/
def State.dram (s : State) (h : DieId) (tenant line n : Nat) : State :=
  if tenant == 0 then s
  else
    let x := s.die h
    let k := x.dtime / 10000
    s.setDie h { x with windowAt := k, regul := (if x.windowAt == k then x.regul else []) ++ [(tenant, line, n)] }

/-- Where a line lies in a memory-side cache: one of 16 slices of 512 sets. The four lines of a superblock share their
place (R20 leaves the hash open; the sizes give the number of sets). -/
def mscSet (line : Nat) : Nat := Config.mscSet (line / 4) % 8192

/-- The line of a die's memory-side cache. -/
def State.mscLine (s : State) (d : DieId) (line : Nat) : Option MscLine := s.msc.find? fun m => m.die == d && m.line == line

/-- The lines of one way of one set, at most a superblock (R20). -/
def State.mscWay (s : State) (d : DieId) (set way : Nat) : List MscLine :=
  s.msc.filter fun m => m.die == d && m.way == way && mscSet m.line == set

/-- Lines leave a memory-side cache; a dirty one is written back at its controller, for the tenant in whose ways it lay
(R363). The bytes are memory's already. -/
def State.mscEvict (s : State) (gone : MscLine → Bool) : State :=
  let s := (s.msc.filter fun m => gone m && m.dirty).foldl (fun s m => s.dram m.die m.tenant m.line 128) s
  { s with msc := s.msc.filter fun m => !gone m }

/-- The way that a fill takes among those of its tenant (R366): the way that holds its superblock, a free one, one whose
lines are all first candidates for eviction (R57), or any; which of several is free. -/
def State.mscPick (s : State) (d : DieId) (tenant line : Nat) : Option Nat :=
  let ways := (List.range 16).filter (sget 0 (s.die d).ways tenant : BitVec 16).getLsbD
  let at_ := s.mscWay d (mscSet line)
  let pick := fun (l : List Nat) => l[Config.mscWay s.freeCtr % l.length]?
  (pick (ways.filter fun w => (at_ w).any fun m => m.line / 4 == line / 4)).or
    ((pick (ways.filter fun w => (at_ w).isEmpty)).or
      ((pick (ways.filter fun w => (at_ w).all (·.stream))).or (pick ways)))

/-- Allocate a line in a die's memory-side cache for a tenant; without a way nothing is allocated. -/
def State.mscFill (s : State) (d : DieId) (line tenant : Nat) (dirty stream : Bool) (back : List Byte) : State :=
  match s.mscPick d tenant line with
  | none => s
  | some w =>
    let s := { s with freeCtr := s.freeCtr + 1 }
    let s := s.mscEvict fun m => m.die == d && m.way == w && mscSet m.line == mscSet line && m.line / 4 != line / 4
    { s with msc := s.msc ++ [⟨d, line, dirty, tenant, w, stream, back, false⟩] }

/-- One line at its home (R20, R57, R177): a write makes the line dirty, keeping the bytes beneath it; a
read allocates it clean. `no` is CH nomsc or POL 2. A miss reads the line, or moves the access's bytes, at a
controller (R363). -/
def State.mscHome (s : State) (h : DieId) (line tenant n : Nat) (write no stream : Bool) : State :=
  match s.mscLine h line with
  | some m =>
    if write && !m.dirty then
      { s with msc := s.msc.map fun x =>
          if x.die == h && x.line == line then { x with dirty := true, back := s.bytes (line * 128) 128 } else x }
    else s
  | none =>
    let s := s.dram h tenant line (if no then n else 128)
    if no then s else s.mscFill h line tenant write stream (if write then s.bytes (line * 128) 128 else [])

/-- The directory notes whether a die's memory-side cache holds a line of the other die as written there (R22). -/
def State.setOwned (s : State) (d : DieId) (line : Nat) (b : Bool) : State :=
  { s with msc := s.msc.map fun (m : MscLine) => if m.die == d && m.line == line then { m with owned := b } else m }

/-- Something has crossed the link from a die: the link works, no retraining of it is outstanding, and the die's retries
start over (R434, R439, R452). -/
def State.linkUp (s : State) (d : DieId) : State :=
  let x := s.die d
  if s.dieA.retrainAt.isNone && s.dieB.retrainAt.isNone && x.retries == 0 then s
  else
    let s := s.setDie d { x with retries := 0 }
    { s with dieA := { s.dieA with retrainAt := none }, dieB := { s.dieB with retrainAt := none } }

/-- The memory-side caches after an access of `n` bytes of one line by an agent of die `by_`. A read from the other die
is served by that die's cache where it holds the line, and else leaves a clean copy there; a write from the home
recalls the copies of the other die, and a read there brings back what the other die has written (R22, R265). -/
def State.mscOne (s : State) (by_ : DieId) (line tenant n : Nat) (write no stream : Bool) : State :=
  match homeOf (line * 128) with
  | none => s
  | some h =>
    if by_ == h then
      let s := s.mscHome h line tenant n write no stream
      if write then s.mscEvict fun m => m.die == (!h) && m.line == line else s.setOwned (!h) line false
    else if (s.mscLine by_ line).isSome && !write then s
    else
      let s := (s.linkUp by_).mscHome h line tenant n write no stream
      let s := if no || (s.mscLine by_ line).isSome then s else s.mscFill by_ line tenant false stream []
      if write then s.setOwned by_ line true else s

/-- The lines of a range with the bytes of each. -/
def linesOf (pa n : Nat) : List (Nat × Nat) :=
  (rangeFrom (pa / 128) ((pa + n - 1) / 128 + 1 - pa / 128)).map fun k => (k, min (pa + n) (k * 128 + 128) - max pa (k * 128))

/-- The memory-side caches after an access of `n` bytes from a physical address. -/
def State.mscTouch (s : State) (by_ : DieId) (pa tenant n : Nat) (write no stream : Bool) : State :=
  (linesOf pa n).foldl (fun s p => s.mscOne by_ p.1 tenant p.2 write no stream) s

/-- The table entries that a walk for an address reads, as far as it goes (R173). -/
def State.walkReads (s : State) (d : DieId) (t va : Nat) : List Nat :=
  let ok := fun pa => !reservedPa pa && (match homeOf pa with
    | some h => !s.absent h
    | none => true)
  let root := s.root d t
  if !ok root then []
  else
    let e1 := s.pte root (bits va 51 40)
    let t2 := bits e1 43 15 * 2 ^ 15
    (root + 8 * bits va 51 40) :: (if !tableOk e1 || !ok t2 then []
      else
        let e2 := s.pte t2 (bits va 39 28)
        let t3 := bits e2 43 15 * 2 ^ 15
        (t2 + 8 * bits va 39 28) :: (if bitAt e2 1 || !tableOk e2 || !ok t3 then [] else [t3 + 8 * bits va 27 16]))

/-- The table reads of a walk pass the memory-side cache for the tenant. -/
def State.walkTouch (s : State) (g : Agent) (va : Nat) : State :=
  (s.walkReads g.die g.tenant va).foldl (fun s pa => s.mscTouch g.die pa g.tenant 8 false false false) s

/-! ## Duplex pages of the tables -/

/-- The leaf entries of a table's valid ones, at the second or third level (R173). -/
def State.leavesIn (s : State) (table n lvl : Nat) : List Nat := ((List.range n).map (s.pte table)).filter (leafOk lvl)

/-- Does a leaf map a physical address on a duplex page, on either copy? -/
def leafDuplex (pa e : Nat) : Bool :=
  let base := bits e 43 15 * 2 ^ 15
  let on := fun (a : Nat) => decide (base ≤ a) && decide (a < base + pageBytes e)
  bitAt e 10 && (on pa || on (otherCopy pa))

/-- Does some tenant's page table map a physical address on a duplex page (R173, R178)? -/
def State.mapsDuplex (s : State) (pa : Nat) : Bool :=
  [false, true].any fun d => (List.range 16).any fun t =>
    (((List.range 4096).map (s.pte (s.root d t))).filter tableOk).any fun e1 =>
      let t2 := bits e1 43 15 * 2 ^ 15
      (s.leavesIn t2 4096 2).any (leafDuplex pa) ||
        (((List.range 4096).map (s.pte t2)).filter tableOk).any fun e2 => (s.leavesIn (bits e2 43 15 * 2 ^ 15) 4096 3).any (leafDuplex pa)

/-! ## Publish windows -/

/-- The window of a job that holds an address: the job, the window's index and the window. -/
def Job.windowAt (j : Job) (va : Nat) : Option (Nat × Nat × Window) :=
  (j.windows.zipIdx.find? fun p => decide (p.1.va ≤ va) && decide (va < p.1.va + p.1.size)).map fun p => (j.id, p.2, p.1)

/-- The window that an agent of a tenant reaches at an address: one of its own job, else the first one of the
tenant's jobs (R208). Which of several windows of different jobs other agents reach, and that each job keeps a PUB of its own,
is the model's choice (entry 94). -/
def State.windowAt (s : State) (tenant : Nat) (own : Option Nat) (va : Nat) : Option (Nat × Nat × Window) :=
  ((own.bind s.job?).bind fun j => j.windowAt va).or
    ((s.jobs.filter fun j => j.tenant == tenant).findSome? fun j => j.windowAt va)

/-- The base of a window's published or staged backing (R208, R223). -/
def Window.backing (w : Window) (published : Bool) : Nat := if w.pub == published then w.bpa1 else w.bpa0

/-- The leaf bits of a window page: kind RC, policy 1 (R223). -/
def windowEntry : Nat := 2 ^ 7

/-- A walk's result stays cached until it is invalidated or dropped (R179). -/
def State.cache (s : State) (g : Agent) (va e : Nat) : State :=
  { s with
    freeCtr := s.freeCtr + 1
    tlb := s.tlb ++ [⟨g.die, g.unit, g.tenant, va / 65536, BitVec.ofNat 64 e, leafPa e va⟩] }

/-- Translate one address for an agent: `none` is the replayable translation fault (R175, R223). The table reads of a walk
pass the memory-side cache. An instruction fetch from a window of another job is a fault, and the own job fetches from the
staged backing (the model's choice, entry 95). -/
def State.translate (s : State) (g : Agent) (va : Nat) (p : Perm) : State × Option Xl :=
  match s.windowAt g.tenant g.job va with
  | some (j, i, w) =>
    if g.job == some j then
      (s, some ⟨w.backing false + (va - w.va), windowEntry, some (j, i, ((g.block.bind s.block?).map (·.inst)).getD 0)⟩)
    else if p.w || p.x then (s, none)
    else (s, some ⟨w.backing true + (va - w.va), windowEntry, none⟩)
  | none =>
    match s.cached g va with
    | some e => (s, if leafAllows e p then some ⟨leafPa e va, e, none⟩ else none)
    | none =>
      let walked := s.walkTouch g va
      match s.walk g.die g.tenant va with
      | none => (walked, none)
      | some e =>
        if leafAllows e p then (walked.cache g va e, some ⟨leafPa e va, e, none⟩) else (walked, none)

/-- The leaf that maps an address outside the publish windows. -/
def State.leafOf (s : State) (g : Agent) (va : Nat) : Option Nat :=
  if (s.windowAt g.tenant g.job va).isSome then none else (s.cached g va).or (s.walk g.die g.tenant va)

/-- A leaf is there but refuses the access: it lacks a permission or names a reserved address. For the Percolator's own
accesses this is a failure and no fault to repair (R399). -/
def State.refused (s : State) (g : Agent) (va : Nat) (p : Perm) : Bool := (s.leafOf g va).any fun e => !leafAllows e p

/-- A leaf is there but lacks a permission: for an engine's own records this is a failure; a reserved address or a
window of another job gives the translation fault (R223, R382). -/
def State.lacks (s : State) (g : Agent) (va : Nat) (p : Perm) : Bool := (s.leafOf g va).any fun e => !permOk e p

/-! ## Reading and writing a location -/

/-- What an access meets when it is performed. -/
inductive Got (α : Type) where
  /-- It is performed. -/
  | ok (a : α)
  /-- It parks (R400): reason 1 translation, 2 poisoned fill; the page of its address; the sector. -/
  | park (page reason sector : Nat)
  /-- Its home is absent (R438). -/
  | offline (va : Nat) (d : DieId)
  /-- It reads an uncorrectable error of a local array (R431): the location. -/
  | bad (l : Nat)
  /-- It fails otherwise: an access failure of an engine (R444). -/
  | fail (va : Nat)
  deriving Repr

/-- The copy that serves a read of a duplex page (R178, R266, R437): the issuing die's own for RC and
UO, the primary for SO, and the surviving one when a die is absent. -/
def State.readCopy (s : State) (d : DieId) (x : Xl) : Nat :=
  if !x.dup then x.pa
  else
    let mine := match homeOf x.pa with
      | some h => if h == d then x.pa else otherCopy x.pa
      | none => x.pa
    let pick := if x.kind == 1 then x.pa else mine
    match homeOf pick with
    | some h => if s.absent h then otherCopy pick else pick
    | none => pick

/-- The copies that a write reaches (R178, R437), the primary first. -/
def State.writeCopies (s : State) (x : Xl) : List Nat :=
  (if x.dup then [x.pa, otherCopy x.pa] else [x.pa]).filter fun pa =>
    match homeOf pa with
    | some h => !s.absent h
    | none => true

/-- Is the access's only home absent (R438)? -/
def State.homeGone (s : State) (x : Xl) : Option DieId :=
  match homeOf x.pa with
  | some h => if s.absent h && (!x.dup || s.absent (!h)) then some h else none
  | none => none

/-- The poisoned sector of a location (R429). -/
def State.poisoned (s : State) (pa n : Nat) : Option Nat :=
  ((rangeFrom (pa / 64) ((pa + n - 1) / 64 + 1 - pa / 64)).find? fun c => (alook c s.poison).isSome)

/-- Count rewritten bytes of poisoned sectors; a sector whose 64 bytes have all been rewritten is no
longer poisoned (R429). -/
def clearPoison (p : List (Nat × List Nat)) (pa n : Nat) : List (Nat × List Nat) :=
  (p.map fun e =>
    (e.1, e.2 ++ (List.range 64).filter fun o =>
      decide (pa ≤ e.1 * 64 + o) && decide (e.1 * 64 + o < pa + n) && !e.2.contains o)).filter
    fun e => decide (e.2.length < 64)

/-- Local bytes are written: an uncorrectable 64-bit word is gone once all its bytes have been written (R431). `ps` lists
the physical places written. -/
def State.wroteAt (s : State) (ps : List Nat) : State :=
  match s.bad with
  | [] => s
  | l =>
    let part := l.map fun w => (w, (List.range 8).filter fun o => (sget [] s.badPart w).contains o || ps.contains (w * 8 + o))
    let left := part.filter fun e => decide (e.2.length < 8)
    { s with bad := left.map (·.1), badPart := left.filter fun e => !e.2.isEmpty }

def State.wrote (s : State) (l n : Nat) : State := s.wroteAt ((rangeFrom l n).map s.physKey)

/-- Update the matching lines of an L1 with bytes stored through it (R187). -/
def l1Store (l : List L1Line) (d : DieId) (core pa : Nat) (bs : List Byte) : List L1Line :=
  l.map fun x =>
    if x.die == d && x.core == core then
      { x with data := x.data.zipIdx.map fun p =>
          let a := x.line * 128 + p.2
          if pa ≤ a && a < pa + bs.length then bs.getD (a - pa) p.1 else p.1 }
    else x

/-- An instance writes a byte of a window: each instance of the job that has been released keeps what stood there, and
the writing one notes that it has written (R465). -/
def noteByte (live : List Nat) (inst a : Nat) (old : Byte) (u : List (Nat × Nat × Byte × Bool)) : List (Nat × Nat × Byte × Bool) :=
  live.foldl (fun u k =>
    if u.any fun e => e.1 == k && e.2.1 == a then
      u.map fun e => if e.1 == k && e.2.1 == a && k == inst then (e.1, e.2.1, e.2.2.1, true) else e
    else u ++ [(k, a, old, k == inst)]) u

/-- The instances of a job that have been released and have not ended: one that was stopped has ended once the last of its
blocks is gone, for their started work still writes (R397, R465). -/
def Job.liveInsts (j : Job) : List Nat := (j.insts.filter fun i => (!i.stopped || i.ended.isSome) && i.doneAt.isNone).map (·.no)

/-- Record the bytes that a write to a staged backing is about to change, for R465. -/
def State.stage (s : State) (x : Xl) (pa n : Nat) : State :=
  match x.window with
  | none => s
  | some (j, i, inst) =>
    match s.job? j with
    | none => s
    | some job =>
      let ws := job.windows.zipIdx.map fun p =>
        if p.2 == i then { p.1 with undo := (rangeFrom pa n).foldl (fun u a => noteByte job.liveInsts inst a (s.byte a) u) p.1.undo }
        else p.1
      s.setJob { job with windows := ws }

/-- Lines of a core leave its L1. -/
def State.dropL1 (s : State) (d : DieId) (core : Nat → Bool) (pa n : Nat) : State :=
  { s with l1 := s.l1.filter fun k => !(k.die == d && core k.core && decide (pa / 128 ≤ k.line) && decide (k.line ≤ (pa + n - 1) / 128)) }

/-- The span cores of an agent's block. -/
def State.spanCore (s : State) (g : Agent) (core : Nat) : Bool :=
  match g.block.bind s.block? with
  | some b => decide (b.coreAt 0 ≤ core) && decide (core < b.coreAt (kdSpan b.kd))
  | none => false

/-- Fill a line of a core's L1 of 2048 lines (R15): with all in use, one of lowest eviction rank leaves (R57), which
one is free. -/
def State.l1Fill (s : State) (d : DieId) (core line rank : Nat) : State :=
  let mine := s.l1.filter fun k => k.die == d && k.core == core
  let low := mine.filter fun k => mine.all fun x => decide (k.rank ≤ x.rank)
  let new : L1Line := ⟨d, core, line, rank, s.bytes (line * 128) 128⟩
  if mine.length < 2048 then { s with l1 := s.l1 ++ [new] }
  else
    let out := low[Config.mscWay s.freeCtr % low.length]?
    { s with freeCtr := s.freeCtr + 1, l1 := (s.l1.filter fun k => some k != out) ++ [new] }

/-- The eviction rank of a line in L1 under a hint (R57). -/
def hintRank : Hint → Nat
  | .stream => 0
  | .keep => 2
  | _ => 1

/-- Let parked accesses go on: the waiters that a test does not keep leave, and a pending entry of poison
is freed once nothing is parked on it (R400, R429). -/
def State.unpark (s : State) (keep : Park → Bool) : State :=
  let gone := s.parks.filter fun p => !keep p
  let left := s.parks.filter keep
  { s with
    parks := left
    pendq := s.pendq.filter fun e => e.2.2.2 != 2 || left.any fun p => p.die == e.1 && p.tenant == e.2.1 && p.page == e.2.2.1 && p.reason == 2
    warps := s.warps.map fun p =>
      if gone.any (fun q => q.who == .fetch p.1) then (p.1, { p.2 with fetchPark := false }) else p }

/-- Bytes written at a physical address count as rewritten; where the poison of a sector clears, what is
parked on it replays (R429). -/
def State.rewritten (s : State) (pa n : Nat) : State :=
  match s.poison with
  | [] => s
  | p => let q := clearPoison p pa n
    if q.length == p.length then { s with poison := q }
    else ({ s with poison := q } : State).unpark fun k => k.reason != 2 || (alook k.sector q).isSome

/-! ## Rings' marks and counted instructions -/

/-- Where a descriptor lies, as the name of its marks. -/
def State.ringKey (s : State) (g : Agent) (va : Nat) : Nat :=
  if isLocal va then localKey g va
  else match (s.translate g va ⟨true, true, false⟩).2 with
    | some x => x.pa
    | none => va

/-- Let the finished entries leave each counter in issue order (R64). -/
def retireOps (bar : List Ctr) : List Op → List Op
  | [] => []
  | o :: os =>
    if o.left == 0 && !bar.contains o.cls then retireOps bar os
    else o :: retireOps (o.cls :: bar) os

/-- A part of a counted instruction is complete; with its last part it is finished (R64). -/
def Warp.finishPart (w : Warp) (id n : Nat) : Warp :=
  { w with ops := retireOps [] (w.ops.map fun (o : Op) => if o.id == id then { o with left := o.left - n } else o) }

def State.finishPart (s : State) (who : Issuer) (id n : Nat) : State :=
  match s.warp? who with
  | some w => s.setWarp who (w.finishPart id n)
  | none => { s with ctxRecs := s.ctxRecs.map fun (c : CtxRec) => { c with warps := c.warps.map fun p =>
      if p.1 == who then (p.1, p.2.finishPart id n) else p } }

/-- The node rings that a descriptor names are stamped when COMMIT passes positions (R358): an entry (q, p, t)
says that the positions below p, from the entry before on, were passed at time t. -/
def State.stampRings (s : State) (key commit : Nat) : State :=
  [false, true].foldl (fun s d => (List.range 32).foldl (fun s q =>
    let x := s.die d
    let ctl := (sget 0 x.pcsr (0x382 + 4 * q) : Word).toNat
    let va := (sget 0 x.pcsr (0x380 + 4 * q) : Word).toNat + (sget 0 x.pcsr (0x381 + 4 * q) : Word).toNat * 2 ^ 32
    if bitAt ctl 4 && s.ringKey (percAgent d (ctl % 16)) va == key &&
        !x.stamps.any (fun e => e.1 == q && decide (commit ≤ e.2.1)) then
      s.setDie d { x with stamps := x.stamps ++ [(q, commit, x.dtime)] }
    else s) s) s

/-- Store a ring's marks after its COMMIT has reached a position; the PUSHes whose records it has passed
are complete (R205). -/
def State.setMarks (s : State) (m : RingMarks) (commit : Nat) : State :=
  let reached := m.pushes.filter fun p => decide (p.2.2 ≤ commit)
  let left := m.pushes.filter fun p => !decide (p.2.2 ≤ commit)
  let s := reached.foldl (fun s p => s.finishPart p.1 p.2.1 1) (s.stampRings m.pa commit)
  { s with rings := (s.rings.filter fun r => r.pa != m.pa) ++
      (if m.commits.isEmpty && m.retires.isEmpty && m.waiters.isEmpty && left.isEmpty then []
        else [{ m with pushes := left }]) }

/-- Bytes of memory change: where they hold the COMMIT of a ring whose PUSHes wait for it, those that it has passed are
complete, whoever wrote it (R205). COMMIT stands at byte 24 of the descriptor. -/
def State.ringsSee (s : State) (pa n : Nat) : State :=
  (s.rings.filter fun m => !m.pushes.isEmpty && decide (pa < m.pa + 32) && decide (m.pa + 24 < pa + n)).foldl
    (fun s m => s.setMarks m (ofBytes (s.bytes (m.pa + 24) 8))) s

/-- Write bytes at a physical address and its mirror (R178, R429). The bytes must not cross a page. A write of die `by_` may
stay in that die's memory-side cache; an atomic (`none`), and each copy of a duplex page, is written at its home. -/
def State.writePa (s : State) (by_ : Option DieId) (x : Xl) (tenant : Nat) (ch : Hint) (bs : List Byte) : State :=
  let s : State := if x.dup && (s.writeCopies x).length == 1 then { s with apart := s.apart ++ (s.writeCopies x).map fun pa => (pa, bs.length) } else s
  (s.writeCopies x).foldl (fun s pa =>
    let at_ := ((if x.dup then none else by_).or (homeOf pa)).getD false
    let s := (s.stage x pa bs.length).mscTouch at_ pa tenant bs.length true (ch == .nomsc || x.pol == 2 || isHost pa) (ch == .stream)
    ((s.store pa bs).rewritten pa bs.length).ringsSee pa bs.length) s

/-- A request of an engine or of the Percolator to the host window (R267, R268): 0 read, 1 posted write. The model takes
the completion of such a read in the same step (entry 73). -/
def State.hostLog (s : State) (g : Agent) (kind pa n data : Nat) (ro : Bool) : State :=
  if isHost pa then { s with hostOut := s.hostOut ++ [⟨g.die, kind, pa, n, data, ro, 2 ^ 64, 0, 0⟩] } else s

/-- The posted writes that left since the `n`-th request are part of a release at SYSTEM scope: their Relaxed
Ordering is clear (R267). -/
def State.releaseHost (s : State) (n : Nat) : State :=
  { s with hostOut := s.hostOut.take n ++ (s.hostOut.drop n).map fun (h : HostReq) => if h.kind == 1 then { h with ro := false } else h }

/-- The copy that serves an agent's read: its own die's, or for a read at the location's home the primary, which is the
surviving copy where that is absent (R178, R199, R437). -/
def State.copyFor (s : State) (g : Agent) (home : Bool) (x : Xl) : Nat := if home then (s.writeCopies x).headD x.pa else s.readCopy g.die x

/-- Read bytes of one page that an agent addresses. What an agent acting for a block reads as data leaves the L1 of the
block's cores, so that no lane of the block later reads an older write (R251). -/
def State.readPaged (s : State) (g : Agent) (home : Bool) (va n : Nat) (p : Perm) : State × Got (List Byte × Xl) :=
  match s.translate g va p with
  | (s, none) => (s, .park (va / 65536) 1 0)
  | (s, some x) =>
    match s.homeGone x with
    | some d => (s, .offline va d)
    | none =>
      let pa := s.copyFor g home x
      match s.poisoned pa n with
      | some c => (s, .park (va / 65536) 2 c)
      | none =>
        let s := (s.hostLog g 0 pa n 0 (x.kind != 1)).mscTouch g.die pa g.tenant n false (x.pol == 2 || isHost pa) false
        (if p.r then s.dropL1 g.die (s.spanCore g) (s.readCopy g.die x) n else s, .ok (s.bytes pa n, x))

/-- An engine of a die starts work or delivers something (R453). -/
def State.worked (s : State) (d : DieId) (engine : Nat) : State :=
  let x := s.die d
  s.setDie d { x with worked := aput engine x.dtime x.worked }

/-- Was the tag that a die's next remote write takes used in the last 2 ms (R433)? -/
def Die.tagBusy (x : Die) : Bool := x.tagged.any fun e => e.1 == x.tag + 1 && decide (x.dtime < e.2 + 2000000)

/-- Does a home hold 65 536 kept results (R434)? -/
def State.keptFull (s : State) (home : DieId) : Bool := decide (65536 ≤ (s.kept.filter (·.home == home)).length)

/-- Must a remote write of a die wait: its tag is in use, or its home is full of kept results (R433, R434)? -/
def State.tagHeld (s : State) (d home : DieId) : Bool :=
  (s.die d).tagBusy || (s.remotes.any fun r => r.die == d && r.tag == (s.die d).tag + 1) || s.keptFull home

/-- The next tag of a die (R433). A result that is kept under it is that of a write of more than 2 ms ago. -/
def State.nextTag (s : State) (d : DieId) : State × BitVec 24 :=
  let x := s.die d
  let t := x.tag + 1
  let s : State := { s with kept := s.kept.filter fun k => !(k.die == d && k.tag == t) }
  (s.setDie d { x with tag := t, tagged := (x.tagged.filter fun e => decide (x.dtime < e.2 + 2000000)) ++ [(t, x.dtime)] }, t)

/-- The home of the remote write that an engine's or the Percolator's write of a duplex page makes (R433). The copy engine's
pieces have tags of their own. -/
def State.mirrorOf (s : State) (g : Agent) (x : Xl) : Option DieId :=
  if g.unit / 100 == 2 || !x.dup || !(s.writeCopies x).any (fun pa => homeOf pa == some (!g.die)) then none else some (!g.die)

/-- The mirror write of a duplex page carries a tag, and its home keeps the result; its response comes in the same step
(entry 23). -/
def State.tagMirror (s : State) (g : Agent) (x : Xl) : State :=
  match s.mirrorOf g x with
  | none => s
  | some h =>
    let r := s.nextTag g.die
    { r.1 with kept := r.1.kept ++ [⟨h, g.die, r.2, 0, r.1.now h⟩] }

/-- Write bytes of one page that an agent addresses. What an agent acting for a block writes leaves the L1 of the block's
cores, so that no lane of the block reads what stood there before (R251, R254, R270). -/
def State.writePaged (s : State) (g : Agent) (va : Nat) (bs : List Byte) (p : Perm) : State × Got Unit :=
  match s.translate g va p with
  | (s, none) => (s, .park (va / 65536) 1 0)
  | (s, some x) =>
    match s.homeGone x with
    | some d => (s, .offline va d)
    | none =>
      let s := ((s.tagMirror g x).hostLog g 1 x.pa bs.length (ofBytes bs) (x.kind != 1)).writePa (some g.die) x g.tenant .default bs
      ((s.writeCopies x).foldl (fun s pa => s.dropL1 g.die (s.spanCore g) pa bs.length) s, .ok ())

/-- Does a local read touch an uncorrectable word (R431)? -/
def State.badIn (s : State) (l n : Nat) : Bool :=
  s.bad.any fun w => (rangeFrom l n).any fun a => s.physKey a / 8 == w

/-- Read bytes at an address that stays within one page or one aperture. The aperture and bounds
checks are an access failure for an engine. -/
def State.read1 (s : State) (g : Agent) (home : Bool) (va n : Nat) : State × Got (List Byte) :=
  if !s.apertureOk g va || !s.boundsOk g va || !s.boundsOk g (va + n - 1) then (s, .fail va)
  else if isLocal va then
    let l := localKey g va
    if s.badIn l n then (s, .bad l) else (s, .ok (s.bytes l n))
  else
    match s.readPaged g home va n ⟨true, false, false⟩ with
    | (s, .ok r) => (s, .ok r.1)
    | (s, .park p r c) => (s, .park p r c)
    | (s, .offline v d) => (s, .offline v d)
    | (s, .bad l) => (s, .bad l)
    | (s, .fail v) => (s, .fail v)

/-- Write bytes at an address that stays within one page or one aperture. -/
def State.write1 (s : State) (g : Agent) (va : Nat) (bs : List Byte) : State × Got Unit :=
  if !s.apertureOk g va || !s.boundsOk g va || !s.boundsOk g (va + bs.length - 1) then (s, .fail va)
  else if isLocal va then
    let l := localKey g va
    (((s.store l bs).wrote l bs.length).ringsSee l bs.length, .ok ())
  else s.writePaged g va bs ⟨false, true, false⟩

/-- Cut a range of `n` bytes from `va` at 64 KiB boundaries: the number of bytes of the first piece. -/
def firstPiece (va n : Nat) : Nat := min n (65536 - va % 65536)

/-- Read a range piece by piece; the first piece that is not performed decides the outcome. -/
def State.readVa (s : State) (g : Agent) (home : Bool) (va n : Nat) : Nat → State × Got (List Byte)
  | 0 => (s, .ok [])
  | fuel + 1 =>
    if n == 0 then (s, .ok [])
    else
      match s.read1 g home va (firstPiece va n) with
      | (s, .ok a) =>
        match s.readVa g home (va + firstPiece va n) (n - firstPiece va n) fuel with
        | (s, .ok b) => (s, .ok (a ++ b))
        | r => r
      | r => r

/-- Write a range piece by piece; pieces before the one that is not performed are written. -/
def State.writeVa (s : State) (g : Agent) (va : Nat) (bs : List Byte) : Nat → State × Got Unit
  | 0 => (s, .ok ())
  | fuel + 1 =>
    if bs.isEmpty then (s, .ok ())
    else
      match s.write1 g va (bs.take (firstPiece va bs.length)) with
      | (s, .ok ()) => s.writeVa g (va + firstPiece va bs.length) (bs.drop (firstPiece va bs.length)) fuel
      | r => r

/-- Pieces of a range, for the fuel of `readVa` and `writeVa`. -/
def pieces (n : Nat) : Nat := n / 65536 + 2

/-- Read a range for an agent, from its own die's copies. -/
def State.load (s : State) (g : Agent) (va n : Nat) : State × Got (List Byte) := s.readVa g false va n (pieces n)

/-- Read a range at its home. -/
def State.loadHome (s : State) (g : Agent) (va n : Nat) : State × Got (List Byte) := s.readVa g true va n (pieces n)

def State.save (s : State) (g : Agent) (va : Nat) (bs : List Byte) : State × Got Unit :=
  s.writeVa g va bs (pieces bs.length)

/-- A little-endian number of `n` bytes. -/
def State.loadNat (s : State) (g : Agent) (va n : Nat) : State × Got Nat :=
  match s.load g va n with
  | (s, .ok b) => (s, .ok (ofBytes b))
  | (s, .park p r c) => (s, .park p r c)
  | (s, .offline v d) => (s, .offline v d)
  | (s, .bad l) => (s, .bad l)
  | (s, .fail v) => (s, .fail v)

/-- Carry a failed access over to another result type. -/
def Got.cast {α β : Type} : Got α → Got β
  | .ok _ => .fail 0
  | .park p r c => .park p r c
  | .offline v d => .offline v d
  | .bad l => .bad l
  | .fail v => .fail v

end Sys2Proof.Machine
end

