-- ==== Sys2Proof/Machine/Operands.lean ====
section
/-! DEFINITION. Register operands: reading registers, groups, operand B, predicates and guards (R51 to
R54, R59), and writing a destination in the lanes of a mask (R9, R52, R112). -/

namespace Sys2Proof.Machine

/-- Write a list of entries, in order. -/
def putAll {α : Type} [DecidableEq α] (d : α) (m : List (Nat × α)) : List (Nat × α) → List (Nat × α)
  | [] => m
  | u :: us => putAll d (sset d m u.1 u.2) us

/-- One register as a lane sees it (R51, R52). -/
def Warp.word (w : Warp) (r L : Nat) : Word := if r < 384 then sget 0 w.vregs (32 * r + L) else sget 0 w.gregs (r - 384)

/-- A group of `n` registers as one number, the first register lowest (R53). -/
def Warp.group (w : Warp) : Nat → Nat → Nat → Nat
  | 0, _, _ => 0
  | n + 1, r, L => (w.word r L).toNat + 2 ^ 32 * w.group n (r + 1) L

/-- The number that IMM32 supplies for a type (R59); an FP32 pattern widens exactly to FP64. -/
def immFor (ty : LTy) (v : Word) : Nat :=
  match ty with
  | .s64 => (v.toInt % 2 ^ 64).toNat
  | .f64 => FFmt.f64.encode .nearestEven false (FFmt.f32.decode v.toNat)
  | .f16 | .bf16 => v.toNat % 65536
  | _ => v.toNat

/-- Operand B as a type (R59). -/
def Warp.srcB (w : Warp) (ty : LTy) (b : SrcB) (L : Nat) : Nat :=
  match b with
  | .reg r => w.group ty.regs r.toNat L
  | .imm v => immFor ty v

/-- Operand B as one 32-bit value (R113). -/
def Warp.srcB32 (w : Warp) (b : SrcB) (L : Nat) : Nat :=
  match b with
  | .reg r => (w.word r.toNat L).toNat
  | .imm v => v.toNat

/-- A source register or group of a type. -/
def Warp.src (w : Warp) (ty : LTy) (r : Reg) (L : Nat) : Nat := w.group ty.regs r.toNat L

/-- Word `i` of a number. -/
def wordAt (v i : Nat) : Word := BitVec.ofNat 32 (v / 2 ^ (32 * i))

/-- The entries that write an `n`-register group at lane register `r` in each lane of `act`. -/
def laneUpdates (n r : Nat) (act : Mask) (f : Nat → Nat) : List (Nat × Word) :=
  (lanesOf act).flatMap fun L => (List.range n).map fun i => (32 * (r + i) + L, wordAt (f L) i)

/-- Write a destination: a lane group in every lane of `act`, a uniform group once when `act` is not
empty (R9, R52). -/
def Warp.putD (w : Warp) (n : Nat) (d : Reg) (act : Mask) (f : Nat → Nat) : Warp :=
  if d.toNat < 384 then { w with vregs := putAll 0 w.vregs (laneUpdates n d.toNat act f) }
  else
    match lowLane act with
    | some L => { w with gregs := putAll 0 w.gregs ((List.range n).map fun i => (d.toNat - 384 + i, wordAt (f L) i)) }
    | none => w

/-- A predicate as a lane mask; p7 reads as true (R7, R112). -/
def Warp.pred (w : Warp) (p : Nat) : Mask := if p = 7 then BitVec.allOnes 32 else sget 0 w.preds p

/-- Bits of `new` in the lanes of `act`, bits of `old` elsewhere. -/
def mergeMask (act old new : Mask) : Mask := (old &&& ~~~act) ||| (new &&& act)

/-- Write a predicate in the lanes of `act`; a destination of 7 discards (R112). -/
def Warp.putPred (w : Warp) (p : Nat) (act new : Mask) : Warp :=
  if p = 7 then w else { w with preds := sset 0 w.preds p (mergeMask act (w.pred p) new) }

/-- A guard as a lane mask (R54). -/
def Warp.guard (w : Warp) (g : Guard) : Mask :=
  if g.neg then ~~~(w.pred g.idx.toNat) else w.pred g.idx.toNat

/-- lane_guard as a mask (R7). -/
def Warp.laneGuard (w : Warp) (h : Hdr) : Mask := w.guard h.g1 &&& w.guard h.g2

/-- Launched lanes that have not exited (R9). -/
def Warp.live (w : Warp) : Mask := w.launched &&& ~~~w.exited

/-- The registers of an operand, for the budget and the interlocks. -/
def span (n : Nat) (r : Reg) : List Nat := rangeFrom r.toNat n

def spanB (n : Nat) : SrcB → List Nat
  | .reg r => span n r
  | .imm _ => []

end Sys2Proof.Machine
end

