-- ==== Sys2Proof/Machine/Flags.lean ====
section
/-! DEFINITION. The condition codes: what each form sets (R56, R117, R121, R122, R133) and the tests
that read them (R127). -/

namespace Sys2Proof.Machine

/-- The four condition codes of one lane (R25). -/
structure CC where
  c : Bool
  z : Bool
  n : Bool
  v : Bool
  deriving DecidableEq, Repr

/-- The condition codes of a lane. -/
def Warp.cc (w : Warp) (L : Nat) : CC :=
  ⟨w.ccC.getLsbD L, w.ccZ.getLsbD L, w.ccN.getLsbD L, w.ccV.getLsbD L⟩

/-- Write the condition codes of the lanes of `act` when CC = 1 (R56). -/
def Warp.putCC (w : Warp) (on : Bool) (act : Mask) (f : Nat → CC) : Warp :=
  if on then
    { w with
      ccC := mergeMask act w.ccC (maskOf fun L => (f L).c)
      ccZ := mergeMask act w.ccZ (maskOf fun L => (f L).z)
      ccN := mergeMask act w.ccN (maskOf fun L => (f L).n)
      ccV := mergeMask act w.ccV (maskOf fun L => (f L).v) }
  else w

/-- Z and N of an n-bit result, with C and V as given (R56, R117, R121). -/
def ccOf (n d : Nat) (c v : Bool) : CC := ⟨c, d == 0, bitAt d (n - 1), v⟩

/-- A sum that leaves the signed n-bit range (R117). -/
def overflows (n : Nat) (x : Int) : Bool := decide (x < -(2 ^ (n - 1) : Int)) || decide ((2 ^ (n - 1) : Int) - 1 < x)

/-- C of a left shift by m: bit n − m of A when 1 ≤ m ≤ n, else 0 (R122). -/
def carryShl (n a m : Nat) : Bool := decide (1 ≤ m) && decide (m ≤ n) && bitAt a (n - m)

/-- C of a logical right shift by m: bit m − 1 of A when 1 ≤ m ≤ n, else 0 (R122). -/
def carryShr (n a m : Nat) : Bool := decide (1 ≤ m) && decide (m ≤ n) && bitAt a (m - 1)

/-- C of an arithmetic right shift by m: bit min(m, n) − 1 of A, 0 when m = 0 (R122). -/
def carrySar (n a m : Nat) : Bool := decide (1 ≤ m) && bitAt a (min m n - 1)

/-- The floating condition codes of a result of a scalar type (R133). -/
def ccFloat (f : FFmt) (code : Nat) : CC :=
  match f.decode code with
  | .nan => ⟨true, false, false, false⟩
  | .inf s => ⟨false, false, s, true⟩
  | .fin s m _ => ⟨false, m == 0, s, false⟩

/-- The condition tests of R127. -/
def ccTest (t : Nat) (x : CC) : Bool :=
  match t with
  | 0 => x.z
  | 1 => !x.z
  | 2 => x.c
  | 3 => !x.c
  | 4 => x.n
  | 5 => !x.n
  | 6 => x.v
  | 7 => !x.v
  | 8 => !x.c && !x.z
  | 9 => x.c || x.z
  | 10 => x.n == x.v
  | 11 => x.n != x.v
  | 12 => !x.z && x.n == x.v
  | 13 => x.z || x.n != x.v
  | 14 => true
  | _ => false

end Sys2Proof.Machine
end

