-- ==== Sys2Proof/Machine/Regulate.lean ====
section
/-! DEFINITION. The bandwidth regulators (R363, R364): the budget of a tenant at a controller and the requests
that wait there. -/

namespace Sys2Proof.Machine

/-- A field of a job card (R80). -/
def cardField (c : BitVec 2048) (hi lo : Nat) : Nat := (c.extractLsb' lo (hi + 1 - lo)).toNat

/-- The bandwidth of a job, BW (R80). -/
def Job.bw (j : Job) : Nat := cardField j.card 447 416

/-- The memory controller of a line. -/
def ctrlOf (line : Nat) : Nat := Config.controllerOf line % 4

/-- On how many dies does a job have a block? -/
def State.diesOf (s : State) (job : Nat) : Nat :=
  (if s.blocks.any fun b => b.job == job && !b.die then 1 else 0) + (if s.blocks.any fun b => b.job == job && b.die then 1 else 0)

/-- Does a job have a block resident on a die? -/
def State.runsOn (s : State) (job : Nat) (d : DieId) : Bool := s.blocks.any fun b => b.job == job && b.die == d

/-- The bytes of a tenant at each controller of a die in one window; `none` is unregulated: tenant 0, or a
job with BW 0 among those with a block resident there. Without such a job S is 0. -/
def State.regBudget (s : State) (d : DieId) (tenant : Nat) : Option Nat :=
  let js := s.jobs.filter fun j => j.tenant == tenant && s.runsOn j.id d
  if tenant == 0 || js.any (fun j => j.bw == 0) then none
  else some (ceilDiv ((js.map fun j => j.bw * 2 / s.diesOf j.id).foldl (· + ·) 0) 8)

/-- What a controller has counted for a tenant in the window of the present time. -/
def State.regCount (s : State) (d : DieId) (tenant ctrl : Nat) : Nat :=
  let x := s.die d
  if x.windowAt == x.dtime / 10000 then
    ((x.regul.filter fun e => e.1 == tenant && ctrlOf e.2.1 == ctrl).map (·.2.2)).foldl (· + ·) 0
  else 0

/-- Did a request of a tenant wait at a controller in an earlier window? -/
def State.waitedAt (s : State) (d : DieId) (tenant ctrl : Nat) : Bool :=
  (s.die d).waitsWin.any fun w => decide (w.1 < (s.die d).dtime / 10000) && w.2.1 == tenant && w.2.2 == ctrl

/-- Must a request for a line of memory wait (R364)? Only a line that no memory-side cache holds reaches the
controller. A wait ends as the next window starts, with a budget of 0 too: what has waited is then served (entry 44). -/
def State.mustWait (s : State) (tenant pa : Nat) : Bool :=
  match homeOf pa with
  | none => false
  | some h =>
    if s.msc.any fun m => m.line == pa / 128 then false
    else match s.regBudget h tenant with
      | none => false
      | some b =>
        let c := ctrlOf (pa / 128)
        decide (b ≤ s.regCount h tenant c) && !(s.regCount h tenant c == 0 && s.waitedAt h tenant c)

/-- A request of a tenant waits at the controller of a line in the present window (R425). -/
def State.noteWait (s : State) (tenant pa : Nat) : State :=
  match homeOf pa with
  | none => s
  | some h =>
    let x := s.die h
    let k := x.dtime / 10000
    let e := (k, tenant, ctrlOf (pa / 128))
    let old := x.waitsWin.filter fun w => decide (k ≤ w.1 + 1)
    s.setDie h { x with waitsWin := if old.contains e then old else old ++ [e] }

/-- Let requests through, or note those that wait. -/
def State.gatePa (s : State) (tenant : Nat) (pas : List Nat) : State × Bool :=
  let ws := pas.filter (s.mustWait tenant)
  (ws.foldl (fun s pa => s.noteWait tenant pa) s, !ws.isEmpty)

/-- The table entries that the translation of an address reads: none where it is cached or goes through a window. -/
def State.walkPas (s : State) (g : Agent) (va : Nat) : List Nat :=
  if isLocal va || (s.windowAt g.tenant g.job va).isSome || (s.cached g va).isSome then [] else s.walkReads g.die g.tenant va

/-- What an access to an address asks of the controllers: the table reads of its translation, then its own lines. -/
def State.asks (s : State) (g : Agent) (va : Nat) (write : Bool) (p : Perm) : List Nat :=
  s.walkPas g va ++ match (s.translate g va p).2 with
    | none => []
    | some x => if write then s.writeCopies x else [s.readCopy g.die x]

/-- The addresses at which a range of bytes enters a line. -/
def lineStarts (va n : Nat) : List Nat := (linesOf va n).map fun k => max va (k.1 * 128)

/-- Must an engine's or the Percolator's write of a duplex page wait for a tag or for a place at its home (R433, R434)? -/
def State.mirrorHeld (s : State) (g : Agent) (va : Nat) : Bool :=
  match (s.translate g va ⟨false, true, false⟩).2 with
  | none => false
  | some x => (s.mirrorOf g x).any (s.tagHeld g.die)

/-- The gate for an engine's or the Percolator's access to an address. -/
def State.gate (s : State) (g : Agent) (va : Nat) (write : Bool) : State × Bool :=
  if isLocal va then (s, false)
  else if write && s.mirrorHeld g va then (s, true)
  else s.gatePa g.tenant (s.asks g va write ⟨!write, write, false⟩)

/-- The gate for every line of a range. -/
def State.gateAll (s : State) (g : Agent) (va n : Nat) (write : Bool) : State × Bool :=
  if isLocal va then (s, false)
  else if write && (lineStarts va n).any (s.mirrorHeld g) then (s, true)
  else s.gatePa g.tenant ((lineStarts va n).flatMap fun a => s.asks g a write ⟨!write, write, false⟩)

end Sys2Proof.Machine
end

