-- ==== Sys2Proof/Machine/Rings.lean ====
section
/-! DEFINITION. Rings (R81, R199 to R202): reading a descriptor, its checks, its counters and marks,
and the records that the hardware appends to a ring. -/

namespace Sys2Proof.Machine

/-- A ring descriptor (R81). -/
structure Ring where
  base : Nat
  log2cap : Nat
  scope : Nat
  claim : Nat
  commit : Nat
  head : Nat
  retire : Nat
  nodekd : Nat
  reserved : Bool
  deriving DecidableEq, Repr

def Ring.ofBytes (bs : List Byte) : Ring :=
  let x := Machine.ofBytes bs
  { base := bits x 63 0, log2cap := bits x 71 64, scope := bits x 73 72, claim := bits x 191 128,
    commit := bits x 255 192, head := bits x 319 256, retire := bits x 383 320, nodekd := bits x 511 448,
    reserved := bits x 127 74 != 0 || bits x 447 384 != 0 }

def Ring.cap (r : Ring) : Nat := 2 ^ r.log2cap

/-- Neither a reserved bit nor a capacity above 2^20 (R201). -/
def Ring.shapeOk (r : Ring) : Bool := !r.reserved && decide (r.log2cap ≤ 20)

/-- The whole of R81: also BASE aligned to the ring's size of 64 bytes a granule. -/
def Ring.wellShaped (r : Ring) : Bool := r.shapeOk && r.base % (64 * r.cap) == 0

/-- The order of the counters (R199). -/
def Ring.orderOk (r : Ring) : Bool :=
  decide (r.retire ≤ r.head) && decide (r.head ≤ r.commit) && decide (r.commit ≤ r.claim) &&
    decide (r.claim ≤ r.retire + r.cap)

/-- The address of a position's granule (R199). -/
def Ring.slot (r : Ring) (p : Nat) : Nat := r.base + 64 * (p % r.cap)

/-- The four counters as they stand in memory: bytes 16 to 47 of the descriptor. -/
def Ring.counters (r : Ring) : List Byte :=
  toBytes 8 r.claim ++ toBytes 8 r.commit ++ toBytes 8 r.head ++ toBytes 8 r.retire

/-- A counter that passes every marked position above it (R200). -/
def advance (marks : List Nat) : Nat → Nat → Nat
  | 0, c => c
  | fuel + 1, c => if marks.contains c then advance marks fuel (c + 1) else c

def State.marks (s : State) (key : Nat) : RingMarks :=
  (s.rings.find? (·.pa == key)).getD ⟨key, [], [], [], []⟩

/-- Read a ring's descriptor, at its home (R199). -/
def State.ringAt (s : State) (g : Agent) (va : Nat) : State × Got Ring :=
  match s.loadHome g va 64 with
  | (s, .ok b) => (s, .ok (Ring.ofBytes b))
  | (s, r) => (s, r.cast)

/-- Is a release at the ring's scope one at SYSTEM scope (R81, R267)? -/
def Ring.system (r : Ring) : Bool := r.scope == 3

/-- Write a ring's counters back; `clear` tells that a write to the host goes out with Relaxed Ordering clear: as part of a
release at SYSTEM scope, or after a fence of one (R267). -/
def State.putRing (s : State) (g : Agent) (va : Nat) (r : Ring) (clear : Bool) : State × Got Unit :=
  let q := s.save g (va + 16) r.counters
  if clear then (q.1.releaseHost s.hostOut.length, q.2) else q

/-- Mark positions committed and let COMMIT pass the marked prefix (R200). -/
def commitMarks (r : Ring) (m : RingMarks) (ps : List Nat) : Ring × RingMarks :=
  let marks := m.commits ++ ps
  let c := advance marks (marks.length + 1) r.commit
  ({ r with commit := c }, { m with commits := marks.filter (decide <| c ≤ ·) })

/-- Mark positions retired and let RETIRE pass the marked prefix (R200). -/
def retireMarks (r : Ring) (m : RingMarks) (ps : List Nat) : Ring × RingMarks :=
  let marks := m.retires ++ ps
  let c := advance marks (marks.length + 1) r.retire
  ({ r with retire := c }, { m with retires := marks.filter (decide <| c ≤ ·) })

/-- What appending one granule by the hardware met. -/
inductive Posted where
  | done
  | full
  | broken (code : Nat)
  | park (page reason sector : Nat)
  | failed (va : Nat)
  deriving DecidableEq, Repr

/-- Append one 64-byte granule as one claim, write and commit (R398, R319). Nothing changes unless it
is done. A descriptor whose BASE is not aligned to the ring's size counts as one that breaks R81, which R466 gives no code of
its own: code 1 (the model's choice, entry 103). -/
def State.appendGranule (s : State) (g : Agent) (va : Nat) (granule : List Byte) : State × Posted :=
  match s.ringAt g va with
  | (s, .park p r c) => (s, .park p r c)
  | (s, .ok r) =>
    if !r.wellShaped then (s, .broken 1)
    else if !r.orderOk then (s, .broken 5)
    else if r.claim - r.retire ≥ r.cap then (s, .full)
    else
      match s.save g (r.slot r.claim) granule with
      | (s, .ok ()) =>
        let key := s.ringKey g va
        let q := commitMarks { r with claim := r.claim + 1 } (s.marks key) [r.claim]
        match s.putRing g va q.1 r.system with
        | (s, .ok ()) => (s.setMarks q.2 q.1.commit, .done)
        | (s, .park p r c) => (s, .park p r c)
        | (s, _) => (s, .failed va)
      | (s, .park p r c) => (s, .park p r c)
      | (s, _) => (s, .failed (r.slot r.claim))
  | (s, _) => (s, .failed va)

end Sys2Proof.Machine
end

