-- ==== Sys2Proof/Machine/Records.lean ====
section
/-! DEFINITION. Error records and completion records (R398, R399, R345, R443, R432), parking (R400),
stopping the blocks of an instance and faulting a job (R397, R435, R438, R444, R201, R465, R447). -/

namespace Sys2Proof.Machine

/-- Raise a vector of a tenant (R334). -/
def State.raise (s : State) (tenant vec : Nat) : State := { s with msix := s.msix ++ [(tenant, vec)] }

/-- Word 0 of an error record (R398). -/
def word0 (kind tenant : Nat) (d : DieId) (jobNo part : Nat) : Nat :=
  kind * 2 ^ 56 + tenant * 2 ^ 52 + (if d then 2 ^ 51 else 0) + jobNo % 65536 * 2 ^ 32 + part % 2 ^ 32

/-- The error ring's descriptor VA of a tenant (R335): the descriptor is taken where TERR names it, aligned to 64 bytes
(R81) or not (entry 84). -/
def State.terr (s : State) (d : DieId) (t : Nat) : Nat :=
  (sget 0 (s.die d).pcsr (0x104 + 16 * t) : Word).toNat + (sget 0 (s.die d).pcsr (0x105 + 16 * t) : Word).toNat * 2 ^ 32

/-- How many accesses are parked on a pending entry (R398, R400). -/
def State.parkedOn (s : State) (d : DieId) (tenant page reason : Nat) : Nat :=
  (s.parks.filter fun p => p.die == d && p.tenant == tenant && p.page == page && p.reason == reason).length

/-- Add 1 to TDROP, saturating (R335, R399). -/
def State.tdrop (s : State) (d : DieId) (t : Nat) : State :=
  let x := s.die d
  let v := (sget 0 x.tdrop t).toNat
  s.setDie d { x with tdrop := sset 0 x.tdrop t (BitVec.ofNat 32 (min (v + 1) 0xFFFFFFFF)) }

/-- The OVF mark of a tenant. -/
def Die.ovfOf (x : Die) (t : Nat) : Bool := sget false x.ovf t

/-- The bytes of a held record as it is written: the count of a kind 1 record is taken now, and OVF
tells of records lost before it (R398). -/
def State.heldBytes (s : State) (d : DieId) (h : Held) : List Byte :=
  let w0 := (h.words.headD 0).toNat
  let n := min 0xFFFF (s.parkedOn d h.tenant h.page h.reason)
  let part := if h.reason == 0 then w0 else w0 - w0 % 65536 + n
  let w0 := if (s.die d).ovfOf h.tenant then part + 2 ^ 50 else part
  toBytes 8 w0 ++ (h.words.drop 1).flatMap fun w => toBytes 8 w.toNat

/-- The error ring of a tenant is read through a page that awaits repair: the Percolator's access parks, and
its kind 1 record joins the held ones (R399, R400). -/
def State.parkErr (s : State) (d : DieId) (t page reason sector : Nat) : State :=
  let s : State := { s with parks := s.parks ++ [⟨.percolator (200 + t), d, t, page, reason, sector⟩] }
  if s.pendq.contains (d, t, page, reason) then s
  else
    let s : State := { s with pendq := s.pendq ++ [(d, t, page, reason)] }
    let x := s.die d
    let ws := [word0 1 t d 0xFFFF (reason * 2 ^ 24 + 7 * 2 ^ 16), page * 65536, s.now d, 0, 0, 0, 0, 0]
    s.setDie d { x with held := x.held ++ [⟨t, ws.map (BitVec.ofNat 64), page, reason⟩] }

/-- Is an item of the Percolator parked? -/
def State.percParked (s : State) (d : DieId) (n : Nat) : Bool := s.parks.any fun p => p.die == d && p.who == .percolator n

/-- Write the oldest held record of a tenant, if its ring takes it. The flag tells whether the record
left the queue. -/
def State.flushOne (s : State) (d : DieId) (t : Nat) : State × Bool :=
  match (s.die d).held.find? (·.tenant == t) with
  | none => (s, false)
  | some h =>
    let drop := fun (s : State) => s.setDie d { s.die d with held := (s.die d).held.erase h }
    let g := percAgent d t
    let va := s.terr d t
    let noRing := fun (s : State) => ((drop s).tdrop d t).raise t 1
    let failed := fun (s : State) => (drop s).tdrop d t
    let stuck := fun (s : State) (p r c : Nat) =>
      if r == 1 && s.refused g (p * 65536) ⟨p == va / 65536, true, false⟩ then (failed s, true) else (s.parkErr d t p r c, false)
    let gated := s.gate g va false
    if va == 0 then (noRing s, true)
    else if s.percParked d (200 + t) then (s, false)
    else if gated.2 then (gated.1, false)
    else
      match s.ringAt g va with
      | (s, .park p r c) => stuck s p r c
      | (s, .ok r) =>
        let gated := s.gate g (r.slot r.claim) true
        if !r.wellShaped || r.scope < 2 then (noRing s, true)
        else if gated.2 then (gated.1, false)
        else
          match s.appendGranule g va (s.heldBytes d h) with
          | (s, .done) =>
            let s := drop s
            ((s.setDie d { s.die d with ovf := sset false (s.die d).ovf t false }).raise t 1, true)
          | (s, .park p r c) => stuck s p r c
          | (s, .failed _) => (failed s, true)
          | (s, .broken _) => (noRing s, true)
          | (s, .full) => (s, false)
      | (s, _) => (failed s, true)

/-- Write held records of a tenant while its ring takes them (R398). -/
def State.flush (s : State) (d : DieId) (t : Nat) : Nat → State
  | 0 => s
  | fuel + 1 =>
    match s.flushOne d t with
    | (s, true) => s.flush d t fuel
    | (s, false) => s

/-- Post an error record: it waits behind the tenant's earlier records. While the ring lacks room up to 64 of them are held
and a record beyond those is lost (R398); the limit does not hold while a page of the ring awaits its repair (R399). `page` and `reason` name the pending
entry of a kind 1 record; reason 0 is no entry. -/
def State.post (s : State) (d : DieId) (t : Nat) (words : List Nat) (page reason : Nat) : State :=
  let x := s.die d
  if 64 ≤ (x.held.filter (·.tenant == t)).length && !s.percParked d (200 + t) then
    s.setDie d { x with ovf := sset false x.ovf t true }
  else
    let h : Held := ⟨t, (words ++ List.replicate 8 0).take 8 |>.map (BitVec.ofNat 64), page, reason⟩
    (s.setDie d { x with held := x.held ++ [h] }).flush d t 65

/-- The job number that a record names; 0xFFFF without a job. -/
def State.jobNoOf (s : State) (j : Option Nat) : Nat :=
  match j.bind s.job? with
  | some x => x.no
  | none => 0xFFFF

/-- Park an access (R183, R400): the first on its tenant, page and reason posts a kind 1 record, with the number of
the job that it serves. -/
def State.parkFor (s : State) (no : Nat) (who : Waiter) (g : Agent) (agent page reason sector : Nat) : State :=
  let s := { s with parks := s.parks ++ [⟨who, g.die, g.tenant, page, reason, sector⟩] }
  if s.pendq.contains (g.die, g.tenant, page, reason) then s
  else
    { s with pendq := s.pendq ++ [(g.die, g.tenant, page, reason)] }.post g.die g.tenant
      [word0 1 g.tenant g.die no (reason * 2 ^ 24 + agent * 2 ^ 16), page * 65536, s.now g.die]
      page reason

def State.park (s : State) (who : Waiter) (g : Agent) (agent page reason sector : Nat) : State :=
  s.parkFor (s.jobNoOf g.job) who g agent page reason sector

/-- The Percolator holds an item; with no park on it, its first request waits at a memory controller (R364). -/
def State.queueItem (s : State) (d : DieId) (item : PercItem) : State :=
  let x := s.bump.die d
  s.bump.setDie d { x with percQ := x.percQ ++ [(1000 + s.nextId, item)] }

/-- The Percolator holds an item, which serves the job of a number, until a page is repaired (R399). -/
def State.holdFor (s : State) (no : Nat) (d : DieId) (g : Agent) (item : PercItem) (page reason sector : Nat) : State :=
  (s.queueItem d item).parkFor no (.percolator (1000 + s.nextId)) g 7 page reason sector

def State.holdItem (s : State) (d : DieId) (g : Agent) (item : PercItem) (page reason sector : Nat) : State :=
  s.holdFor (s.jobNoOf g.job) d g item page reason sector

/-! ## Completion records (R345) -/

/-- Is a PUB bit of a job still to be written back? It goes before the completion record (R223). -/
def State.pubHeld (s : State) (d : DieId) (tenant : Nat) (no : BitVec 16) : Bool :=
  (s.die d).percQ.any fun p => match p.2 with
    | .pub t n _ _ => t == tenant && BitVec.ofNat 16 n == no
    | _ => false

/-- Write a completion record, as a release at SYSTEM scope (R269), after the PUB bits of its job; one that meets a translation fault or poison waits,
one that fails is dropped with a kind 6 record, and vector 0 follows (R399). -/
def State.writeDone (s : State) (d : DieId) (r : DoneRec) : State :=
  let g := percAgent d r.tenant
  let x := r.jobNo.toNat * 2 ^ 112 + r.status * 2 ^ 96 + r.inst % 2 ^ 32 * 2 ^ 64 + s.now d % 2 ^ 64
  let refused := s.refused g r.va ⟨false, true, false⟩
  let sent := s.hostOut.length
  let gated := s.gate g r.va true
  if s.pubHeld d r.tenant r.jobNo then s.queueItem d (.done r) else
  if gated.2 then gated.1.queueItem d (.done r) else
  match s.save g r.va (toBytes 16 x) with
  | (s, .ok ()) => (s.releaseHost sent).raise r.tenant 0
  | (s, .park p reason c) =>
    if refused then
      (s.post d r.tenant [word0 6 r.tenant d r.jobNo.toNat (2 * 2 ^ 24 + 7 * 2 ^ 16), r.va, s.now d] 0 0).raise r.tenant 0
    else s.holdFor r.jobNo.toNat d g (.done r) p reason c
  | (s, _) =>
    (s.post d r.tenant [word0 6 r.tenant d r.jobNo.toNat (2 * 2 ^ 24 + 7 * 2 ^ 16), r.va, s.now d] 0 0).raise r.tenant 0

/-- The end of an instance in memory: the completion record when DONEREC is nonzero, and vector 0. Without DONEREC the
vector is raised all the same for an instance that completed or faulted (R345, R397 step 5). -/
def State.complete (s : State) (j : Job) (status inst : Nat) : State :=
  let va := cardField j.card 1087 1024
  if va == 0 then (if status == 0 || status == 2 then s.raise j.tenant 0 else s)
  else s.writeDone j.die ⟨j.tenant, BitVec.ofNat 16 j.no, va, status, inst⟩

/-! ## Publish windows at the end of a run -/

/-- Every staged byte that an instance has written again holds what it held when the instance was released, or at the
window's last switch by it (R465). -/
def State.restoreStage (s : State) (j : Job) (inst : Nat) : State :=
  let mine := fun (e : Nat × Nat × Byte × Bool) => e.1 == inst && e.2.2.2
  let others := j.liveInsts.filter (· != inst)
  let ws := j.windows.map fun w =>
    let u := w.undo.filter fun e => !mine e
    { w with undo := (w.undo.filter mine).foldl (fun u e => noteByte others inst e.2.1 (s.byte e.2.1) u) u }
  let s := j.windows.foldl (fun s w => (w.undo.filter mine).foldl (fun s e => s.store e.2.1 [e.2.2.1]) s) s
  s.setJob { j with windows := ws }

/-- An instance has ended: what its windows kept for it goes. -/
def State.forgetStage (s : State) (j : Job) (inst : Nat) : State :=
  s.setJob { j with windows := j.windows.map fun w => { w with undo := w.undo.filter fun e => e.1 != inst } }

/-- Write a PUB bit into its window descriptor: bit 128, byte 16 (R223). A page to be repaired holds the write back
(R399); a write that fails otherwise is dropped. -/
def State.putPub (s : State) (d : DieId) (tenant no desc : Nat) (b : Bool) : State :=
  let g := percAgent d tenant
  let wait := fun (s : State) (p r c : Nat) =>
    if r == 1 && s.refused g (p * 65536) ⟨true, true, false⟩ then s else s.holdFor no d g (.pub tenant no desc b) p r c
  let gated := s.gate g (desc + 16) true
  if gated.2 then gated.1.queueItem d (.pub tenant no desc b) else
  match s.load g (desc + 16) 1 with
  | (s, .ok (x :: _)) =>
    match s.save g (desc + 16) [if b then x ||| 1 else x &&& 0xFE#8] with
    | (s, .park p r c) => wait s p r c
    | (s, _) => s
  | (s, .park p r c) => wait s p r c
  | (s, _) => s

/-- The current PUB is written back into each window descriptor (R223). -/
def State.writePub (s : State) (j : Job) : State :=
  j.windows.foldl (fun s w => s.putPub j.die j.tenant j.no w.desc w.pub) s

/-! ## Totals (R445, R447) -/

/-- LFULL of a slot: bit 253 of its 256-bit header (R276). -/
def slotLfull (x : BitVec 1024) : Bool := x.getLsbD 253

/-- The totals of R447 of a block. -/
def Block.totals (b : Block) : List Nat :=
  [b.late, b.dropped, (b.slots.filter fun p => slotLfull p.2).length, b.invq, b.conts, b.limq]

/-- Add lists of totals. -/
def addTotals (x y : List Nat) : List Nat := (List.range 6).map fun k => x.getD k 0 + y.getD k 0

/-- Blocks of an instance leave: their totals join its own (R447). -/
def State.addSums (s : State) (job inst : Nat) (bs : List Block) : State :=
  match s.job? job with
  | none => s
  | some j => match j.inst? inst with
    | none => s
    | some i => s.setJob (j.setInst { i with sums := bs.foldl (fun l b => addTotals l b.totals) i.sums })

/-- What a query adds to its block's totals as it ends. The count of map errors stands in no record (entry 101). -/
def Block.countQuery (b : Block) (q : Query) : Block :=
  { b with
    invq := b.invq + if q.invalid then 1 else 0
    conts := b.conts + q.ncont
    limq := b.limq + if q.limF then 1 else 0
    mapq := b.mapq + if q.mapF then 1 else 0 }

/-- Queries go before their DONE records: what they have met counts all the same. A closed one has been counted. -/
def State.countGone (s : State) (qs : List Query) : State :=
  { s with blocks := s.blocks.map fun b => (qs.filter fun q => !q.closed && q.block == b.handle).foldl Block.countQuery b }

/-- Post the kind 8 record of an instance that ended at time `t` when a total is nonzero: late, dropped, LFULL slots,
invalid queries, continuations, LIMIT queries, saturating at 32 bits (R443). -/
def State.postTotals (s : State) (j : Job) (i : Inst) (t : Nat) : State :=
  let c := fun k => min (i.sums.getD k 0) 0xFFFFFFFF
  if i.sums.all (· == 0) then s
  else s.post j.die j.tenant
    [word0 8 j.tenant j.die j.no 0, c 0 + c 1 * 2 ^ 32, t, c 2 + c 3 * 2 ^ 32, c 4 + c 5 * 2 ^ 32, i.no % 2 ^ 32] 0 0

/-! ## Stopping blocks at once (R397 steps 1 and 2) -/

/-- Does an issuer belong to a stopped block? -/
def ofBlocks (hs : List Nat) : Issuer → Bool
  | .warp b _ => hs.contains b
  | .seq _ => false

/-- The die and core of a compute warp. -/
def State.placeOf (s : State) (p : Issuer × Warp) : Option (DieId × Nat) :=
  match p.1 with
  | .warp h _ => (s.block? h).map fun b => (b.die, p.2.core)
  | .seq _ => none

def Die.corePower (x : Die) (core : Nat) : CorePower := (alook core x.power).getD .awake

/-- Cores that have lost a warp: one that holds none any more starts its hold (R370). -/
def State.holdCores (s : State) (l : List (DieId × Nat)) : State :=
  l.foldl (fun s c =>
    let x := s.die c.1
    if x.corePower c.2 == .awake && !s.warps.any (fun p => s.placeOf p == some c) then
      s.setDie c.1 { x with power := aput c.2 (.holding x.dtime) x.power }
    else s) s

/-- Stop blocks at once, with no drain: their warps issue nothing more, and their unperformed accesses,
unstarted commands and unbegun stream operations are discarded. Started commands, started queries
and begun stream operations remain and complete. -/
def State.stopBlocks (s : State) (hs : List Nat) : State :=
  let gone := s.accs.filter fun a => ofBlocks hs a.who
  let cores := (s.warps.filter fun p => ofBlocks hs p.1).filterMap s.placeOf
  (({ s with
    warps := s.warps.filter fun p => !ofBlocks hs p.1
    cur := if (s.cur.map (ofBlocks hs)) == some true then none else s.cur
    accs := s.accs.filter fun a => !ofBlocks hs a.who
    copies := s.copies.filter fun c => c.started || !hs.contains c.block
    fills := s.fills.filter fun f => !f.g.block.any hs.contains
    travQ := s.travQ.filter fun c => !hs.contains c.block
    takes := s.takes.filter fun t => !ofBlocks hs t.who
    pubs := s.pubs.filter fun p => !ofBlocks hs p.who
    rings := s.rings.map fun r => { r with
      waiters := r.waiters.filter fun w => !ofBlocks hs w
      pushes := r.pushes.filter fun w => !ofBlocks hs w.1 }
    blocks := s.blocks.map fun b =>
      if hs.contains b.handle then
        { b with halted := true, cut := none, stopReq := none
                 coming := [], streams := b.streams.map fun p => (p.1, p.2.filter (·.begun)) }
      else b } : State).unpark fun p => match p.who with
      | .lane a _ => !gone.any (·.id == a)
      | .fetch w => !ofBlocks hs w
      | .stream b k => !hs.contains b || s.blocks.any fun x => x.handle == b && (sget [] x.streams k).any (·.begun)
      | .record h => !hs.contains h
      | _ => true).holdCores cores

/-- A block's resources are gone from its die, which notes when the block was there (R425). -/
def State.unplace (s : State) (b : Block) : State :=
  let x := s.die b.die
  { s.setDie b.die { x with ranIn := (x.ranIn.filter fun e => decide (x.dtime ≤ e.2.2 + 20000)) ++ [(b.job, b.since, x.dtime)] } with
    fills := s.fills.filter fun f => f.g.block != some b.handle
    blocks := s.blocks.filter fun c => c.handle != b.handle }

/-- The handles of the resident blocks of a job's instance. -/
def State.blocksOf (s : State) (job inst : Nat) : List Nat :=
  (s.blocks.filter fun b => b.job == job && b.inst == inst).map (·.handle)

/-- Stop every block of a job, at once. -/
def State.stopJob (s : State) (job : Nat) : State :=
  s.stopBlocks ((s.blocks.filter fun b => b.job == job).map (·.handle))

/-- Context records go, with the Percolator's reads that wait for their repair. -/
def State.dropRecs (s : State) (p : CtxRec → Bool) : State :=
  let gone := s.ctxRecs.filter p
  { (s.unpark fun k => match k.who with
      | .record h => !gone.any fun c => c.block.handle == h
      | _ => true) with ctxRecs := s.ctxRecs.filter fun c => !p c }

/-- The context records of an instance that ends are discarded, and the totals of their blocks count for it (R447). -/
def State.dropCtx (s : State) (job inst : Nat) : State :=
  let mine := fun (c : CtxRec) => c.job == job && c.inst == inst
  (s.addSums job inst ((s.ctxRecs.filter mine).map (·.block))).dropRecs mine

/-- The context records and the waits on events of a job go. -/
def State.forget (s : State) (job : Nat) : State :=
  let clean := fun (x : Die) => { x with events := x.events.map fun e =>
    { e with waits := e.waits.filter (·.1 != job), chained := e.chained.filter (·.1 != job) } }
  ({ s with dieA := clean s.dieA, dieB := clean s.dieB } : State).dropRecs (·.job == job)

/-- A job leaves the Percolator (R344, R345): PUB is written back (R223), its instances are over, its context records and
its waits on events go. While stopped blocks of it still hold resources, its windows stand. -/
def State.leave (s : State) (job : Nat) : State :=
  let s := s.forget job
  match s.job? job with
  | none => s
  | some j =>
    let s := if j.batch.isSome || (j.gone && s.blocks.any (·.job == job)) then s else s.writePub j
    if s.blocks.any (·.job == job) then
      s.setJob { j with gone := true, insts := j.insts.map fun i => { i with stopped := true } }
    else { s with jobs := s.jobs.filter (·.id != job) }

/-- The number of the instance whose blocks are resident, else the oldest one that has not ended. -/
def State.liveInst (s : State) (j : Job) : Nat :=
  match s.blocks.find? (·.job == j.id) with
  | some b => b.inst
  | none => match j.insts.find? (!·.stopped) with
    | some i => i.no
    | none => 0

/-- The stopped blocks of an instance whose resources have not returned. -/
def State.haltedOf (s : State) (job inst : Nat) : List Nat :=
  (s.blocks.filter fun b => b.job == job && b.inst == inst && b.halted).map (·.handle)

/-- The run of an instance has ended. Once none of its blocks is left, and so every write of theirs has been performed,
its totals are posted with the time of its end (R443, R447) and the completion record that is due is written (R269). -/
def State.endRun (s : State) (job inst : Nat) : State :=
  match s.job? job with
  | none => s
  | some j =>
    match j.inst? inst with
    | none => s
    | some i =>
      let t := i.ended.getD (s.now j.die)
      if (s.haltedOf job inst).isEmpty then
        let s := s.postTotals j i t
        let s := match i.status with
          | some k => s.complete j k inst
          | none => s
        match s.job? job with
        | some j => s.setJob (j.setInst { i with sums := [], ended := none, status := none })
        | none => s
      else s.setJob (j.setInst { i with ended := some t })

/-- The STATUS of the completion record that an instance's end will write; a node block writes none (R359). -/
def State.owe (s : State) (job inst status : Nat) : State :=
  match s.job? job with
  | none => s
  | some j => match j.batch, j.inst? inst with
    | none, some i => s.setJob (j.setInst { i with status := some status })
    | none, none => s.complete j status inst
    | _, _ => s

/-- Discard the staged writes of every instance of a job, and write PUB back (R465, R223). -/
def State.dropStage (s : State) (job : Nat) : State :=
  match s.job? job with
  | none => s
  | some j =>
    let s := j.liveInsts.foldl (fun s k => match s.job? job with
      | some j => s.restoreStage j k
      | none => s) s
    match s.job? job with
    | some j => s.writePub j
    | none => s

/-- Fault a job: stop it, discard its staged writes, write PUB back, post the record (step 4 of R397 or
the record that replaces it), write the completion record with STATUS 2 after the job's last write, and let it leave. -/
def State.faultJob (s : State) (job : Nat) (record : State → State) : State :=
  match s.job? job with
  | none => s
  | some j =>
    if j.gone then s
    else
      let inst := s.liveInst j
      let s := (record ((s.stopJob job).dropStage job)).owe job inst 2
      (j.insts.foldl (fun s i => (s.dropCtx job i.no).endRun job i.no) s).leave job

/-- Word 3 of a kind 6 or 7 record: BLOCKID and CORE (R443). -/
def word3 (blockNo core : Nat) : Nat := blockNo % 2 ^ 32 + core % 256 * 2 ^ 32

/-- Fault a job for an engine failure (R444) with a kind 6 record. -/
def State.faultEngine (s : State) (job reason agent w1 blockNo core w4 : Nat) : State :=
  match s.job? job with
  | none => s
  | some j => s.faultJob job fun s =>
    s.post j.die j.tenant
      [word0 6 j.tenant j.die j.no (reason * 2 ^ 24 + agent * 2 ^ 16), w1, s.now j.die, word3 blockNo core, w4] 0 0

/-- Fault a job whose access met an absent home (R438) or whose remote write has an unknown outcome
(R435), with a kind 5 record. -/
def State.faultAccess (s : State) (job reason agent va : Nat) (d : DieId) (w4 : Nat) : State :=
  match s.job? job with
  | none => s
  | some j => s.faultJob job fun s =>
    s.post j.die j.tenant
      [word0 5 j.tenant j.die j.no (reason * 2 ^ 24 + agent * 2 ^ 16), va, s.now j.die, if d then 1 else 0, w4] 0 0

/-- A kind 11 record (R466). -/
def State.post11 (s : State) (d : DieId) (t jobNo reason code subject value : Nat) : State :=
  s.post d t [word0 11 t d jobNo (reason * 2 ^ 24 + code * 2 ^ 16), subject, s.now d, value] 0 0

/-- A ring fault (R201): the job faults with a kind 11 record of reason 5. -/
def State.faultRing (s : State) (job code va value : Nat) : State :=
  match s.job? job with
  | none => s
  | some j => s.faultJob job fun s => s.post11 j.die j.tenant j.no 5 code va value

/-- Fault a job whose instruction trapped without a handler (R397), with a kind 2 record. -/
def State.faultTrap (s : State) (who : Issuer) (cause : Nat) (double : Bool) (pc g0 detail : Nat) : State :=
  match who, s.warp? who with
  | .warp h wid, some w =>
    match s.block? h with
    | none => s
    | some b =>
      match s.job? b.job with
      | none => s
      | some j => s.faultJob b.job fun s =>
        s.post j.die j.tenant
          [word0 2 j.tenant j.die j.no (cause + if double then 256 else 0), pc, g0,
            b.no % 2 ^ 32 + wid % 65536 * 2 ^ 32 + w.core % 256 * 2 ^ 48, detail, s.now j.die] 0 0
  | _, _ => s

end Sys2Proof.Machine
end

