-- ==== Sys2Proof/Machine/Ops.lean ====
section
/-! DEFINITION. The named operations that every instruction goes through: the path and join tables
(R147 to R151), taking a trap and returning from it (R390 to R396), issue with its checks, holds and
retirement (R43, R47, R50, R58, R62 to R64, R69, R403), and the passage of time. -/

namespace Sys2Proof.Machine

/-! ## Time -/

/-- The clock that an issuer's core, or a sequencer, counts its cycles on (R4). -/
def State.clockKey (s : State) (who : Issuer) : Nat :=
  match who with
  | .warp .. => coreKey (s.dieOf who) (((s.warp? who).map (·.core)).getD 0)
  | .seq q => 128 + (if q.die then 16 else 0) + (if q.trivet then 8 else 0) + q.num

/-- The clock ratio n of a core (R367): that of its cluster while it holds a resident warp, else 6. -/
def State.coreRatio (s : State) (d : DieId) (core : Nat) : Nat :=
  if s.warps.any fun p => s.placeOf p == some (d, core) then sget 6 (s.die d).ratios (core / 4) else 6

/-- The ratio of a clock. The manual gives the sequencers none of their own: they run at the clock base. -/
def State.ratioOf (s : State) (key : Nat) : Nat :=
  if key < 128 then s.coreRatio (decide (64 ≤ key)) (key % 64) else 16

/-- The die of a clock. -/
def dieOfKey (key : Nat) : DieId := if key < 128 then decide (64 ≤ key) else decide (144 ≤ key)

/-- The cycles of a clock of ratio n, 1.8 GHz times n/16, in the `h` halves of a ns after `t` halves (R24, R367). -/
def cyclesIn (n t h : Nat) : Nat := (t + h) * 9 * n / 160 - t * 9 * n / 160

/-- The half of a ns that has begun, 0 or 1. -/
def State.halfNs (s : State) : Nat := if s.half then 1 else 0

/-- The cycles that a clock counts while `h` halves of a ns pass. -/
def State.cyclesOf (s : State) (key h : Nat) : Nat :=
  cyclesIn (s.ratioOf key) (2 * s.now (dieOfKey key) + s.halfNs) h

/-- The present cycle of a clock (R4). -/
def State.clock (s : State) (key : Nat) : Nat := if key == s.clockOf then s.cycle else sget 0 s.clocks key

/-- Read the cycles of another core from now on. -/
def State.onClock (s : State) (key : Nat) : State :=
  if key == s.clockOf then s
  else { s with
    cycle := sget 0 s.clocks key
    clockOf := key
    clocks := aput s.clockOf s.cycle (adel key s.clocks) }

/-- The clock of a core counts from now on, as those of all cores with a warp do. -/
def State.startClock (s : State) (key : Nat) : State :=
  if key == s.clockOf || (alook key s.clocks).isSome then s else { s with clocks := aput key 0 s.clocks }

/-- Halves of a ns pass: device time on both dies (R378), and each core counts its own cycles (R4). No core counts two
cycles in one half. -/
def State.tick (s : State) (h : Nat) : State :=
  { s with
    cycle := s.cycle + s.cyclesOf s.clockOf h
    clocks := s.clocks.map fun p => (p.1, p.2 + s.cyclesOf p.1 h)
    half := (s.halfNs + h) % 2 == 1
    dieA := { s.dieA with dtime := s.dieA.dtime + (s.halfNs + h) / 2 }
    dieB := { s.dieB with dtime := s.dieB.dtime + (s.halfNs + h) / 2 } }

/-! ## Paths and joins -/

/-- The rank of a path's record: 0 without one, and higher the later its record was registered (R148). -/
def joinRank (js : List JoinRec) (j : BitVec 4) : Nat :=
  if j == 0 then 0 else match js.findIdx? (·.idx == j) with
    | some k => k + 1
    | none => 0

/-- Does path p rank above path q (R148)? R148 ranks unparked paths only; where a parked one competes for a place on
chip (R149) the model ranks it below every unparked one, and parked ones as R148 ranks the others (entry 15). -/
def ranksAbove (js : List JoinRec) (p q : PathEntry) : Bool :=
  if p.park != q.park then q.park
  else if joinRank js p.jidx != joinRank js q.jidx then decide (joinRank js q.jidx < joinRank js p.jidx)
  else decide (p.pc < q.pc)

/-- The highest-ranked path of a list. -/
def topPath (js : List JoinRec) : List PathEntry → Option PathEntry
  | [] => none
  | p :: ps => match topPath js ps with
    | none => some p
    | some q => if ranksAbove js q p then some q else some p

/-- The lowest-ranked path of a list. -/
def lowPath (js : List JoinRec) : List PathEntry → Option PathEntry
  | [] => none
  | p :: ps => match lowPath js ps with
    | none => some p
    | some q => if ranksAbove js p q then some q else some p

/-- The active path (R148). -/
def Warp.active (w : Warp) : Option PathEntry := topPath w.joins (w.paths.filter (!·.park))

/-- Merge an unparked path into an equal one already listed (R148). -/
def mergeInto (l : List PathEntry) (p : PathEntry) : List PathEntry :=
  if p.park then l ++ [p]
  else if l.any fun q => !q.park && q.pc == p.pc && q.jidx == p.jidx then
    l.map fun q => if !q.park && q.pc == p.pc && q.jidx == p.jidx then { q with mask := q.mask ||| p.mask } else q
  else l ++ [p]

/-- Merge every pair of unparked paths with equal PC and JIDX (R148). -/
def mergePaths (l : List PathEntry) : List PathEntry := l.foldl mergeInto []

/-- Mark the path with a mask as spilled or on chip. -/
def setSpill (l : List PathEntry) (m : Mask) (b : Bool) : List PathEntry :=
  l.map fun p => if p.mask == m then { p with spilled := b } else p

/-- The entries of a table that are on chip. -/
def onChip (l : List PathEntry) : List PathEntry := l.filter (!·.spilled)

/-- Free an on-chip place, when all 16 are in use, by moving the lowest-ranked live entry to the spill area
(R149). -/
def makeRoom (js : List JoinRec) (l : List PathEntry) : List PathEntry :=
  if (onChip l).length < 16 then l
  else match lowPath js (onChip l) with
    | some p => setSpill l p.mask true
    | none => l

/-- Keep at most 16 entries on chip: the lowest-ranked goes to the spill area, the highest-ranked
spilled entry returns when an entry frees, and before it becomes active (R149). -/
def respill (js : List JoinRec) : Nat → List PathEntry → List PathEntry
  | 0, l => l
  | fuel + 1, l =>
    let off := l.filter (·.spilled)
    if (onChip l).length > 16 then respill js fuel (makeRoom js l)
    else match topPath js off with
      | none => l
      | some p =>
        if (onChip l).length < 16 then respill js fuel (setSpill l p.mask false)
        else if (topPath js (l.filter (!·.park))).any (·.mask == p.mask) then setSpill (makeRoom js l) p.mask false
        else l

/-- The 16 bytes of a path entry, as a number (R147). -/
def PathEntry.code (p : PathEntry) : BitVec 128 :=
  BitVec.ofNat 128 (p.mask.toNat * 2 ^ 96 + p.pc.toNat * 2 ^ 48 + p.jidx.toNat * 2 ^ 44 + if p.park then 2 ^ 43 else 0)

/-- The lowest free place of a spill area of 32 entries (R35). -/
def freePlace (a : List (Nat × BitVec 128)) : Nat := ((List.range 32).find? fun k => (alook k a).isNone).getD 31

/-- The spill area when the entries `l` are the spilled ones: those that stay keep their place, and the others
take the lowest free places. -/
def spillTo (a : List (Nat × BitVec 128)) (l : List PathEntry) : List (Nat × BitVec 128) :=
  let want := l.map PathEntry.code
  let kept := a.filter fun e => want.contains e.2
  (want.filter fun c => !kept.any fun e => e.2 == c).foldl (fun a c => aput (freePlace a) c a) kept

/-- The spilled entries of a warp: those of its tables and those of the tables that a trap has frozen (R163). -/
def Warp.spilledPaths (w : Warp) : List PathEntry :=
  (w.paths.filter (·.spilled)) ++ match w.frozen with
    | some f => f.paths.filter (·.spilled)
    | none => []

/-- The path table after a change: merged, at most 16 entries on chip, and the others' bytes in the spill area. -/
def Warp.settle (w : Warp) : Warp :=
  let l := mergePaths w.paths
  let w : Warp := { w with paths := if l.length ≤ 16 && l.all (!·.spilled) then l else respill w.joins 64 l }
  { w with spill := if w.spill.isEmpty && w.paths.all (!·.spilled) then [] else spillTo w.spill w.spilledPaths }

/-- Move the path with a mask to a PC. -/
def Warp.movePath (w : Warp) (m : Mask) (pc : Pc) : Warp :=
  { w with paths := w.paths.map fun p => if p.mask == m then { p with pc := pc } else p }

/-- Spill the lowest-ranked on-chip entry but the one with a mask, where `n` further entries find no place (R149). -/
def spillLow (js : List JoinRec) (m : Mask) (n : Nat) (l : List PathEntry) : List PathEntry :=
  if (onChip l).length + n ≤ 16 then l
  else match lowPath js ((onChip l).filter (·.mask != m)) with
    | some p => setSpill l p.mask true
    | none => l

/-- Replace the path with a mask by other paths: the first takes its entry, and each further one needs an entry of
its own. The places are found among the entries that live before the split; only where these do not suffice do new
ones give way (R149). -/
def Warp.splitPath (w : Warp) (m : Mask) (ps : List PathEntry) : Warp :=
  let room := (ps.drop 1).foldl (fun l _ => spillLow w.joins m (ps.length - 1) l) w.paths
  let first := room.flatMap fun p => if p.mask == m then ps.take 1 else [p]
  { w with paths := (ps.drop 1).foldl (fun l q => makeRoom w.joins l ++ [q]) first }

/-- A record whose parked paths include all of its group: free them, merge, free the record (R156). -/
def completeJoin (w : Warp) (j : JoinRec) : Warp :=
  if (w.paths.any fun p => p.park && p.jidx == j.idx) && j.group &&& ~~~j.arrived == 0 then
    { w with
      paths := (w.paths.filter fun p => p.jidx != j.idx) ++ [⟨j.arrived, j.target + 1, j.parent, false, false⟩]
      joins := w.joins.filter fun k => k.idx != j.idx }
  else w

/-- Lanes exit (R151): they leave every path and record; empty paths are freed; joins may complete. -/
def Warp.dropLanes (w : Warp) (m : Mask) : Warp :=
  let w : Warp := { w with
    exited := w.exited ||| m
    paths := (w.paths.map fun (p : PathEntry) => { p with mask := p.mask &&& ~~~m }).filter fun p => p.mask != 0
    joins := w.joins.map fun (j : JoinRec) => { j with group := j.group &&& ~~~m, arrived := j.arrived &&& ~~~m } }
  (w.joins.foldl completeJoin w).settle

/-! ## The warp status word (R393) -/

/-- Is the warp parked (R400, R401): its instruction fetch, or an access instruction of which a lane has
parked and not all lanes have been performed? -/
def State.parkedWarp (s : State) (who : Issuer) (w : Warp) : Bool :=
  w.fetchPark || s.accs.any fun x => x.who == who && x.parked

/-- Is the warp single stepped (R403): STEP is set, or a trap of another cause came before a step trap, which the issue
after ERET takes (R391)? -/
def Warp.stepping (w : Warp) : Bool := w.step || (w.owed && w.frozen.isNone)

def Warp.wsw (w : Warp) (parked : Bool) : Word :=
  BitVec.ofNat 32 (w.joins.length % 16 * 1024 + w.paths.length % 64 * 16 +
    (if w.paths.any (·.spilled) then 8 else 0) + (if parked then 4 else 0) +
    (if w.frozen.isSome then 2 else 0) + (if w.stepping then 1 else 0))

/-! ## Traps -/

/-- The seven uniform registers that entry saves (R392). -/
def Warp.g7 (w : Warp) : List Word := (List.range 7).map fun i => sget 0 w.gregs i

/-- Write uniform registers g0 upward. -/
def Warp.putG (w : Warp) (l : List Word) : Warp :=
  { w with gregs := putAll 0 w.gregs (l.zipIdx.map fun p => (p.2, p.1)) }

/-- Entry into the trap handler (R163, R392): g0 to g6, the WSW and the tables are saved; one fresh path
of every live lane starts at the handler; g0 to g6 describe the trap. -/
def Warp.enter (w : Warp) (parked : Bool) (handler : Pc) (cause : Nat) (lanes : Mask) (detail : Nat) (pc : Pc) : Warp :=
  { (w.putG [lanes, BitVec.ofNat 32 cause, wordAt detail 0, wordAt detail 1, w.wsw parked,
      wordAt (pc.toNat * 16) 0, wordAt (pc.toNat * 16) 1]) with
    frozen := some ⟨w.g7, w.step, w.paths, w.joins⟩
    step := false
    owed := w.stepping && cause != 0x0B
    hold := .none
    heldAt := none
    stepDue := none
    paths := [⟨w.live, handler, 0, false, false⟩]
    joins := [] }

/-- The PC of an address (R48): bits [51:4]. -/
def pcOf (a : Nat) : Pc := BitVec.ofNat 48 (a / 16)

/-- Take a trap (R390 to R397): a sequencer halts; a warp without a handler, or in its handler, faults
its job; any other warp enters its handler at CODE + TRAP. The trap takes its warp the cycle in which it is taken (R45):
the handler's first instruction issues in a later one. -/
def State.takeTrap (s : State) (who : Issuer) (cause : Nat) (lanes : Mask) (detail : Nat) (pc : Pc) : State :=
  match who with
  | .seq q => s.setSeq q { s.seq q with halted := true }
  | .warp h _ =>
    match s.warp? who, s.block? h with
    | some w, some b =>
      if w.frozen.isSome || !kdTrapv b.kd then
        s.faultTrap who cause w.frozen.isSome (pc.toNat * 16) lanes.toNat detail
      else
        s.setWarp who { (w.enter (s.parkedWarp who w) (pcOf (kdCode b.kd + kdTrap b.kd)) cause lanes detail pc) with
          notBefore := max w.notBefore (s.clock (s.clockKey who) + 1) }
    | _, _ => s

/-- Return from the handler (R394): the new STEP from g1[31], the saved registers and tables, and the
lanes that exited inside the handler removed from them. -/
def Warp.eret (w : Warp) (f : Frozen) : Warp :=
  let out := w.exited
  ({ (w.putG f.g) with
    step := (sget 0 w.gregs 1).getLsbD 31
    frozen := none
    paths := f.paths
    joins := f.joins } : Warp).dropLanes out

/-! ## Issue -/

/-- Who may execute a form (R69). -/
inductive Cls where
  | shared | privileged | compute
  deriving DecidableEq, Repr

def Cls.allows : Cls → Issuer → Bool
  | .shared, _ => true
  | .privileged, .seq _ => true
  | .compute, .warp .. => true
  | _, _ => false

/-- What issue must know of a form: that its operands pass R50, its class, its guards and issue
fields, the registers that it reads and writes, its counter, and whether a step trap waits for its
accesses (R403). -/
structure Form where
  legal : Bool
  cls : Cls
  hdr : Hdr
  rd : List Nat
  wr : List Nat
  ctr : Option Ctr
  deferStep : Bool

/-- The outcome of a form at issue. -/
inductive Eff where
  /-- It retires and its path goes to the next word. -/
  | done (s : State)
  /-- It retires; it has moved the warp's paths itself. -/
  | moved (s : State)
  /-- It holds its warp (R43). -/
  | hold (s : State)
  /-- It traps unretired. -/
  | trap (cause : Nat) (lanes : Mask) (detail : Nat)
  /-- It traps unretired, with an effect beside its warp. -/
  | trapIn (s : State) (cause : Nat) (lanes : Mask) (detail : Nat)
  /-- It retires and then traps. -/
  | after (s : State) (cause : Nat) (lanes : Mask) (detail : Nat)

/-- Unfinished instructions of a class (R64): the counter's value. -/
def Warp.counter (w : Warp) (c : Ctr) : Nat := (w.ops.filter fun o => o.cls == c).length

/-- Does an unfinished result bar the form (R62, R63)? It may not read a register with an interlocked
result, nor write a register with any unwritten one. -/
def Warp.blocked (w : Warp) (f : Form) : Bool :=
  w.pend.any fun p => p.regs.any fun r => f.wr.contains r || (p.locked && f.rd.contains r)

/-- Does the warp's situation bar every issue: parked, its block stopped or cut, or its sequencer
halted or isolated (R183, R396, R405, R457)? -/
def State.barred (s : State) (who : Issuer) (w : Warp) : Bool :=
  s.parkedWarp who w ||
    (match who with
    | .warp h _ => match s.block? h with
      | some b => b.halted || b.cut.isSome
      | none => true
    | .seq q => (s.seq q).halted || (s.seq q).isolated)

/-- Is a sequencer hung (R456)? -/
def State.hung (s : State) (q : SeqId) : Bool :=
  match alook q s.seqs with
  | some x => x.halted || x.isolated || decide (x.lastBeat + 1000000 ≤ s.now q.die)
  | none => false

/-- Is an issuer a hung front-end sequencer: its CSR writes and its ring and event updates are discarded (R456)? -/
def State.cutOff (s : State) : Issuer → Bool
  | .seq q => !q.trivet && s.hung q
  | .warp _ _ => false

/-- May the form issue now (R43)? -/
def Warp.ready (w : Warp) (f : Form) : Bool :=
  !w.blocked f && (match f.ctr with
    | some c => decide (w.counter c < 63)
    | none => true)

/-- Do the form's lane registers lie below the budget (R30)? -/
def Warp.inBudget (w : Warp) (f : Form) : Bool :=
  (f.rd ++ f.wr).all fun r => decide (384 ≤ r) || decide (r < w.budget)

/-- Nothing issues: half a ns passes, less than any core's cycle. -/
def State.idle (s : State) : State := s.tick 1

/-- The issue record of a form that retires in cycle `c` (R46, R47, R159); a wait issued when it first held its warp,
and its stall count runs from there (R58). -/
def Warp.issued (w : Warp) (c : Nat) (h : Hdr) : Warp :=
  { w with
    notBefore := w.heldAt.getD c + 1 + h.sc.toNat
    lastIssue := some (w.heldAt.getD c)
    readySince := none
    heldAt := none
    yl := h.yl
    hold := .none }

/-- The warp at a wait that holds it (R43): the wait has issued, in cycle `c` or when it first held (R58). -/
def Warp.waiting (w : Warp) (c : Nat) : Warp := { w with heldAt := some (w.heldAt.getD c) }

/-- Retire a form of an issuer: record the issue, then take the step trap when single stepping (R403).
`pc` is the form's own, and `id` the number of what it entered. -/
def State.retire (s : State) (who : Issuer) (stepping : Bool) (f : Form) (c id : Nat) (act : Mask) (pc : Pc) : State :=
  match s.warp? who with
  | none => s
  | some w =>
    let w := w.issued c f.hdr
    if stepping then
      if f.deferStep then s.setWarp who { w with stepDue := some (act, pc), stepOf := id, owed := false }
      else (s.setWarp who w).takeTrap who 0x0B act 0 pc
    else s.setWarp who w

/-- Advance the path with a mask to the next word. -/
def Warp.advance (w : Warp) (p : PathEntry) : Warp := (w.movePath p.mask (p.pc + 1)).settle

/-- Advance the path of an issuer in a state. -/
def State.advance (s : State) (who : Issuer) (p : PathEntry) : State :=
  match s.warp? who with
  | some w => s.setWarp who (w.advance p)
  | none => s

/-- The state after a form's outcome. -/
def State.finish (s : State) (who : Issuer) (w : Warp) (p : PathEntry) (f : Form) (act : Mask) : Eff → State
  | .done t => (t.advance who p).retire who w.stepping f s.cycle s.nextId act p.pc
  | .moved t => t.retire who w.stepping f s.cycle s.nextId act p.pc
  | .hold t => t.idle
  | .trap c l d => s.takeTrap who c l d p.pc
  | .trapIn t c l d => t.takeTrap who c l d p.pc
  | .after t c l d => ((t.advance who p).retire who false f s.cycle s.nextId act p.pc).takeTrap who c l d p.pc

/-- Issue a form for the current issuer. `body` gets the state, the issuer, its warp, its active path
and the set `active` (R9). -/
def issue (s : State) (f : Form) (body : State → Issuer → Warp → PathEntry → Mask → Eff) :
    Host.Outcome State Fault Refusal :=
  match s.cur with
  | none => .fault .noIssuer
  | some who =>
    match s.warp? who with
    | none => .fault .noIssuer
    | some w =>
      match w.active with
      | none => .fault .noIssuer
      | some p =>
        if s.barred who w || decide (s.cycle < w.notBefore) || !w.ready f then .next s.idle
        else if !f.legal || !f.cls.allows who || !w.inBudget f then
          .next (s.finish who w p f 0 (.trap 0x01 p.mask 0))
        else
          let act := p.mask &&& w.laneGuard f.hdr &&& w.live
          .next (s.finish who w p f act (body s who w p act))

/-- Issue a form that changes only its warp. -/
def laneForm (s : State) (f : Form) (g : Warp → Mask → Warp) : Host.Outcome State Fault Refusal :=
  issue s f fun s who w _ act => .done (s.setWarp who (g w act))

/-- A form that acts on the warp when at least one lane is in `active` (R55). -/
def warpForm (s : State) (f : Form) (body : State → Issuer → Warp → PathEntry → Mask → Eff) :
    Host.Outcome State Fault Refusal :=
  issue s f fun s who w p act => if act = 0 then .done s else body s who w p act

/-- The form of a lane instruction: shared, without counter. -/
def lane (legal : Bool) (h : Hdr) (rd wr : List Nat) : Form := ⟨legal, .shared, h, rd, wr, none, false⟩

end Sys2Proof.Machine
end

