-- ==== Sys2Proof/Machine/Control.lean ====
section
/-! DEFINITION. Group 0x7_ and the trap forms of group 0xE_: branches, joins, exit, waits, specials,
TRAP, BRK, ERET (R152 to R163, R394). -/

namespace Sys2Proof.Machine

/-! ## Branches (R153) -/

/-- Does the issuer's kernel allow deep divergence (R149)? -/
def State.deep (s : State) : Issuer → Bool
  | .warp h _ => match s.block? h with
    | some b => kdDeep b.kd
    | none => false
  | .seq _ => false

/-- Group lanes by equal targets, in the order of their lowest lanes. -/
def groupTargets (tgt : Nat → Nat) : List Nat → List (Nat × Mask)
  | [] => []
  | L :: Ls =>
    let r := groupTargets tgt Ls
    let m := match r.find? (·.1 == tgt L) with
      | some g => g.2 ||| (1#32 <<< L)
      | none => 1#32 <<< L
    (tgt L, m) :: r.filter (·.1 != tgt L)

/-- Bits that a branch target must not have (R153). -/
def badTarget (t : Nat) : Bool := t % 16 != 0 || decide (2 ^ 52 ≤ t)

/-- Split the active path: the lanes of T go to their targets, the others to the next word; `link`
changes the warp once the checks have passed. The alignment trap precedes the path-table check, which
precedes every lane effect (R149, R153, R391). -/
def State.branch (s : State) (who : Issuer) (w : Warp) (p : PathEntry) (act : Mask) (tgt : Nat → Nat) (link : Warp → Warp) : Eff :=
  if act = 0 then .done s
  else
    let bad := maskOf fun L => act.getLsbD L && badTarget (tgt L)
    if bad ≠ 0 then .trap 0x02 bad (((lowLane bad).map tgt).getD 0)
    else
      let rest := p.mask &&& ~~~act
      let gs := groupTargets tgt (lanesOf act)
      let ps := (gs.map fun g => (⟨g.2, pcOf g.1, p.jidx, false, p.spilled⟩ : PathEntry)) ++
        (if rest = 0 then [] else [⟨rest, p.pc + 1, p.jidx, false, p.spilled⟩])
      if (onChip w.paths).length + (ps.length - 1) > 16 && !s.deep who then .trap 0x06 act 0
      else .moved (s.setWarp who (((link w).splitPath p.mask ps).settle))

/-- A displacement from a word's own address (R152). -/
def dispTarget (pc : Pc) (disp : Word) : Nat := ((pc.toNat * 16 : Int) + disp.toInt) % 2 ^ 52 |>.toNat

/-- The link: PC + 16, as 64 bits, in the lanes of T. -/
def putLink (d : Reg) (act : Mask) (pc : Pc) (w : Warp) : Warp := w.putD 2 d act fun _ => pc.toNat * 16 + 16

def execBra (x : DispOp) (s : State) :=
  issue s (lane (Instr.bra x).legal x.h [] []) fun s who w p act =>
    s.branch who w p act (fun _ => dispTarget p.pc x.disp) id

def execBrx (x : AOnly) (s : State) :=
  issue s (lane (Instr.brx x).legal x.h (span 2 x.a) []) fun s who w p act =>
    s.branch who w p act (fun L => w.group 2 x.a.toNat L) id

def execCall (x : CallOp) (s : State) :=
  issue s (lane (Instr.call x).legal x.h [] (span 2 x.d)) fun s who w p act =>
    s.branch who w p act (fun _ => dispTarget p.pc x.disp) (putLink x.d act p.pc)

def execCallx (x : CallxOp) (s : State) :=
  issue s (lane (Instr.callx x).legal x.h (span 2 x.a) (span 2 x.d)) fun s who w p act =>
    s.branch who w p act (fun L => w.group 2 x.a.toNat L) (putLink x.d act p.pc)

def execRet (x : AOnly) (s : State) :=
  issue s (lane (Instr.ret x).legal x.h (span 2 x.a) []) fun s who w p act =>
    s.branch who w p act (fun L => w.group 2 x.a.toNat L) id

/-! ## Joins (R155, R156) -/

/-- A join index that no live record uses. -/
def freeJoin (js : List JoinRec) : BitVec 4 :=
  match (rangeFrom 1 15).find? fun k => js.all (·.idx.toNat != k) with
  | some k => BitVec.ofNat 4 k
  | none => 0

/-- Register a join target for the path (R155). -/
def Warp.jset (w : Warp) (p : PathEntry) (disp : Word) : Warp :=
  let j := freeJoin w.joins
  ({ w with
    joins := w.joins ++ [⟨j, pcOf (dispTarget p.pc disp), p.mask, 0, p.jidx⟩]
    paths := w.paths.map fun (q : PathEntry) => if q.mask == p.mask then { q with jidx := j, pc := q.pc + 1 } else q } : Warp).settle

def execJset (x : DispOp) (s : State) :=
  issue s (lane (Instr.jset x).legal x.h [] []) fun s who w p act =>
    if w.joins.length ≥ 15 then .trap 0x06 act 0 else .moved (s.setWarp who (w.jset p x.disp))

/-- Park the path at its join point and complete the join when its whole group has arrived (R156). -/
def Warp.jwait (w : Warp) (p : PathEntry) (j : JoinRec) : Warp :=
  let k := { j with arrived := j.arrived ||| p.mask }
  (completeJoin { w with
    joins := w.joins.map fun i => if i.idx == j.idx then k else i
    paths := w.paths.map fun (q : PathEntry) => if q.mask == p.mask then { q with park := true } else q } k).settle

def execJwait (x : Bare) (s : State) :=
  issue s (lane (Instr.jwait x).legal x.h [] []) fun s who w p _ =>
    match w.joins.find? fun j => j.idx == p.jidx with
    | none => .trap 0x07 p.mask 0
    | some j =>
      if p.jidx = 0 then .trap 0x07 p.mask 0
      else if j.target ≠ p.pc then .trap 0x07 p.mask (j.target.toNat * 16)
      else .moved (s.setWarp who (w.jwait p j))

/-! ## Exit, waits and specials (R157 to R161) -/

/-- The warp leaves: its slot and registers are free (R36, R157). -/
def State.dropWarp (s : State) (who : Issuer) : State :=
  let core := (s.warp? who).bind fun w => s.placeOf (who, w)
  ({ s with warps := adel who s.warps, cur := if s.cur == some who then none else s.cur } : State).holdCores core.toList

def execExit (x : Bare) (s : State) :=
  issue s (lane (Instr.exit x).legal x.h [] []) fun s who w p act =>
    if act = 0 then .done s
    else if w.live &&& ~~~act = 0 then
      if w.counter .ld = 0 && w.counter .tl = 0 then .moved (s.dropWarp who) else .hold s
    else .moved (s.setWarp who ((w.movePath p.mask (p.pc + 1)).dropLanes act))

/-- Invalidate a core's L1 (R187). -/
def State.invL1 (s : State) (d : DieId) (core : Nat) : State :=
  { s with l1 := s.l1.filter fun l => !(l.die == d && l.core == core) }

/-- An acquire at a scope invalidates the core's L1: at DIE or wider, and at BLOCK in a block of span 2
or more (R187). A sequencer uses no L1 (entry 92). -/
def State.acquire (s : State) (who : Issuer) (w : Warp) (sc : Scope) : State :=
  match who with
  | .seq _ => s
  | .warp h _ => match sc with
    | .die | .module | .system => s.invL1 (s.dieOf who) w.core
    | .block => match s.block? h with
      | some b => if kdSpan b.kd ≥ 2 then s.invL1 b.die w.core else s
      | none => s
    | _ => s

/-- The counter stands at or below a limit byte; 0xFF is no limit (R65). -/
def limitOk (n : Nat) (l : BitVec 8) : Bool := l == 0xFF || decide (n ≤ l.toNat)

/-- WAITC (R65, R158). One that returns is an acquire at BLOCK scope (R253, R270). -/
def execWaitc (x : WaitcOp) (s : State) :=
  warpForm s (lane (Instr.waitc x).legal x.h [] []) fun s who w _ _ =>
    if limitOk (w.counter .tl) x.tl && limitOk (w.counter .cp) x.cp && limitOk (w.counter .st) x.st &&
        limitOk (w.counter .ld) x.ld then .done (s.acquire who w .block)
    else .hold (s.setWarp who (w.waiting s.cycle))

def execYield (x : Bare) (s : State) :=
  warpForm s (lane (Instr.yield x).legal x.h [] []) fun s who w _ _ =>
    .done (s.setWarp who { w with yieldAt := some s.cycle })

/-- The specials of R160. -/
def State.special (s : State) (who : Issuer) (w : Warp) (i L : Nat) : Nat :=
  match who with
  | .warp h wid =>
    match s.block? h with
    | none => 0
    | some b =>
      match i with
      | 0 => L
      | 1 => wid
      | 2 => w.role
      | 3 => b.no
      | 4 => kdSpan b.kd + 16 * w.spos
      | 5 => w.core
      | 6 => w.core / 4
      | 7 => if b.die then 1 else 0
      | 8 => b.tenant
      | _ => s.now b.die
  | .seq q =>
    match i with
    | 1 => if q.trivet then 0 else q.num
    | 4 => 1
    | 5 | 6 => 0xFFFFFFFF
    | 7 => if q.die then 1 else 0
    | 9 => s.now q.die
    | _ => 0

def execSread (x : SreadOp) (s : State) :=
  let n := if x.spec.toNat = 9 then 2 else 1
  issue s (lane (Instr.sread x).legal x.h [] (span n x.d)) fun s who w _ act =>
    .done (s.setWarp who (w.putD n x.d act fun L => s.special who w x.spec.toNat L))

def execNop (x : Bare) (s : State) := laneForm s (lane (Instr.nop x).legal x.h [] []) fun w _ => w

/-! ## Traps and return (R162, R163, R394) -/

def execTrap (x : TrapOp) (s : State) :=
  warpForm s (lane (Instr.trap x).legal x.h [] []) fun s _ _ _ act => .after s 0x09 act x.code.toNat

def execBrk (x : TrapOp) (s : State) :=
  warpForm s (lane (Instr.brk x).legal x.h [] []) fun s _ _ _ act => .after s 0x0A act x.code.toNat

/-- ERET outside a handler raises the illegal-instruction trap (R163). -/
def execEret (x : Bare) (s : State) :=
  issue s (lane (Instr.eret x).legal x.h [] []) fun s who w p _ =>
    match w.frozen with
    | none => .trap 0x01 p.mask 0
    | some f => .moved (s.setWarp who (w.eret f))

/-- WFI (R166): held until an unmasked line is pending. -/
def execWfi (x : Bare) (s : State) :=
  warpForm s ⟨(Instr.wfi x).legal, .privileged, x.h, [], [], none, false⟩ fun s who w _ _ =>
    match who with
    | .seq q => if (s.seq q).irqPend &&& (s.seq q).irqMask ≠ 0 then .done s else .hold (s.setWarp who (w.waiting s.cycle))
    | .warp .. => .done s

end Sys2Proof.Machine
end

