-- ==== Sys2Proof/Machine/Streams.lean ====
section
/-! DEFINITION. The streams of a block in a matrix unit (R230, R287): the unit's state, the operations of a stream, and
the log reads of a CREPLAY that has issued, which act as loads of its lanes (R330). -/

namespace Sys2Proof.Machine

/-- A unit's state at placement (R227, R277). -/
def UnitState.fresh : UnitState := ⟨.nearestEven, 0, 0, 0⟩

/-- The key of a unit's stream and state: span position and unit. -/
def unitKey (spos unit : Nat) : Nat := spos * 4 + unit

def Block.unit (b : Block) (key : Nat) : UnitState := sget UnitState.fresh b.units key

def Block.setUnit (b : Block) (key : Nat) (u : UnitState) : Block := { b with units := sset UnitState.fresh b.units key u }

def Block.stream (b : Block) (key : Nat) : List StreamOp := sget [] b.streams key

def Block.setStream (b : Block) (key : Nat) (l : List StreamOp) : Block := { b with streams := sset [] b.streams key l }

/-- The register sources that an operation read at issue for a lane. -/
def StreamOp.srcOf (o : StreamOp) (L : Nat) : List Word := (alook L o.src).getD []

/-- The configuration that a CINIT with CFG = 1 brings, kept beside the lanes' sources: τ, LOGBASE, LCAP. -/
def StreamOp.cfg (o : StreamOp) : Option (List Word) := alook 32 o.src

/-- A unit's state after a configuration (R277). -/
def UnitState.configured (u : UnitState) (c : List Word) : UnitState :=
  { u with
    thr := c.headD 0
    logbase := BitVec.ofNat 64 ((c.getD 1 0).toNat + (c.getD 2 0).toNat * 2 ^ 32)
    lcap := BitVec.ofNat 24 (c.getD 3 0).toNat }

/-- The operations of a unit, those of its stream first and then those on their way to it. -/
def Block.unitOps (b : Block) (key : Nat) : List StreamOp :=
  b.stream key ++ (b.coming.filter fun a => unitKey a.spos a.unit == key).map (·.op)

/-- The state of a unit when the operation of an instruction comes to be performed there. -/
def Block.unitBefore (b : Block) (key id : Nat) : UnitState :=
  ((b.unitOps key).takeWhile fun o => o.id != id).foldl (fun u o => match o.cfg with
    | some c => u.configured c
    | none => u) (b.unit key)

/-- The lanes of a CREPLAY that read the log, with the address of their entries. -/
def StreamOp.replayReads (o : StreamOp) (u : UnitState) : List (Nat × Nat) :=
  (lanesOf o.lanes).filterMap fun L =>
    let src := o.srcOf L
    let n := (src.getD 1 0).toNat
    if n == 0 || u.lcap.toNat < n then none
    else some (L, u.logbase.toNat + 32 * ((src.headD 0).toNat * u.lcap.toNat + n - 1))

def StreamOp.isReplay (o : StreamOp) : Bool := match o.instr with
  | .creplay _ => true
  | _ => false

/-- The log reads of a CREPLAY as a load of its lanes, in program order at the CREPLAY (R330). -/
def State.replayAcc (s : State) (b : Block) (key : Nat) (o : StreamOp) : Acc :=
  { id := o.id, who := o.who, op := .ld, ty := .b32, size := 32, bw := true, scope := .none, sem := 0, ch := .default
    word := 0, dreg := 0, parked := false, part := [], core := b.coreAt (key / 4), spos := key / 4
    fences := match s.warp? o.who with
      | some w => w.fences.filter fun f => decide (f.stamp < o.id)
      | none => []
    sys := 0, all := o.lanes
    lanes := (o.replayReads (b.unitBefore key o.id)).map fun p => ⟨p.1, p.2, 0, 0, false⟩ }

/-- The log reads of a warp's CREPLAYs that have issued and are not complete. -/
def State.replays (s : State) (who : Issuer) : List Acc :=
  match who with
  | .seq _ => []
  | .warp h _ => match s.block? h with
    | none => []
    | some b => (List.range 16).flatMap fun key =>
      ((b.unitOps key).filter fun o => o.who == who && o.isReplay).map (s.replayAcc b key)

/-- The place, in a unit's share of its core's accumulator store, of byte `o` of the block's allocation: 8 KiB for each
tile, then 128 bytes for each slot that the unit holds (R15, R33, R275); unit m's share begins at m MiB. -/
def Block.storeOff (b : Block) (spos unit o : Nat) : Nat := unit * 2 ^ 20 + pieceOffset (b.storeAt.getD spos []) o

/-- The first uncorrectable byte of some ranges (start, length) of a unit's store (R431). -/
def State.storeBad (s : State) (b : Block) (spos unit : Nat) (rs : List (Nat × Nat)) : Option Nat :=
  if s.bad.isEmpty then none
  else rs.findSome? fun r => (rangeFrom r.1 r.2).findSome? fun o =>
    let p := b.storeOff spos unit o
    if s.bad.contains (storePhys b.die (b.coreAt spos) p / 8) then some p else none

/-- Ranges of a unit's store are written (R431). -/
def State.wroteStore (s : State) (b : Block) (spos unit : Nat) (rs : List (Nat × Nat)) : State :=
  if s.bad.isEmpty then s
  else s.wroteAt (rs.flatMap fun r => (rangeFrom r.1 r.2).map fun o => storePhys b.die (b.coreAt spos) (b.storeOff spos unit o))

end Sys2Proof.Machine
end

