-- ==== Sys2Proof/Machine/Access.lean ====
section
/-! DEFINITION. Groups 0x8_ and 0x9_ at issue: LD, ST, PREF, CCTL, ATOM, RED, FENCE (R180 to R192): the
lane addresses, the issue checks of R182, and the unfinished access that the pipeline events of
Pipeline.lean perform later. -/

namespace Sys2Proof.Machine

/-! ## Addresses and checks -/

/-- The address of a lane (R181). -/
def Warp.addr (w : Warp) (sp : Bool) (a : Reg) (off : Word) (L : Nat) : Nat :=
  if sp then 0xF * 2 ^ 48 + ((w.word a.toNat L) + off).toNat
  else (((w.group 2 a.toNat L : Int) + off.toInt) % 2 ^ 64).toNat

/-- The registers of an address operand. -/
def addrSpan (sp : Bool) (a : Reg) : List Nat := span (if sp then 1 else 2) a

/-- Does a test fail on a byte of an access? -/
def anyByte (addr n : Nat) (bad : Nat → Bool) : Bool := (rangeFrom addr n).any bad

/-- The trap of the issue checks (R182): the first check that some lane fails, its lanes and its detail (R390); the
BARRIER trap names every lane of `active`. A block's barrier objects matter only to stores and atomics (R195). Each
check but the alignment's looks at every byte of a lane's access (the model's choice, entry 74). -/
def State.issueCheck (s : State) (g : Agent) (act : Mask) (n : Nat) (bw wr : Bool) (addr : Nat → Nat) :
    Option (Nat × Mask × Nat) :=
  let fails := fun (bad : Nat → Bool) => maskOf fun L => act.getLsbD L && bad (addr L)
  let first := fun (m : Mask) => addr ((lowLane m).getD 0)
  let ap := fails fun a => anyByte a n fun b => !s.apertureOk g b
  let al := fails fun a => !bw && a % n != 0
  let bo := fails fun a => anyByte a n fun b => !s.boundsOk g b
  let ba := fails fun a => wr && anyByte a n (s.inBarrier g)
  if ap ≠ 0 then some (0x04, ap, first ap)
  else if al ≠ 0 then some (0x02, al, first al)
  else if bo ≠ 0 then some (0x03, bo, first bo)
  else if ba ≠ 0 then
    some (0x05, act, ((rangeFrom (first ba) n).find? (s.inBarrier g)).getD 0 % 2 ^ 42 / 16 % 256)
  else none

/-! ## Unfinished accesses -/

/-- A new access instruction of a warp, before its number is known. -/
structure AccSpec where
  op : AccOp
  ty : LTy
  size : Nat
  bw : Bool
  scope : Scope
  sem : BitVec 2
  ch : Hint
  word : BitVec 128
  dreg : Nat
  addr : Nat → Nat
  data : Nat → Nat
  cmp : Nat → Nat

/-- Is a fence of a kind that acquires: acq, acqrel or sc (R190)? -/
def Fence.acquires (f : Fence) : Bool := f.kind != 1

/-- The fences of a warp that still order something: those with an unfinished earlier access, or an earlier CREPLAY whose log
reads are loads (R330). One that no longer does has its L1 invalidation done before the accesses to come (R187). -/
def State.settleFences (s : State) (who : Issuer) (w : Warp) : State × Warp :=
  let live := fun (f : Fence) => (s.accs.any fun a => a.who == who && decide (a.id < f.stamp)) ||
    (s.replays who).any fun a => decide (a.id < f.stamp)
  let expired := w.fences.filter fun f => !live f && f.acquires
  (expired.foldl (fun s f => s.acquire who w f.scope) s, { w with fences := w.fences.filter live })

/-- Enter an access instruction for the lanes of `act`: it gets its number, its counter rises, and its
destination counts as unwritten (R63, R64). -/
def State.enterAcc (s : State) (who : Issuer) (w : Warp) (act : Mask) (cls : Ctr) (regs : List Nat) (a : AccSpec)
    (lanes : List Nat) : State :=
  let r := s.settleFences who w
  let s := r.1
  let w := r.2
  let id := s.nextId
  let acc : Acc :=
    { id := id, who := who, op := a.op, ty := a.ty, size := a.size, bw := a.bw, scope := a.scope, sem := a.sem
      ch := a.ch, word := a.word, dreg := a.dreg, parked := false, part := [], core := w.core, spos := w.spos
      fences := w.fences, sys := w.sysRel, all := act
      lanes := lanes.map fun L => ⟨L, a.addr L, a.data L, a.cmp L, false⟩ }
  let w : Warp := { w with
    ops := w.ops ++ [⟨cls, id, 1⟩]
    pend := if regs.isEmpty then w.pend else w.pend ++ [⟨id, act, regs, false⟩] }
  ({ s with nextId := id + 1, accs := s.accs ++ [acc] } : State).setWarp who w

/-- The body of a memory form: nothing without an active lane; else the checks, then the access. -/
def accBody (cls : Ctr) (regs : List Nat) (wr : Bool) (spec : Warp → AccSpec) (s : State) (who : Issuer) (w : Warp)
    (act : Mask) : Eff :=
  if act = 0 then .done s
  else
    let a := spec w
    match s.issueCheck (s.agentOf who w) act a.size a.bw wr a.addr with
    | some t => .trap t.1 t.2.1 t.2.2
    | none => .done (s.enterAcc who w act cls regs a (lanesOf act))

/-- The form of a memory instruction. -/
def memForm (legal : Bool) (h : Hdr) (rd wr : List Nat) (c : Ctr) : Form := ⟨legal, .shared, h, rd, wr, some c, true⟩

/-! ## Loads and stores (R184) -/

def execLd (x : LdOp) (s : State) :=
  issue s (memForm (Instr.ld x).legal x.h (addrSpan x.x.sp x.x.a) (span x.ty.regs x.d) .ld) fun s who w _ act =>
    accBody .ld (span x.ty.regs x.d) false (fun w =>
      { op := .ld, ty := x.ty, size := x.ty.width / 8, bw := x.bw, scope := x.x.scope, sem := x.x.sem, ch := x.x.ch
        word := (Instr.ld x).word, dreg := x.d.toNat, addr := w.addr x.x.sp x.x.a x.x.off, data := fun _ => 0, cmp := fun _ => 0 })
      s who w act

def execSt (x : StOp) (s : State) :=
  issue s (memForm (Instr.st x).legal x.h (addrSpan x.x.sp x.x.a ++ span x.ty.regs x.b) [] .st) fun s who w _ act =>
    accBody .st [] true (fun w =>
      { op := .st, ty := x.ty, size := x.ty.width / 8, bw := x.bw, scope := x.x.scope, sem := x.x.sem, ch := x.x.ch
        word := (Instr.st x).word, dreg := 0, addr := w.addr x.x.sp x.x.a x.x.off
        data := fun L => w.src x.ty x.b L % 2 ^ x.ty.width, cmp := fun _ => 0 })
      s who w act

/-! ## Atomics (R188, R189) -/

def atomForm (s : State) (i : Instr) (x : AtomOp) (f : AtomFn) :=
  issue s (memForm i.legal x.h (addrSpan x.x.sp x.x.a ++ span x.ty.regs x.b ++
      (if f == .cas then span x.ty.regs x.c else [])) (span x.ty.regs x.d) .ld) fun s who w _ act =>
    accBody .ld (span x.ty.regs x.d) true (fun w =>
      { op := .atom f, ty := x.ty, size := x.ty.width / 8, bw := false, scope := x.x.scope, sem := x.x.sem
        ch := x.x.ch, word := i.word, dreg := x.d.toNat, addr := w.addr x.x.sp x.x.a x.x.off
        data := w.src x.ty x.b, cmp := w.src x.ty x.c })
      s who w act

def execAtomAdd (x : AtomOp) (s : State) := atomForm s (.atomAdd x) x .add
def execAtomMin (x : AtomOp) (s : State) := atomForm s (.atomMin x) x .min
def execAtomMax (x : AtomOp) (s : State) := atomForm s (.atomMax x) x .max
def execAtomAnd (x : AtomOp) (s : State) := atomForm s (.atomAnd x) x .and
def execAtomOr (x : AtomOp) (s : State) := atomForm s (.atomOr x) x .or
def execAtomXor (x : AtomOp) (s : State) := atomForm s (.atomXor x) x .xor
def execAtomXchg (x : AtomOp) (s : State) := atomForm s (.atomXchg x) x .xchg
def execAtomCas (x : AtomOp) (s : State) := atomForm s (.atomCas x) x .cas

def redForm (s : State) (i : Instr) (x : RedOp) (f : AtomFn) :=
  issue s (memForm i.legal x.h (addrSpan x.x.sp x.x.a ++ span x.ty.regs x.b) [] .st) fun s who w _ act =>
    accBody .st [] true (fun w =>
      { op := .red f, ty := x.ty, size := x.ty.width / 8, bw := false, scope := x.x.scope, sem := x.x.sem
        ch := x.x.ch, word := i.word, dreg := 0, addr := w.addr x.x.sp x.x.a x.x.off
        data := w.src x.ty x.b, cmp := fun _ => 0 })
      s who w act

def execRedAdd (x : RedOp) (s : State) := redForm s (.redAdd x) x .add
def execRedMin (x : RedOp) (s : State) := redForm s (.redMin x) x .min
def execRedMax (x : RedOp) (s : State) := redForm s (.redMax x) x .max
def execRedAnd (x : RedOp) (s : State) := redForm s (.redAnd x) x .and
def execRedOr (x : RedOp) (s : State) := redForm s (.redOr x) x .or
def execRedXor (x : RedOp) (s : State) := redForm s (.redXor x) x .xor

/-! ## Fences (R190) -/

/-- Which lanes a FENCE of kind rel, acqrel or sc at SYSTEM scope adds to those whose host writes go out
in order (R267). -/
def Warp.passSys (w : Warp) (sc : Scope) (kind : BitVec 2) (act : Mask) : Warp :=
  if sc == .system && kind != 0 then { w with sysRel := w.sysRel ||| act } else w

/-- FENCE: a kind that acquires invalidates the L1 at once, and again before each later load of the warp that an
unfinished earlier access makes wait (R187). -/
def execFence (x : FenceOp) (s : State) :=
  issue s (lane (Instr.fence x).legal x.h [] []) fun s who w _ act =>
    if act = 0 then .done s
    else
      let f : Fence := ⟨s.nextId, x.kind, x.scope, act⟩
      let s := if f.acquires then s.acquire who w x.scope else s
      let r := s.bump.settleFences who { (w.passSys x.scope x.kind act) with fences := w.fences ++ [f] }
      .done (r.1.setWarp who r.2)

/-! ## Prefetch and cache control (R191, R192) -/

/-- Fill the line holding an address, within the limits of R177; nothing on a local aperture or an
address that does not translate. With CH last the L1 line goes after the access (R57). The flag tells that the fill waits at
a controller (R364). -/
def State.prefetch (s : State) (f : Fill) : State × Bool :=
  let g := f.g
  if isLocal f.addr then (s, false)
  else
    let walks := s.gatePa g.tenant (s.walkPas g f.addr)
    if walks.2 then (walks.1, true) else
    match walks.1.translate g f.addr ⟨false, false, false⟩ with
    | (s, none) => (s, false)
    | (s, some x) =>
      let pa := s.readCopy g.die x
      let line := pa / 128
      let no := x.pol == 2 || f.ch == .nomsc
      let held := s.l1.any fun l => l.die == g.die && l.core == g.unit && l.line == line
      let barred := if f.l1 then g.seq.isSome || x.kind == 1 || x.pol != 0 || f.ch == .nol1 || held else no
      let r : State × Bool :=
        if (s.homeGone x).isSome || isHost pa || (s.poisoned (line * 128) 128).isSome || barred then (s, false)
        else
          let gated := s.gatePa g.tenant [pa]
          if gated.2 then (gated.1, true)
          else
            let s := gated.1.mscTouch g.die (line * 128) g.tenant 128 false no (f.ch == .stream)
            (if f.l1 then s.l1Fill g.die g.unit line (hintRank f.ch) else s, false)
      if f.ch == .last && !r.2 && g.seq.isNone then (r.1.dropL1 g.die (· == g.unit) pa 1, false) else r

/-- A lane's prefetch is performed, or waits. -/
def State.startFill (s : State) (f : Fill) : State :=
  let r := s.prefetch f
  if r.2 then { r.1 with nextId := r.1.nextId + 1, fills := r.1.fills ++ [{ f with id := r.1.nextId }] } else r.1

/-- A prefetch that waited is tried again. -/
def State.fill (s : State) (id : Nat) : State :=
  match s.fills.find? (·.id == id) with
  | none => s
  | some f =>
    let r := s.prefetch f
    if r.2 then r.1 else { r.1 with fills := r.1.fills.filter (·.id != id) }

def prefForm (s : State) (legal : Bool) (x : PrefOp) (l1 : Bool) :=
  issue s (lane legal x.h (addrSpan x.sp x.a) []) fun s who w _ act =>
    let addr := w.addr x.sp x.a x.off
    let g := s.agentOf who w
    match s.issueCheck g act 1 true false addr with
    | some t => .trap t.1 t.2.1 t.2.2
    | none => .done ((lanesOf act).foldl (fun s L => s.startFill ⟨0, g, l1, x.ch, addr L⟩) s)

def execPrefL1 (x : PrefOp) (s : State) := prefForm s (Instr.prefL1 x).legal x true
def execPrefMsc (x : PrefOp) (s : State) := prefForm s (Instr.prefMsc x).legal x false

def cctlSpec (word : BitVec 128) (op : AccOp) (addr : Nat → Nat) : AccSpec where
  op := op
  ty := .b32
  size := 1
  bw := true
  scope := .none
  sem := 0
  ch := .default
  word := word
  dreg := 0
  addr := addr
  data := fun _ => 0
  cmp := fun _ => 0

/-- INVL1 with ALL = 1 acts once for the warp (R192). -/
def execCctlInvl1 (x : CctlOp) (s : State) :=
  issue s (memForm (Instr.cctlInvl1 x).legal x.h (if x.all then [] else addrSpan x.sp x.a) [] .st) fun s who w _ act =>
    if x.all then
      if act = 0 then .done s
      else .done (s.enterAcc who w act .st [] (cctlSpec (Instr.cctlInvl1 x).word .invAll fun _ => 0) (lanesOf act).head?.toList)
    else accBody .st [] false (fun w => cctlSpec (Instr.cctlInvl1 x).word .invL1 (w.addr x.sp x.a x.off)) s who w act

def execCctlWbmsc (x : CctlOp) (s : State) :=
  issue s (memForm (Instr.cctlWbmsc x).legal x.h (addrSpan x.sp x.a) [] .st) fun s who w _ act =>
    accBody .st [] false (fun w => cctlSpec (Instr.cctlWbmsc x).word .wbMsc (w.addr x.sp x.a x.off)) s who w act

end Sys2Proof.Machine
end

