-- ==== Sys2Proof/Machine/IntArith.lean ====
section
/-! DEFINITION. Group 0x0_: INT, IMUL, IDIV, IDOT (R116 to R120). -/

namespace Sys2Proof.Machine

/-- The least and greatest value of an integer type. -/
def LTy.lo (ty : LTy) : Int := if ty.isSigned then -(2 ^ (ty.width - 1)) else 0
def LTy.hi (ty : LTy) : Int := if ty.isSigned then 2 ^ (ty.width - 1) - 1 else 2 ^ ty.width - 1

/-- sat(x, TY) (R7). -/
def LTy.sat (ty : LTy) (x : Int) : Int := if x < LTy.lo ty then LTy.lo ty else if LTy.hi ty < x then LTy.hi ty else x

/-- A register value read as an integer type. -/
def LTy.int (ty : LTy) (x : Nat) : Int := if ty.isSigned then signedOf ty.width x else ((x % 2 ^ ty.width : Nat) : Int)

/-- D := y mod 2^n with y saturated when SAT = 1 (R117). -/
def intResult (ty : LTy) (sat : Bool) (x : Int) : Nat := wrapInt ty.width (if sat then LTy.sat ty x else x)

/-- A lane form with a result of a type in D and condition codes when CC = 1. -/
def resultForm (s : State) (legal : Bool) (h : Hdr) (rd : List Nat) (n : Nat) (d : Reg) (cc : Bool)
    (f : Warp → Nat → Nat × CC) : Host.Outcome State Fault Refusal :=
  laneForm s (lane legal h rd (span n d)) fun w act =>
    (w.putD n d act fun L => (f w L).1).putCC cc act fun L => (f w L).2

/-- A lane form with a result in D and no condition codes. -/
def valueForm (s : State) (legal : Bool) (h : Hdr) (rd : List Nat) (n : Nat) (d : Reg) (f : Warp → Nat → Nat) :
    Host.Outcome State Fault Refusal :=
  laneForm s (lane legal h rd (span n d)) fun w act => w.putD n d act (f w)

/-- An INT form with two sources: the exact result and C and V from the unsigned and signed readings
of A, B and the incoming C (R117). -/
def intBin (s : State) (legal : Bool) (x : IntBin) (f : LTy → Nat → Nat → Nat → Int × Bool × Bool) :
    Host.Outcome State Fault Refusal :=
  resultForm s legal x.h (span x.ty.regs x.a ++ spanB x.ty.regs x.b) x.ty.regs x.d x.cc fun w L =>
    let r := f x.ty (w.src x.ty x.a L) (w.srcB x.ty x.b L) (if w.ccC.getLsbD L then 1 else 0)
    let d := intResult x.ty x.sat r.1
    (d, ccOf x.ty.width d r.2.1 r.2.2)

def intUn (s : State) (legal : Bool) (x : IntUn) (f : LTy → Nat → Int × Bool × Bool) :
    Host.Outcome State Fault Refusal :=
  resultForm s legal x.h (span x.ty.regs x.a) x.ty.regs x.d x.cc fun w L =>
    let r := f x.ty (w.src x.ty x.a L)
    let d := intResult x.ty x.sat r.1
    (d, ccOf x.ty.width d r.2.1 r.2.2)

/-- ADD and ADDC: a + b + ci (R117). -/
def addWith (ty : LTy) (a b ci : Nat) : Int × Bool × Bool :=
  let n := ty.width
  (LTy.int ty a + LTy.int ty b + ci, decide (2 ^ n ≤ a % 2 ^ n + b % 2 ^ n + ci),
    overflows n (signedOf n a + signedOf n b + ci))

/-- SUB and SUBB: a − b − ci (R117). -/
def subWith (ty : LTy) (a b ci : Nat) : Int × Bool × Bool :=
  let n := ty.width
  (LTy.int ty a - LTy.int ty b - ci, decide (a % 2 ^ n < b % 2 ^ n + ci),
    overflows n (signedOf n a - signedOf n b - ci))

def execIntAdd (x : IntBin) (s : State) := intBin s (Instr.intAdd x).legal x fun ty a b _ => addWith ty a b 0
def execIntAddc (x : IntBin) (s : State) := intBin s (Instr.intAddc x).legal x addWith
def execIntSub (x : IntBin) (s : State) := intBin s (Instr.intSub x).legal x fun ty a b _ => subWith ty a b 0
def execIntSubb (x : IntBin) (s : State) := intBin s (Instr.intSubb x).legal x subWith

def execIntNeg (x : IntUn) (s : State) := intUn s (Instr.intNeg x).legal x fun ty a =>
  (-signedOf ty.width a, a % 2 ^ ty.width != 0, signedOf ty.width a == -(2 ^ (ty.width - 1)))

def execIntAbs (x : IntUn) (s : State) := intUn s (Instr.intAbs x).legal x fun ty a =>
  ((signedOf ty.width a).natAbs, false, signedOf ty.width a == -(2 ^ (ty.width - 1)))

def execIntMin (x : IntBin) (s : State) := intBin s (Instr.intMin x).legal x fun ty a b _ =>
  (min (LTy.int ty a) (LTy.int ty b), false, false)

def execIntMax (x : IntBin) (s : State) := intBin s (Instr.intMax x).legal x fun ty a b _ =>
  (max (LTy.int ty a) (LTy.int ty b), false, false)

/-! IMUL (R118) -/

/-- The exact product of A and B read as the type. -/
def product (ty : LTy) (a b : Nat) : Int := LTy.int ty a * LTy.int ty b

def mul2 (s : State) (legal : Bool) (x : Typed2) (n : Nat) (f : LTy → Nat → Nat → Nat) :=
  valueForm s legal x.h (span x.ty.regs x.a ++ spanB x.ty.regs x.b) n x.d fun w L =>
    f x.ty (w.src x.ty x.a L) (w.srcB x.ty x.b L)

/-- A form with A, B and a C of `m` registers, and a D of `n` registers. -/
def mul3 (s : State) (legal : Bool) (x : Typed3) (m n : Nat) (f : LTy → Nat → Nat → Nat → Nat) :=
  valueForm s legal x.h (span x.ty.regs x.a ++ spanB x.ty.regs x.b ++ span m x.c) n x.d fun w L =>
    f x.ty (w.src x.ty x.a L) (w.srcB x.ty x.b L) (w.group m x.c.toNat L)

def execImulLo (x : Typed2) (s : State) := mul2 s (Instr.imulLo x).legal x x.ty.regs fun ty a b =>
  wrapInt ty.width (product ty a b)

def execImulHi (x : Typed2) (s : State) := mul2 s (Instr.imulHi x).legal x x.ty.regs fun ty a b =>
  wrapInt ty.width (product ty a b / 2 ^ ty.width)

def execImulWide (x : Typed2) (s : State) := mul2 s (Instr.imulWide x).legal x 2 fun ty a b =>
  wrapInt 64 (product ty a b)

def execImulMadlo (x : Typed3) (s : State) := mul3 s (Instr.imulMadlo x).legal x x.ty.regs x.ty.regs fun ty a b c =>
  wrapInt ty.width (product ty a b + LTy.int ty c)

def execImulMadhi (x : Typed3) (s : State) := mul3 s (Instr.imulMadhi x).legal x x.ty.regs x.ty.regs fun ty a b c =>
  wrapInt ty.width (product ty a b / 2 ^ ty.width + LTy.int ty c)

def execImulMadwide (x : Typed3) (s : State) := mul3 s (Instr.imulMadwide x).legal x 2 2 fun ty a b c =>
  wrapInt 64 (product ty a b + (if ty.isSigned then signedOf 64 c else (c : Int)))

/-! IDIV (R119) -/

/-- Quotient and remainder, truncated toward zero, with the results of R119 for b = 0. The most
negative number divided by −1 wraps to itself with remainder 0. -/
def idiv (ty : LTy) (a b : Nat) : Int × Int :=
  let x := LTy.int ty a
  let y := LTy.int ty b
  if y = 0 then (if ty.isSigned then -1 else 2 ^ ty.width - 1, x) else (x.tdiv y, x.tmod y)

def execIdivDiv (x : Typed2) (s : State) := mul2 s (Instr.idivDiv x).legal x x.ty.regs fun ty a b =>
  wrapInt ty.width (idiv ty a b).1

def execIdivRem (x : Typed2) (s : State) := mul2 s (Instr.idivRem x).legal x x.ty.regs fun ty a b =>
  wrapInt ty.width (idiv ty a b).2

/-! IDOT (R120) -/

/-- C plus the four byte products. -/
def dot4 (ty : LTy) (a b c : Nat) : Int :=
  let byte := fun (v k : Nat) => if ty.isSigned then signedOf 8 (v / 256 ^ k) else ((v / 256 ^ k % 256 : Nat) : Int)
  LTy.int ty c + byte a 0 * byte b 0 + byte a 1 * byte b 1 + byte a 2 * byte b 2 + byte a 3 * byte b 3

def execIdotDp4 (x : Dot4) (s : State) :=
  valueForm s (Instr.idotDp4 x).legal x.h (span 1 x.a ++ spanB 1 x.b ++ span 1 x.c) 1 x.d fun w L =>
    intResult x.ty x.sat (dot4 x.ty (w.src x.ty x.a L) (w.srcB x.ty x.b L) (w.src x.ty x.c L))

end Sys2Proof.Machine
end

