-- ==== Sys2Proof/Machine/Jobs.lean ====
section
/-! DEFINITION. Jobs and instances (R38 to R44, R339 to R359): the fields of a job card (R80), the
registers they depend on (R335, R336), events (R347, R348), dealing records (R39), and the ways in which
a run ends early: kill, watchdog, rollback, consumed errors (R355, R423, R431, R448 to R450). -/

namespace Sys2Proof.Machine

/-! ## Registers -/

/-- A Percolator register as it stands. -/
def State.csr (s : State) (d : DieId) (n : Nat) : Nat := (sget (csrDefault n) (s.die d).pcsr n : Word).toNat

def State.setCsr (s : State) (d : DieId) (n : Nat) (v : Word) : State :=
  let x := s.die d
  s.setDie d { x with pcsr := sset (csrDefault n) x.pcsr n v }

/-- Is a tenant enabled on a die (R336)? -/
def State.enabled (s : State) (d : DieId) (t : Nat) : Bool := bitAt (s.csr d (0x100 + 16 * t)) 0

def State.prio (s : State) (d : DieId) (t : Nat) : Nat := bits (s.csr d (0x100 + 16 * t)) 3 1

/-- The default budget of a tenant in ns (R336). -/
def State.dbud (s : State) (d : DieId) (t : Nat) : Nat :=
  let b := bits (s.csr d (0x100 + 16 * t)) 23 8
  (if b == 0 then 1000 else b) * 1000000

/-- Node ring q: descriptor VA, control and relative deadline (R357). -/
def State.qmd (s : State) (d : DieId) (q : Nat) : Nat := s.csr d (0x380 + 4 * q) + s.csr d (0x381 + 4 * q) * 2 ^ 32
def State.qmctl (s : State) (d : DieId) (q : Nat) : Nat := s.csr d (0x382 + 4 * q)
def State.qmdl (s : State) (d : DieId) (q : Nat) : Nat := s.csr d (0x383 + 4 * q)

/-- Submission ring r: descriptor VA and control (R339). -/
def State.srd (s : State) (d : DieId) (r : Nat) : Nat := s.csr d (0x200 + 4 * r) + s.csr d (0x201 + 4 * r) * 2 ^ 32
def State.srctl (s : State) (d : DieId) (r : Nat) : Nat := s.csr d (0x202 + 4 * r)

/-! ## Card fields (R80) -/

def Job.count (j : Job) : Nat := match j.batch with
  | some b => b.count
  | none => cardField j.card 255 224

def Job.minChunk (j : Job) : Nat := max 1 (cardField j.card 287 256)
def Job.blocks (j : Job) : Nat := if j.batch.isSome then 1 else cardField j.card 303 288
def Job.recs (j : Job) : Nat := cardField j.card 191 128
def Job.recSize (j : Job) : Nat := if j.batch.isSome then 64 else cardField j.card 223 192
def Job.maxDies (j : Job) : Nat := if j.batch.isSome then 1 else cardField j.card 38 37
def Job.minDies (j : Job) : Nat := if j.batch.isSome then 1 else cardField j.card 36 35
def Job.mayCkpt (j : Job) : Bool := j.card.getLsbD 34
def Job.mayKill (j : Job) : Bool := j.card.getLsbD 33
def Job.coop (j : Job) : Bool := j.card.getLsbD 32
def Job.period (j : Job) : Nat := cardField j.card 351 320
def Job.relDeadline (j : Job) : Nat := cardField j.card 383 352
def Job.drain (j : Job) : Nat := cardField j.card 479 448

/-- WAITk: event, valid, target. -/
def Job.wait (j : Job) (k : Nat) : Nat × Bool × Nat :=
  (cardField j.card (527 + 64 * k) (512 + 64 * k), j.card.getLsbD (528 + 64 * k), cardField j.card (575 + 64 * k) (544 + 64 * k))

/-- SIGk: event, valid. -/
def Job.sig (j : Job) (k : Nat) : Nat × Bool :=
  (cardField j.card (783 + 32 * k) (768 + 32 * k), j.card.getLsbD (784 + 32 * k))

/-- The budget of an instance in ns (R346, R359, R421). -/
def State.budgetOf (s : State) (j : Job) : Nat :=
  let own := match j.batch with
    | some b => s.qmdl b.die b.ring
    | none => cardField j.card 415 384
  if own == 0 then s.dbud j.die j.tenant else own

/-- The budget count of an instance (R421). -/
def State.budgetCount (s : State) (j : Job) (i : Inst) : Nat :=
  i.budgetUsed + match i.resSince with
    | some t => s.now j.die - t
    | none => 0

/-- Has the budget count of an instance reached its budget (R419)? -/
def State.budgetOut (s : State) (j : Job) (i : Inst) : Bool := decide (s.budgetOf j ≤ s.budgetCount j i)

/-! ## Events -/

/-- The home of an event (R347, R361). -/
def State.evHome (s : State) (e : BitVec 16) : DieId :=
  let d := e.getLsbD 15
  if s.absent d then !d else d

def Die.event? (x : Die) (e : BitVec 16) : Option EvEntry := x.events.find? (·.name == e)

/-- A wait of a job is satisfied: with the last one, its release time is fixed (R343). -/
def State.satisfy (s : State) (job k : Nat) : State :=
  match s.job? job with
  | none => s
  | some j =>
    let rest := j.open_.filter (· != k)
    s.setJob { j with open_ := rest, rel := if rest.isEmpty && j.rel.isNone then some (s.now j.die) else j.rel }

/-- Has a die stopped placing and admitting: its Percolator is halted, its firmware restarts, or it is being
updated (R457, R463)? -/
def State.paused (s : State) (d : DieId) : Bool :=
  let x := s.die d
  x.halted || (x.fw == .quiescing && !x.fwImage) || s.seqs.any fun q => q.1.die == d && !q.1.trivet && q.2.awaitBeat

/-- Test the waits of an event against its count (R348). While the firmware is away, no chained wait is tested
(R457). -/
def State.testWaits (s : State) (e : BitVec 16) : State :=
  let d := s.evHome e
  match (s.die d).event? e with
  | none => s
  | some v =>
    let hit := fun (w : Nat × Nat × Nat) => decide (w.2.2 ≤ v.count.toNat)
    let x := s.die d
    let due := v.waits ++ if s.paused d then [] else v.chained
    let kept := (v.waits ++ v.chained).filter fun w => !(due.contains w && hit w)
    let s := s.setDie d { x with events := x.events.map fun c =>
      if c.name == e then { v with waits := kept.take 16, chained := kept.drop 16 } else c }
    (due.filter hit).foldl (fun s w => s.satisfy w.1 w.2.1) s

/-- Waits that stood while the firmware was away are tested again (R457). -/
def State.retest (s : State) (d : DieId) : State :=
  if s.paused d then s else ((s.die d).events.filter fun e => !e.chained.isEmpty).foldl (fun s e => s.testWaits e.name) s

/-- Make an event live with count 0; `none` when its table holds 8192 entries (R347). -/
def State.liven (s : State) (e : BitVec 16) : Option State :=
  let d := s.evHome e
  let x := s.die d
  if (x.event? e).isSome then some s
  else if x.events.length ≥ 8192 then none
  else some (s.setDie d { x with events := x.events ++ [⟨e, 0, [], []⟩] })

/-- Add to an event's count modulo 2^32 and test its waits; `none` when the table is full (R206, R347). -/
def State.signal (s : State) (e : BitVec 16) (by_ : Nat) : Option State :=
  (s.liven e).map fun s =>
    let d := s.evHome e
    let x := s.die d
    (s.setDie d { x with events := x.events.map fun c =>
      if c.name == e then { c with count := c.count + BitVec.ofNat 32 by_ } else c }).testWaits e

/-- List a wait on an event: 16 inline, further ones chained (R348). -/
def State.listWait (s : State) (e : BitVec 16) (w : Nat × Nat × Nat) : Option State :=
  (s.liven e).map fun s =>
    let d := s.evHome e
    let x := s.die d
    (s.setDie d { x with events := x.events.map fun c =>
      if c.name == e then
        if c.waits.length < 16 then { c with waits := c.waits ++ [w] } else { c with chained := c.chained ++ [w] }
      else c }).testWaits e

/-! ## Dealing records (R39) -/

/-- Does a die withdraw from a launch: for every launch (R360), or from this one (R41)? -/
def State.leavesLaunch (s : State) (job inst : Nat) (d : DieId) : Bool :=
  (s.die d).withdrawing || ((s.job? job).bind fun j => j.inst? inst).any fun i => i.leaving == some d

/-- The blocks of a launch resident on dies that are not withdrawing. -/
def State.residents (s : State) (job inst : Nat) : Nat :=
  (s.blocks.filter fun b => b.job == job && b.inst == inst && !s.leavesLaunch job inst b.die).length

/-- One chunk: its first record, its count, and what remains. -/
def chunk (records minChunk residents remaining : Nat) : Nat × Nat × Nat :=
  let n := min (max minChunk (ceilDiv remaining (2 * residents))) remaining
  (records - remaining, n, remaining - n)

/-! ## Retiring a batch (R424, R450) -/

/-- Retire the positions of a batch that are not retired yet; a page to be repaired holds the retirement back (R399). -/
def State.retireBatch (s : State) (tenant : Nat) (b : Batch) : State :=
  let g := percAgent b.on tenant
  let wait := fun (s : State) (p r c : Nat) =>
    if r == 1 && s.refused g (p * 65536) ⟨true, true, false⟩ then s else s.holdFor 0xFFFF b.on g (.retire tenant b) p r c
  let gated := s.gate g b.desc true
  if gated.2 then gated.1.queueItem b.on (.retire tenant b) else
  match s.ringAt g b.desc with
  | (s, .ok r) =>
    let m := s.marks (s.ringKey g b.desc)
    let ps := (rangeFrom b.pos b.count).filter fun p => decide (r.retire ≤ p) && !m.retires.contains p
    let q := retireMarks r m ps
    match s.putRing g b.desc q.1 r.system with
    | (s, .ok ()) => s.setMarks q.2 q.1.commit
    | (s, .park p r c) => wait s p r c
    | (s, _) => s
  | (s, .park p r c) => wait s p r c
  | (s, _) => s

/-! ## The ready queue (R349, R350) -/

/-- Does an instance have context records? -/
def State.hasCtx (s : State) (job inst : Nat) : Bool := s.ctxRecs.any fun c => c.job == job && c.inst == inst

/-- Has an instance requested blocks not yet placed (R40, R349)? -/
def State.wants (s : State) (j : Job) (i : Inst) : Bool :=
  !j.gone && !j.cancelled && !i.stopped && s.enabled j.die j.tenant &&
    (!i.first || s.hasCtx j.id i.no ||
      (j.batch.isNone && decide (0 < i.remaining) && decide ((s.blocksOf j.id i.no).length < j.blocks)))

/-- Is a deadline earlier than another? No deadline ranks last (R343). -/
def earlierDl : Option Nat → Option Nat → Bool
  | some a, some b => decide (a < b)
  | some _, none => true
  | none, _ => false

/-- The order of R350: the earlier deadline, the higher PRIO, the earlier release, the lower job number. -/
def State.ranksFirst (s : State) (a b : Job × Inst) : Bool :=
  if a.2.deadline != b.2.deadline then earlierDl a.2.deadline b.2.deadline
  else
    let pa := s.prio a.1.die a.1.tenant
    let pb := s.prio b.1.die b.1.tenant
    if pa != pb then decide (pb < pa)
    else if a.2.rel != b.2.rel then decide (a.2.rel < b.2.rel)
    else if a.1.no != b.1.no then decide (a.1.no < b.1.no) else decide (a.1.id < b.1.id)

/-- Insert an instance into an ordered queue. -/
def State.intoQueue (s : State) (x : Job × Inst) : List (Job × Inst) → List (Job × Inst)
  | [] => [x]
  | y :: l => if s.ranksFirst x y then x :: y :: l else y :: s.intoQueue x l

/-- The ready queue in its order. -/
def State.queue (s : State) : List (Job × Inst) :=
  (s.jobs.flatMap fun j => (j.insts.filter (s.wants j)).map fun i => (j, i)).foldl (fun q x => s.intoQueue x q) []

/-- Note since when the first job of the queue has been first (R352). -/
def State.noteFirst (s : State) : State :=
  let top := s.queue.head?.map fun x => x.1.id
  { s with jobs := s.jobs.map fun (j : Job) =>
      if some j.id == top then { j with firstSince := some (j.firstSince.getD (s.now j.die)) } else { j with firstSince := none } }

/-! ## Early ends of a run -/

/-- Stop a run: its blocks stop at once, its context records go, its staged writes are discarded and PUB
is written back (R397, R448, R465, R223). -/
def State.stopRun (s : State) (job inst : Nat) : State :=
  let s := (s.stopBlocks (s.blocksOf job inst)).dropCtx job inst
  match s.job? job with
  | none => s
  | some j =>
    let s := s.restoreStage j inst
    match s.job? job with
    | some j => s.writePub j
    | none => s

/-- An instance starts over: every record is dealt again (R355). -/
def State.requeue (s : State) (job inst : Nat) : State :=
  match s.job? job with
  | none => s
  | some j =>
    match j.inst? inst with
    | none => s
    | some i =>
      (s.setJob { (j.setInst { i with first := false, remaining := j.count }) with
        batch := j.batch.map fun b => { b with dealt := false } }).noteFirst

/-- Kill an instance and return it to the ready queue (R355). -/
def State.killInst (s : State) (job inst : Nat) : State :=
  let s := s.stopRun job inst
  let s := match s.job? job with
    | some j => match j.inst? inst with
      | some i => s.setJob (j.setInst { i with kills := i.kills + 1 })
      | none => s
    | none => s
  (s.requeue job inst).endRun job inst

/-- End an instance for good with a STATUS; an aperiodic job leaves (R344, R423, R441). -/
def State.endInst (s : State) (job inst status : Nat) : State :=
  let s := s.stopRun job inst
  match s.job? job with
  | none => s
  | some j =>
    let s := match j.batch with
      | some b => s.retireBatch j.tenant b
      | none => s.owe job inst status
    let s := s.endRun job inst
    match s.job? job with
    | none => s
    | some j =>
      if j.period == 0 || j.batch.isSome then s.leave job
      else match j.inst? inst with
        | some i => s.setJob (j.setInst { i with stopped := true })
        | none => s

/-- Post a kind 10 record (R443). -/
def State.post10 (s : State) (j : Job) (inst count cause : Nat) : State :=
  s.post j.die j.tenant [word0 10 j.tenant j.die (if j.batch.isSome then 0xFFFF else j.no) (count + cause * 256), inst % 2 ^ 32, s.now j.die] 0 0

/-- Roll an instance back, or fault its job where R449 says so. `record` posts the cause's record and is
told whether the instance is rolled back (R448 to R450). -/
def State.rollback (s : State) (job inst cause : Nat) (record : Bool → State → State) : State :=
  match s.job? job with
  | none => s
  | some j =>
    if j.gone then s
    else
      match j.batch, j.inst? inst with
      | some b, _ =>
        let s := record true (s.stopRun job inst)
        if b.tries < 2 then
          let s := (s.post10 j inst (b.tries + 1) cause).requeue job inst
          match s.job? job with
          | some j => s.setJob { j with batch := j.batch.map fun b => { b with tries := b.tries + 1 } }
          | none => s
        else ((((s.retireBatch j.tenant b).post10 j inst 3 cause).endRun job inst).leave job)
      | none, some i =>
        if j.mayKill && !i.switched && i.rollbacks < 3 then
          let s := (record true (s.stopRun job inst)).post10 j inst (i.rollbacks + 1) cause
          let s := s.requeue job inst
          match s.job? job with
          | some j => match j.inst? inst with
            | some i => s.setJob (j.setInst { i with rollbacks := i.rollbacks + 1 })
            | none => s
          | none => s
        else s.faultJob job (record false)
      | none, none => s.faultJob job (record false)

/-! ## Counts that spare a core (R431, R455, R461) -/

/-- A Trivet register as it stands (R455). PWRLIM has no reset value in the manual (entry 2). -/
def tcsrDefault (n : Nat) : Word :=
  if n == 0x100 then 450 else if n == 0x110 then 64 else if n == 0x111 then 4 else if n == 0x112 then 3 else 0

def Die.tcsrAt (x : Die) (n : Nat) : Nat := (sget (tcsrDefault n) x.tcsr n : Word).toNat

/-- The entries of a number in a list of (number, time), within the last 24 hours. -/
def inDay (l : List (Nat × Nat)) (n now : Nat) : Nat := (l.filter fun e => e.1 == n && decide (now < e.2 + 86400000000000)).length

/-- Mark cores for sparing (R461): nothing further is placed on them. -/
def Die.markCores (x : Die) (l : List Nat) : Die :=
  { x with marked := x.marked ++ l.filter fun c => !x.marked.contains c && !x.retired.contains c }

/-- Add failing elements to the datapath-check count of a core (R402), which marks the core when it reaches
DPTHR (R461). -/
def State.countCheck (s : State) (d : DieId) (core n : Nat) : State :=
  let x := s.die d
  let l := x.dpCount ++ List.replicate n (core, x.dtime)
  let thr := x.tcsrAt 0x111
  let x : Die := { x with dpCount := l }
  s.setDie d (if thr != 0 && decide (thr ≤ inDay l core x.dtime) then x.markCores [core] else x)

/-- A kind 4 record of an error that a job consumed, to a tenant (R431, R432). -/
def State.post4 (s : State) (j : Job) (t array w1 : Nat) : State :=
  s.post j.die t [word0 4 t j.die j.no (array * 2 ^ 24 + 2 ^ 16), w1, s.now j.die, j.tenant] 0 0

/-- A job consumes an uncorrectable error of a local array: array 3 vault, 4 scratchpad, 5 accumulator
store (R431, R448). One of a core's own arrays adds to the count that decides whether the core is spared. -/
def State.consume (s : State) (d : DieId) (job inst array core offset : Nat) : State :=
  match s.job? job with
  | none => s
  | some j => (if array == 3 then s else s.countCheck d core 1).rollback job inst 1 fun _ s =>
    let w1 := offset % 2 ^ 32 + core % 256 * 2 ^ 32
    let s := s.post4 j j.tenant array w1
    if j.tenant == 0 then s else s.post4 j 0 array w1

/-- Where the error of a local location lies: its array, its core or vault, and its byte offset in the array (R432). -/
def State.arrayOf (s : State) (l : Nat) : Nat × Nat × Nat :=
  let k := s.physKey l
  if k < 2 ^ 45 then
    let x := k - 2 ^ 44
    (3, x / 2 ^ 25 % 64, x % 2 ^ 25)
  else if k < 2 ^ 45 + 2 ^ 41 then
    let x := k - (2 ^ 45 + 2 ^ 40)
    (4, x / 2 ^ 21 % 64, x % 2 ^ 21)
  else
    let x := k - (2 ^ 45 + 2 ^ 41)
    (5, x / 2 ^ 23 % 64, x % 2 ^ 23)

/-- The first byte of a range that lies in an uncorrectable word, the range's start where there is none. -/
def State.badByte (s : State) (l n : Nat) : Nat := ((rangeFrom l n).find? fun a => s.bad.contains (s.physKey a / 8)).getD l

/-- What a job's access, engine or operation meets outside a replay: an absent home, an uncorrectable
error, or another failure. `agent` is the agent of R398, and `w` the block it serves. -/
def State.accessFault (s : State) (block agent core : Nat) (g : Agent) (failed : Got Unit) : State :=
  match s.block? block with
  | none => s
  | some b =>
    match failed with
    | .ok () => s
    | .park .. => s
    | .offline va d => s.faultAccess b.job 1 agent va d 0
    | .bad l => let a := s.arrayOf l
      s.consume b.die b.job b.inst a.1 a.2.1 a.2.2
    | .fail va => s.faultEngine b.job 2 agent va b.no (if g.unit < 48 then g.unit else core) 0

/-! ## Parking several accesses at once (R400) -/

/-- Park accesses that met their faults in one step: they all belong to their pending entries before
the records are posted. -/
def State.parkAll (s : State) (g : Agent) (agent : Nat) (l : List (Waiter × Nat × Nat × Nat)) : State :=
  match l with
  | [] => s
  | _ :: _ =>
    let s := { s with parks := s.parks ++ l.map fun p => ⟨p.1, g.die, g.tenant, p.2.1, p.2.2.1, p.2.2.2⟩ }
    l.foldl (fun s p =>
      if s.pendq.contains (g.die, g.tenant, p.2.1, p.2.2.1) then s
      else
        { s with pendq := s.pendq ++ [(g.die, g.tenant, p.2.1, p.2.2.1)] }.post g.die g.tenant
          [word0 1 g.tenant g.die (s.jobNoOf g.job) (p.2.2.1 * 2 ^ 24 + agent * 2 ^ 16), p.2.1 * 65536, s.now g.die]
          p.2.1 p.2.2.1) s

end Sys2Proof.Machine
end

