-- ==== Sys2Proof/Machine/Datapath.lean ====
section
/-! DEFINITION. The datapath check of the lane floating-point units (R115, R402), driven by the soft
errors that State's input `upsets` lists, and the shape of every checked form. -/

namespace Sys2Proof.Machine

/-- The format of a checked result: a floating format, or an integer of a width. -/
inductive Dest where
  | flt (f : FFmt)
  | int (signed : Bool) (n : Nat)
  deriving DecidableEq, Repr

/-- The unbiased exponent of a finite value, zeros and subnormals at the format's least (R402). -/
def expOf (f : FFmt) (m : Nat) (e : Int) : Int :=
  if m == 0 then 1 - f.bias else max ((topBit m : Int) + e) (1 - f.bias)

/-- A finite value cut to its top p fraction bits (R402), as a signed multiple of 2^q. -/
def cutTo (f : FFmt) (p : Nat) (s : Bool) (m : Nat) (e : Int) (q : Int) : Int :=
  let g := expOf f m e - p
  let n := if g ≤ e then m * 2 ^ (e - g).toNat else m / 2 ^ (g - e).toNat
  let v : Int := (n : Int) * 2 ^ (g - q).toNat
  if s then -v else v

/-- Does the written code r pass against the value s that the shadow unit keeps of the right result
(R402)? -/
def passesFlt (f : FFmt) (right written : Nat) : Bool :=
  let p := min 8 f.T
  match f.decode right, f.decode written with
  | .nan, .nan => true
  | .nan, _ => false
  | _, .nan => false
  | .inf a, .inf b => a == b
  | .inf _, .fin .. => false
  | .fin s m e, .inf b =>
    -- |s| ≥ MAX (1 − 2^−p)
    let mx := f.magOf f.maxCode
    let q := expOf f m e - p
    let n := if q ≤ e then m * 2 ^ (e - q).toNat else m / 2 ^ (q - e).toNat
    s == b && cmpScaled (n * 2 ^ p) q (mx.1 * (2 ^ p - 1)) mx.2 != .lt
  | .fin s m e, .fin t n g =>
    let q := min (expOf f m e) (expOf f n g) - p
    let d := (cutTo f p t n g q - cutTo f p s m e q).natAbs
    decide (d ≤ 2 ^ (max (expOf f m e) (expOf f n g) - p - q).toNat)

/-- The check of an integer result (R402): the shadow keeps the sign and the top 8 bits below the
highest. -/
def passesInt (signed : Bool) (n right written : Nat) : Bool :=
  let val : Nat → Int := fun x => if signed then signedOf n x else ((x % 2 ^ n : Nat) : Int)
  let a := (val right).natAbs
  let g := topBit a - 8
  let k : Int := (a / 2 ^ g * 2 ^ g : Nat)
  let sh : Int := if val right < 0 then -k else k
  let m := topBit (max (val written).natAbs sh.natAbs)
  decide ((val written - sh).natAbs ≤ 2 ^ (m - 8))

def Dest.passes (d : Dest) (right written : Nat) : Bool :=
  match d with
  | .flt f => passesFlt f right written
  | .int s n => passesInt s n right written

/-- The bits of an element of a result. -/
def Dest.bits : Dest → Nat
  | .flt f => f.bits
  | .int _ n => n

/-- Element k of a packed value of w-bit elements. -/
def elemOf (w v k : Nat) : Nat := v / 2 ^ (w * k) % 2 ^ w

/-- The shape of a checked result: `count` elements of a format, one every `stride` bits, and how a
narrow result fills its register. -/
structure Checked where
  dst : Dest
  count : Nat
  stride : Nat
  fill : Nat → Nat

/-- Element k of a result. -/
def Checked.at (c : Checked) (v k : Nat) : Nat := v / 2 ^ (c.stride * k) % 2 ^ c.dst.bits

/-- The elements of a result that fail. -/
def Checked.failing (c : Checked) (right written : Nat) : List Nat :=
  (List.range c.count).filter fun k => !c.dst.passes (c.at right k) (c.at written k)

/-- A result with bits of its elements inverted. -/
def Checked.strike (c : Checked) (v flip : Nat) : Nat :=
  c.fill (v ^^^ (List.range c.count).foldl (fun a k => a + c.at flip k * 2 ^ (c.stride * k)) 0)

/-- The soft errors that strike lanes of `act` of a warp's next checked result. -/
def State.strikes (s : State) (who : Issuer) (act : Mask) : List (Nat × Nat) :=
  s.upsets.filterMap fun u => match u with
    | .lane w L f => if w == who && act.getLsbD L then some (L, f) else none
    | .row .. => none

def State.spend (s : State) (who : Issuer) (act : Mask) : State :=
  { s with upsets := s.upsets.filter fun u => match u with
    | .lane w L _ => !(w == who && act.getLsbD L)
    | .row .. => true }

/-- A form whose results, of `n` registers a lane, the shadow units check. A failing lane takes the DATAPATH trap before anything is written (R115). g2
has two bits for the element: of an index of 4 to 7 (eight int4 elements) the low two (entry 79). A sequencer's failing
check belongs to no core's count. -/
def checkedForm (s : State) (legal : Bool) (h : Hdr) (rd : List Nat) (n : Nat) (d : Reg) (cc : Bool) (c : Checked)
    (f : Warp → Nat → Nat) (code : Nat → CC) : Host.Outcome State Fault Refusal :=
  issue s (lane legal h rd (span n d)) fun s who w _ act =>
    match s.strikes who act with
    | [] => .done (s.setWarp who ((w.putD n d act (f w)).putCC cc act fun L => code (f w L)))
    | hits =>
      let written := fun L => match alook L hits with
        | some x => c.strike (f w L) x
        | none => f w L
      let bad := fun L => c.failing (f w L) (written L)
      let lanes := maskOf fun L => act.getLsbD L && !(bad L).isEmpty
      let s := s.spend who act
      if lanes = 0 then
        .done (s.setWarp who ((w.putD n d act written).putCC cc act fun L => code (written L)))
      else
        let total := (lanesOf lanes).foldl (fun a L => a + (bad L).length) 0
        .trapIn (match who with
          | .warp .. => s.countCheck (s.dieOf who) w.core total
          | .seq _ => s) 0x08 lanes (((lowLane lanes).map fun L => (bad L).headD 0).getD 0 % 4)

end Sys2Proof.Machine
end

