-- ==== Sys2Proof/Machine/Sfu.lean ====
section
/-! DEFINITION. The special functions of SFU (R136, R137): the exact real value, rounded once.
Algebraic functions are decided exactly; the others by bounds on a fixed-point grid that are refined
until both bounds round alike. -/

namespace Sys2Proof

/-- Floor square root, by bits. -/
def isqrtAux (n : Nat) : Nat → Nat → Nat
  | 0, r => r
  | k + 1, r =>
    let t := r + 2 ^ k
    isqrtAux n k (if t * t ≤ n then t else r)

def isqrt (n : Nat) : Nat := isqrtAux n (n.log2 / 2 + 1) 0

/-- √(m · 2^e) for m > 0. -/
def sqrtMag (m : Nat) (e : Int) : Mag :=
  let k : Nat := 160 + (if (e - 160) % 2 == 0 then 0 else 1)
  let n := m * 2 ^ k
  let r := isqrt n
  ⟨r, (e - k) / 2, r * r != n⟩

/-- 1 / (m · 2^e) for m > 0. -/
def rcpMag (m : Nat) (e : Int) : Mag :=
  let k := 2 * m.log2 + 160
  ⟨2 ^ k / m, -e - k, 2 ^ k % m != 0⟩

/-- a / b for b > 0, as a magnitude. -/
def divMag (a b : Nat) : Mag :=
  let k := b.log2 + 160
  ⟨a * 2 ^ k / b, -(k : Int), a * 2 ^ k % b != 0⟩

/-- 1 / √(m · 2^e) for m > 0. -/
def rsqMag (m : Nat) (e : Int) : Mag :=
  let k : Nat := 2 * (m.log2 + 160) + (if e % 2 == 0 then 0 else 1)
  let t := 2 ^ k / m
  let r := isqrt t
  ⟨r, (-e - k) / 2, r * r * m != 2 ^ k⟩

/-! Fixed-point series. A number x stands for x / 2^n. Every function returns a value whose error is
at most its number of terms, which the callers bound by 2^16. -/

/-- The terms x^k / k! from a given term on: `t` is the current term, `k` its index. -/
def expAux (n : Nat) (x : Int) : Nat → Nat → Int → Int
  | 0, _, _ => 0
  | fuel + 1, k, t => if t == 0 then 0 else t + expAux n x fuel (k + 1) (t * x / 2 ^ n / (k + 1))

/-- e^x − 1 for |x| ≤ 1. -/
def expm1Fix (n : Nat) (x : Int) : Int := expAux n x n 1 x

/-- The series of atanh: z + z³/3 + …, with z² given. -/
def atanhAux (n : Nat) (z2 : Int) : Nat → Nat → Int → Int
  | 0, _, _ => 0
  | fuel + 1, k, p => if p == 0 then 0 else p / k + atanhAux n z2 fuel (k + 2) (p * z2 / 2 ^ n)

def atanhFix (n : Nat) (z : Int) : Int := atanhAux n (z * z / 2 ^ n) n 1 z

/-- ln 2 = 2 atanh(1/3). -/
def ln2Fix (n : Nat) : Int := 2 * atanhFix n (2 ^ n / 3)

/-- The series of arctan(1/q). -/
def atanInvAux (n q2 : Nat) : Nat → Nat → Int → Int
  | 0, _, _ => 0
  | fuel + 1, k, p => if p == 0 then 0 else p / k - atanInvAux n q2 fuel (k + 2) (p / q2)

/-- π by Machin's formula. -/
def piFix (n : Nat) : Int :=
  4 * (4 * atanInvAux n 25 n 1 (2 ^ n / 5) - atanInvAux n 57121 n 1 (2 ^ n / 239))

/-- The series of sine or cosine from a term on: t · x² / ((k+1)(k+2)), signs alternating. -/
def trigAux (n : Nat) (x2 : Int) : Nat → Nat → Int → Int
  | 0, _, _ => 0
  | fuel + 1, k, t => if t == 0 then 0 else t - trigAux n x2 fuel (k + 2) (t * x2 / 2 ^ n / ((k + 1) * (k + 2)))

def sinFix (n : Nat) (x : Int) : Int := trigAux n (x * x / 2 ^ n) n 1 x
def cosFix (n : Nat) (x : Int) : Int := trigAux n (x * x / 2 ^ n) n 0 (2 ^ n)

/-- m · 2^e on the grid of n bits, rounded down. -/
def toFix (n : Nat) (m : Nat) (e : Int) : Nat :=
  if 0 ≤ e + n then m * 2 ^ (e + n).toNat else m / 2 ^ (-(e + n)).toNat

/-- A value whose error is at most 2^20 on a grid of n + 32 bits, as a magnitude on n bits, when
both bounds have the same floor and enough bits. -/
def settle (n : Nat) (x : Int) (e : Int) : Option Mag :=
  let lo := (x - 2 ^ 20) / 2 ^ 32
  let hi := (x + 2 ^ 20) / 2 ^ 32
  if lo == hi && 2 ^ 70 ≤ lo then some ⟨lo.toNat, e - n, true⟩ else none

/-- The first precision that settles. -/
def refine (f : Nat → Option Mag) : List Nat → Option Mag
  | [] => none
  | n :: l => match f n with
    | some m => some m
    | none => refine f l

def precisions : List Nat := [128, 256, 512, 1024]

/-- A magnitude just above one: 1 + δ. -/
def magAbove1 : Mag := ⟨2 ^ 80, -80, true⟩

/-- A magnitude just below one. -/
def magBelow1 : Mag := ⟨2 ^ 80 - 1, -80, true⟩

/-- A magnitude just below m · 2^e, by less than a 2^10th part of 2^e: SIN and TANH of an argument below 2^-20, which fall
short of it by at most a 2^41st part. -/
def magBelow (m : Nat) (e : Int) : Mag := ⟨m * 2 ^ 10 - 1, e - 10, true⟩

/-- 2^a for a finite a that is not whole. -/
def ex2Mag (neg : Bool) (m : Nat) (e : Int) : Option Mag :=
  if 8 < (topBit m : Int) + e then
    some (if neg then ⟨2 ^ 80, -480, true⟩ else ⟨2 ^ 80, 300, true⟩)
  else if (topBit m : Int) + e < -40 then some (if neg then magBelow1 else magAbove1)
  else
    refine (fun n =>
      let w := n + 32
      let x : Int := if neg then -(toFix w m e : Int) else toFix w m e
      let i := x / 2 ^ w
      let f := x % 2 ^ w
      settle n (2 ^ w + expm1Fix w (f * ln2Fix w / 2 ^ w)) i) precisions

/-- log2 of m · 2^e, which is no power of two: sign and magnitude. -/
def lg2Mag (m : Nat) (e : Int) : Option (Bool × Mag) :=
  let k := topBit m
  -- the significand lies in [3/4, 3/2)
  let up := 3 * 2 ^ k ≤ 2 * m
  let E : Int := (k : Int) + e + (if up then 1 else 0)
  let g (n : Nat) : Int :=
    let w := n + 32
    let s : Int := toFix w m (-(k : Int) - (if up then 1 else 0))
    let z := (s - 2 ^ w) * 2 ^ w / (s + 2 ^ w)
    E * 2 ^ w + 2 * atanhFix w z * 2 ^ w / ln2Fix w
  let neg := E < 0 || (E == 0 && up)
  (refine (fun n => settle n (if neg then -(g n) else g n) 0) precisions).map fun x => (neg, x)

/-- Sine or cosine of m · 2^e: sign and magnitude. The argument is reduced by a multiple of π/2; a small one, for which the
terms of the series can be whole on every grid, is decided by its first terms: x − x³/6 < sin x < x and
1 − x²/2 < cos x < 1. -/
def trigMag (cos : Bool) (m : Nat) (e : Int) : Option (Bool × Mag) :=
  if (topBit m : Int) + e < -20 then some (false, if cos then magBelow1 else magBelow m e)
  else
    let go (n : Nat) : Option (Bool × Mag) :=
      let w := n + 32
      let v := w + 140
      let x : Int := toFix v m e
      let p := piFix v
      let q := (2 * x + p / 2) / p
      let r := (x - q * p / 2) / 2 ^ 140
      let j := (q + (if cos then 1 else 0)) % 4
      let y := if j % 2 == 0 then sinFix w r else cosFix w r
      let y := if 2 ≤ j then -y else y
      let neg := y < 0
      (settle n (if neg then -y else y) 0).map fun mg => (neg, mg)
    let rec first : List Nat → Option (Bool × Mag)
      | [] => none
      | n :: l => match go n with
        | some a => some a
        | none => first l
    first precisions

/-- |tanh| of m · 2^e; of a small argument by x − x³/3 < tanh x < x. From 16 on it falls short of 1 by less than 2^-44,
which rounds as any shortfall below the half of 2^-24 does. -/
def tanhMag (m : Nat) (e : Int) : Option Mag :=
  if 4 ≤ (topBit m : Int) + e then some magBelow1
  else if (topBit m : Int) + e < -20 then some (magBelow m e)
  else
    refine (fun n =>
      let w := n + 32 + 512
      let y : Int := toFix w m (e + 1)
      let l := ln2Fix w
      let k := y / l
      let u := expm1Fix w (y % l)
      -- e^y − 1 = 2^k (1 + u) − 1
      let ex := (2 ^ w + u) * 2 ^ k.toNat - 2 ^ w
      settle n (ex * 2 ^ (n + 32) / (ex + 2 * 2 ^ w)) 0) precisions

/-- The eight functions, in the order of FN (R136). -/
inductive SfuFn where
  | rcp | rsq | sqrt | ex2 | lg2 | sin | cos | tanh
  deriving DecidableEq, Repr

/-- Round a magnitude to FP32, or take a free value where the bounds did not settle (entry 6). -/
def sfuRound (fn : SfuFn) (rm : Rm) (a : Word) (r : Option (Bool × Mag)) : Word :=
  match r with
  | some (neg, x) => BitVec.ofNat 32 (FFmt.f32.round rm false neg x)
  | none => Config.sfuUnresolved (match fn with
      | .rcp => 0 | .rsq => 1 | .sqrt => 2 | .ex2 => 3 | .lg2 => 4 | .sin => 5 | .cos => 6 | .tanh => 7) a

/-- SFU of one lane (R136, R137). -/
def sfuOf (fn : SfuFn) (rm : Rm) (a : Word) : Word :=
  let put (v : Fv) : Word := rndF32 rm v
  match f32v a with
  | .nan => put .nan
  | .inf s =>
    match fn with
    | .rcp => put (.fin s 0 0)
    | .rsq => put (if s then .nan else .fin false 0 0)
    | .sqrt => put (if s then .nan else .inf false)
    | .ex2 => put (if s then .fin false 0 0 else .inf false)
    | .lg2 => put (if s then .nan else .inf false)
    | .sin | .cos => put .nan
    | .tanh => put (.fin s 1 0)
  | .fin s m e =>
    if m == 0 then
      match fn with
      | .rcp | .rsq => put (.inf s)
      | .sqrt | .sin | .tanh => put (.fin s 0 0)
      | .ex2 | .cos => put (.fin false 1 0)
      | .lg2 => put (.inf true)
    else
      match fn with
      | .rcp => sfuRound fn rm a (some (s, rcpMag m e))
      | .rsq => if s then put .nan else sfuRound fn rm a (some (false, rsqMag m e))
      | .sqrt => if s then put .nan else sfuRound fn rm a (some (false, sqrtMag m e))
      | .ex2 =>
        let low := if 0 ≤ e then 0 else m % 2 ^ (-e).toNat
        if low == 0 then
          let n := if 0 ≤ e then m * 2 ^ (min e 20).toNat else m / 2 ^ (-e).toNat
          let n : Int := (min n 1000 : Nat)
          put (.fin false 1 (if s then -n else n))
        else sfuRound fn rm a ((ex2Mag s m e).map fun x => (false, x))
      | .lg2 =>
        if s then put .nan
        else if m == 2 ^ topBit m then put (.ofInt ((topBit m : Int) + e))
        else sfuRound fn rm a (lg2Mag m e)
      | .sin => sfuRound fn rm a ((trigMag false m e).map fun x => (x.1 != s, x.2))
      | .cos => sfuRound fn rm a (trigMag true m e)
      | .tanh => sfuRound fn rm a ((tanhMag m e).map fun x => (s, x))

end Sys2Proof
end

