-- ==== Sys2Proof/Machine/Float.lean ====
section
/-! DEFINITION. Group 0x3_ and group 0x4_: FARITH, FMISC, DARITH, SFU (R131 to R137). -/

namespace Sys2Proof.Machine

/-- How many elements a value of the type holds (R133). -/
def LTy.elems (ty : LTy) : Nat := if ty.isPacked then 2 else 1

/-- Apply an operation to each element of packed values (R131). -/
def perElem (ty : LTy) (f : Nat → Nat) : Nat :=
  if ty.isPacked then f 0 + f 1 * 2 ^ 16 else f 0

/-- Element k of a value of the type. -/
def LTy.elem (ty : LTy) (v k : Nat) : Fv := ty.ffmt.decode (elemOf ty.ffmt.bits v k)

/-- A floating form of a type: checked, with the floating condition codes (R115, R133). -/
def fltForm (s : State) (legal : Bool) (h : Hdr) (rd : List Nat) (ty : LTy) (d : Reg) (cc : Bool) (f : Warp → Nat → Nat) :
    Host.Outcome State Fault Refusal :=
  checkedForm s legal h rd ty.regs d cc ⟨.flt ty.ffmt, LTy.elems ty, ty.ffmt.bits, id⟩ f (ccFloat ty.ffmt)

/-- Two sources, rounded once into the element's format with saturation off (R131). -/
def flt2 (s : State) (legal : Bool) (x : Flt2) (f : Rm → Fv → Fv → Fv) :=
  fltForm s legal x.h (span x.ty.regs x.a ++ spanB x.ty.regs x.b) x.ty x.d x.cc fun w L =>
    let a := w.src x.ty x.a L
    let b := w.srcB x.ty x.b L
    perElem x.ty fun k => x.ty.ffmt.encode x.rm false (f x.rm (LTy.elem x.ty a k) (LTy.elem x.ty b k))

/-- a × b + c, rounded once (R131). -/
def fltFma (s : State) (legal : Bool) (x : Flt3) :=
  fltForm s legal x.h (span x.ty.regs x.a ++ spanB x.ty.regs x.b ++ span x.ty.regs x.c) x.ty x.d x.cc fun w L =>
    let a := w.src x.ty x.a L
    let b := w.srcB x.ty x.b L
    let c := w.src x.ty x.c L
    perElem x.ty fun k =>
      x.ty.ffmt.encode x.rm false (((LTy.elem x.ty a k).mul (LTy.elem x.ty b k)).add x.rm (LTy.elem x.ty c k))

/-- MIN or MAX (R132). -/
def fltMm (s : State) (legal : Bool) (x : FltMm) (f : Bool → Fv → Fv → Fv) :=
  fltForm s legal x.h (span x.ty.regs x.a ++ spanB x.ty.regs x.b) x.ty x.d x.cc fun w L =>
    let a := w.src x.ty x.a L
    let b := w.srcB x.ty x.b L
    perElem x.ty fun k => x.ty.ffmt.encode .nearestEven false (f x.nanp (LTy.elem x.ty a k) (LTy.elem x.ty b k))

/-- ABS or NEG (R131). -/
def flt1 (s : State) (legal : Bool) (x : Flt1) (f : Fv → Fv) :=
  fltForm s legal x.h (span x.ty.regs x.a) x.ty x.d x.cc fun w L =>
    let a := w.src x.ty x.a L
    perElem x.ty fun k => x.ty.ffmt.encode .nearestEven false (f (LTy.elem x.ty a k))

/-- RINT (R134). -/
def fltRint (s : State) (legal : Bool) (x : FltRint) :=
  fltForm s legal x.h (span x.ty.regs x.a) x.ty x.d false fun w L =>
    let a := w.src x.ty x.a L
    perElem x.ty fun k => x.ty.ffmt.encode x.rm false ((LTy.elem x.ty a k).rint x.rm)

def mulOf (_ : Rm) (a b : Fv) : Fv := a.mul b

def execFarithAdd (x : Flt2) (s : State) := flt2 s (Instr.farithAdd x).legal x Fv.add
def execFarithSub (x : Flt2) (s : State) := flt2 s (Instr.farithSub x).legal x Fv.sub
def execFarithMul (x : Flt2) (s : State) := flt2 s (Instr.farithMul x).legal x mulOf
def execFarithFma (x : Flt3) (s : State) := fltFma s (Instr.farithFma x).legal x
def execFarithMin (x : FltMm) (s : State) := fltMm s (Instr.farithMin x).legal x Fv.min
def execFarithMax (x : FltMm) (s : State) := fltMm s (Instr.farithMax x).legal x Fv.max
def execFarithAbs (x : Flt1) (s : State) := flt1 s (Instr.farithAbs x).legal x Fv.abs
def execFarithNeg (x : Flt1) (s : State) := flt1 s (Instr.farithNeg x).legal x Fv.neg
def execFmiscRint (x : FltRint) (s : State) := fltRint s (Instr.fmiscRint x).legal x

/-- The magnitude of a with the stored sign bit of b; a NaN a gives the canonical NaN (R134). -/
def copysign (f : FFmt) (a b : Nat) : Nat :=
  if f.decode a == .nan then f.nanCode else a % f.signBit + b / f.signBit % 2 * f.signBit

def execFmiscCopysign (x : Typed2) (s : State) :=
  fltForm s (Instr.fmiscCopysign x).legal x.h (span x.ty.regs x.a ++ spanB x.ty.regs x.b) x.ty x.d false fun w L =>
    let a := w.src x.ty x.a L
    let b := w.srcB x.ty x.b L
    perElem x.ty fun k => copysign x.ty.ffmt (elemOf x.ty.ffmt.bits a k) (elemOf x.ty.ffmt.bits b k)

/-! DARITH (R135) behaves as FARITH on f64. -/

def execDarithAdd (x : Flt2) (s : State) := flt2 s (Instr.darithAdd x).legal x Fv.add
def execDarithSub (x : Flt2) (s : State) := flt2 s (Instr.darithSub x).legal x Fv.sub
def execDarithMul (x : Flt2) (s : State) := flt2 s (Instr.darithMul x).legal x mulOf
def execDarithFma (x : Flt3) (s : State) := fltFma s (Instr.darithFma x).legal x
def execDarithMin (x : FltMm) (s : State) := fltMm s (Instr.darithMin x).legal x Fv.min
def execDarithMax (x : FltMm) (s : State) := fltMm s (Instr.darithMax x).legal x Fv.max
def execDarithAbs (x : Flt1) (s : State) := flt1 s (Instr.darithAbs x).legal x Fv.abs
def execDarithNeg (x : Flt1) (s : State) := flt1 s (Instr.darithNeg x).legal x Fv.neg
def execDarithRint (x : FltRint) (s : State) := fltRint s (Instr.darithRint x).legal x

/-! SFU (R136, R137) -/

def sfuForm (s : State) (legal : Bool) (x : SfuOp) (fn : SfuFn) :=
  fltForm s legal x.h (span 1 x.a) .f32 x.d false fun w L => (sfuOf fn x.rm (w.word x.a.toNat L)).toNat

def execSfuRcp (x : SfuOp) (s : State) := sfuForm s (Instr.sfuRcp x).legal x .rcp
def execSfuRsq (x : SfuOp) (s : State) := sfuForm s (Instr.sfuRsq x).legal x .rsq
def execSfuSqrt (x : SfuOp) (s : State) := sfuForm s (Instr.sfuSqrt x).legal x .sqrt
def execSfuEx2 (x : SfuOp) (s : State) := sfuForm s (Instr.sfuEx2 x).legal x .ex2
def execSfuLg2 (x : SfuOp) (s : State) := sfuForm s (Instr.sfuLg2 x).legal x .lg2
def execSfuSin (x : SfuOp) (s : State) := sfuForm s (Instr.sfuSin x).legal x .sin
def execSfuCos (x : SfuOp) (s : State) := sfuForm s (Instr.sfuCos x).legal x .cos
def execSfuTanh (x : SfuOp) (s : State) := sfuForm s (Instr.sfuTanh x).legal x .tanh

end Sys2Proof.Machine
end

