-- ==== Sys2Proof/Machine/Pipeline.lean ====
section
/-! DEFINITION. The memory pipeline's events (R63, R64, R183, R252): when an unfinished access may be
performed, performing a lane, replaying what parked, remote writes and reads (R433, R434), and the host
window (R267, R268). -/

namespace Sys2Proof.Machine

/-! ## Order (R252) -/

/-- The agent of an unfinished access. -/
def State.accAgent (s : State) (a : Acc) : Agent :=
  match a.who with
  | .warp h _ => s.agentFor h a.core a.spos
  | .seq q => ⟨q.die, 500 + (if q.trivet then 8 else 0) + q.num, 0, none, none, 0, some q⟩

/-- The permissions of an access (R176). -/
def AccOp.perm : AccOp → Perm
  | .ld => ⟨true, false, false⟩
  | .st => ⟨false, true, false⟩
  | .atom _ => ⟨true, true, false⟩
  | .red _ => ⟨false, true, false⟩
  | _ => ⟨false, false, false⟩

/-- A piece of an access within one page or aperture: its address and length, its location (an address
without translation stands for itself), its page kind, 3 for an unknown one, its offset in the access, and its publish
window, numbered from 1 (R273). -/
structure Piece where
  va : Nat
  len : Nat
  loc : Nat
  kind : Nat
  off : Nat
  win : Nat
  deriving DecidableEq, Repr

def State.piece (s : State) (g : Agent) (p : Perm) (va n off : Nat) : Piece :=
  if isLocal va then ⟨va, n, localKey g va, 0, off, 0⟩
  else
    let win := match s.windowAt g.tenant g.job va with
      | some (j, i, _) => j * 256 + i + 1
      | none => 0
    match (s.translate g va p).2 with
    | some x => ⟨va, n, x.pa, x.kind, off, win⟩
    | none => ⟨va, n, 2 ^ 60 + va, 3, off, win⟩

/-- The offsets of a lane's access that have not been performed. -/
def Acc.todo (a : Acc) (lane : Nat) : List Nat :=
  (List.range a.size).filter fun o => !a.part.any fun e => e.1 == lane && e.2.1 == o

/-- Ascending offsets as runs (offset, length), cut at 64 KiB boundaries of the address. -/
def joinRuns (va : Nat) : List Nat → List (Nat × Nat)
  | [] => []
  | o :: os => match joinRuns va os with
    | (p, n) :: r => if p == o + 1 && (va + p) % 65536 != 0 then (o, n + 1) :: r else (o, 1) :: (p, n) :: r
    | [] => [(o, 1)]

/-- The pieces of some offsets of a lane's access. -/
def State.piecesOf (s : State) (a : Acc) (l : LaneAcc) (offs : List Nat) : List Piece :=
  (joinRuns l.addr offs).map fun r => s.piece (s.accAgent a) a.op.perm (l.addr + r.1) r.2 r.1

/-- The pieces of a lane's access that have not been performed (R185): two when it crosses a 64 KiB boundary. -/
def State.pieces (s : State) (a : Acc) (l : LaneAcc) : List Piece :=
  if a.part.any (·.1 == l.lane) then s.piecesOf a l (a.todo l.lane)
  else
    let g := s.accAgent a
    let n := firstPiece l.addr a.size
    s.piece g a.op.perm l.addr n 0 ::
      (if n < a.size then [s.piece g a.op.perm (l.addr + n) (a.size - n) n] else [])

def AccOp.loads : AccOp → Bool
  | .ld | .atom _ => true
  | _ => false

def AccOp.stores : AccOp → Bool
  | .st | .atom _ | .red _ => true
  | _ => false

/-- CCTL changes no value and takes part in no order (R192). -/
def AccOp.isData (o : AccOp) : Bool := o.loads || o.stores

def Acc.acquires (a : Acc) : Bool := a.op.loads && (a.sem == 1 || a.sem == 3)
def Acc.releases (a : Acc) : Bool := a.op.stores && (a.sem == 2 || a.sem == 3)

/-- Does a piece lie on a page of kind RC or SO, or of an unknown kind (R252)? -/
def Piece.rcso (p : Piece) : Bool := p.kind != 2
def Piece.so (p : Piece) : Bool := p.kind == 1 || p.kind == 3
def Piece.host (p : Piece) : Bool := decide (2 ^ 43 ≤ p.loc) && decide (p.loc < 2 ^ 44)

/-- Do two pieces lie in one publish window? A lane's accesses to it reach backings in their order (R273; which accesses
this orders is the model's reading, entry 75). -/
def Piece.sameWindow (p q : Piece) : Bool := p.win != 0 && p.win == q.win

/-- A piece of a log read, whose location counts as RC (R330). -/
def Piece.asRc (p : Piece) : Piece := { p with kind := 0 }

def Piece.meets (p q : Piece) : Bool := decide (p.loc < q.loc + q.len) && decide (q.loc < p.loc + p.len)

/-- Does a write to the host go out with Relaxed Ordering clear (R267)? -/
def Acc.ordered (a : Acc) (lane : Nat) (ps : List Piece) : Bool :=
  ps.any Piece.so || (a.releases && a.scope == .system) || a.sys.getLsbD lane

/-- Must X be performed before Y of the same lane (R252, R267, R268, R273)? The order holds toward every agent. -/
def ordersBefore (x : Acc) (px : List Piece) (y : Acc) (lane : Nat) (py : List Piece) : Bool :=
  let between := fun (k : Fence → Bool) =>
    y.fences.any fun f => decide (x.id < f.stamp) && f.lanes.getLsbD lane && k f
  let rr := px.any Piece.rcso && py.any Piece.rcso
  px.any (fun p => py.any p.meets) ||
  (px.any Piece.so && py.any Piece.so) ||
  (x.acquires && py.any Piece.rcso) ||
  (px.any Piece.rcso && y.releases) ||
  (x.op.loads && rr && between fun f => f.kind == 0 || f.kind == 2) ||
  (y.op.stores && rr && between fun f => f.kind == 1 || f.kind == 2) ||
  between (fun f => f.kind == 3) ||
  (px.any Piece.host && x.op.stores && py.any Piece.host && y.op.stores && y.ordered lane py) ||
  (px.any Piece.host && x.acquires && x.scope == .system) ||
  (px.any Piece.host && x.op.stores && py.any Piece.host && y.acquires && y.scope == .system) ||
  px.any (fun p => py.any p.sameWindow)

/-- May pieces of a lane be performed now? Every access of the lane that R252 orders before them, and
every lower lane of the same store or atomic that meets them (R184, R189), has been performed; so has every log read of
an earlier CREPLAY of the lane (R330). The lanes of `skip` are left out of the second condition. -/
def State.mayPerformAt (s : State) (skip : Nat → Bool) (y : Acc) (l : LaneAcc) (py : List Piece) : Bool :=
  (s.accs.all fun x =>
    if x.who != y.who || !x.op.isData || decide (y.id < x.id) then true
    else if x.id == y.id then
      !y.op.stores || x.lanes.all fun k =>
        decide (l.lane ≤ k.lane) || skip k.lane || !(s.pieces x k).any fun p => py.any p.meets
    else x.lanes.all fun k => k.lane != l.lane || !ordersBefore x (s.pieces x k) y l.lane py) &&
  (s.replays y.who).all fun x =>
    decide (y.id ≤ x.id) || x.lanes.all fun k => k.lane != l.lane || !ordersBefore x ((s.pieces x k).map Piece.asRc) y l.lane py

def State.mayPerformPast (s : State) (skip : Nat → Bool) (y : Acc) (l : LaneAcc) : Bool :=
  !y.op.isData || s.mayPerformAt skip y l (s.pieces y l)

/-- May a lane be performed now, with no lane left out? -/
def State.mayPerform (s : State) (y : Acc) (l : LaneAcc) : Bool := s.mayPerformPast (fun _ => false) y l

/-! ## Completing -/

/-- Write the registers of one lane. -/
def Warp.putLane (w : Warp) (n d L v : Nat) : Warp :=
  if d < 384 then { w with vregs := putAll 0 w.vregs ((List.range n).map fun i => (32 * (d + i) + L, wordAt v i)) }
  else { w with gregs := putAll 0 w.gregs ((List.range n).map fun i => (d - 384 + i, wordAt v i)) }

def State.setAcc (s : State) (a : Acc) : State :=
  { s with accs := s.accs.map fun x => if x.id == a.id then a else x }

def State.acc? (s : State) (id : Nat) : Option Acc := s.accs.find? (·.id == id)

/-- A lane leaves an unfinished access; with the last lane the instruction is complete (R63, R64). -/
def State.laneLeave (s : State) (id lane : Nat) : State :=
  match s.acc? id with
  | none => s
  | some a =>
    let rest := a.lanes.filter fun l => l.lane != lane
    if rest.isEmpty then
      let s := { s with accs := s.accs.filter fun x => x.id != id }
      match s.warp? a.who with
      | some w => s.setWarp a.who { (w.finishPart id 1) with pend := w.pend.filter fun p => p.id != id }
      | none => s
    else s.setAcc { a with lanes := rest }

/-- A lane has been performed: it writes its destination (R63), the whole group of registers in one step (the model's
choice, entry 91), and leaves. -/
def State.laneDone (s : State) (id lane v : Nat) : State :=
  match s.acc? id with
  | none => s
  | some a =>
    (match a.op, s.warp? a.who with
      | .ld, some w => s.setWarp a.who (w.putLane a.ty.regs a.dreg lane (a.ty.extend v))
      | .atom _, some w => s.setWarp a.who (w.putLane a.ty.regs a.dreg lane v)
      | _, _ => s).laneLeave id lane

/-- Bytes of a lane's access have been performed: `v` holds those at the offsets `offs`, in order. The lane is done
with its last byte; until then it has no request outstanding (R185). -/
def State.bytesDone (s : State) (id lane : Nat) (offs : List Nat) (v : Nat) : State :=
  match s.acc? id with
  | none => s
  | some a =>
    let part := a.part ++ (offs.zip (toBytes offs.length v)).map fun p => (lane, p.1, p.2.toNat)
    if offs.length == a.size then s.laneDone id lane v
    else if ((({ a with part := part } : Acc).todo lane)).isEmpty then
      s.laneDone id lane (ofBytes ((List.range a.size).map fun o =>
        BitVec.ofNat 8 (((part.find? fun e => e.1 == lane && e.2.1 == o).map (·.2.2)).getD 0)))
    else s.setAcc { a with
      part := part
      lanes := a.lanes.map fun (k : LaneAcc) => if k.lane == lane then { k with req := false } else k }

/-! ## Performing one lane -/

/-- What performing a lane met. -/
inductive LaneRes where
  /-- It is not performed now. -/
  | wait
  /-- It is performed, with the value it returns. -/
  | value (v : Nat)
  /-- Its request is outstanding. -/
  | sent
  /-- It parks. -/
  | park (page reason sector : Nat)
  /-- It faults its job. -/
  | fault (f : Got Unit)

/-- A read-modify-write (R189). -/
def atomNew (f : AtomFn) (ty : LTy) (old b c : Nat) : Nat :=
  let n := ty.width
  match f with
  | .add => if ty == .f32 || ty == .bf16x2 then
      perElem ty fun k => ty.ffmt.encode .nearestEven false ((LTy.elem ty old k).add .nearestEven (LTy.elem ty b k))
    else (old + b) % 2 ^ n
  | .min => if ty == .f32 then ty.ffmt.encode .nearestEven false (Fv.min false (f32v (BitVec.ofNat 32 old)) (f32v (BitVec.ofNat 32 b)))
    else if LTy.int ty b < LTy.int ty old then b % 2 ^ n else old
  | .max => if ty == .f32 then ty.ffmt.encode .nearestEven false (Fv.max false (f32v (BitVec.ofNat 32 old)) (f32v (BitVec.ofNat 32 b)))
    else if LTy.int ty old < LTy.int ty b then b % 2 ^ n else old
  | .and => old &&& b % 2 ^ n
  | .or => old ||| b % 2 ^ n
  | .xor => old ^^^ b % 2 ^ n
  | .xchg => b % 2 ^ n
  | .cas => if old == c % 2 ^ n then b % 2 ^ n else old

/-- A translated piece. -/
structure Mapped where
  p : Piece
  x : Option Xl
  deriving DecidableEq, Repr

/-- Translate the pieces of a lane; the first that does not translate parks the lane (R185). -/
def State.mapAll (s : State) (g : Agent) (pm : Perm) : List Piece → State × Option (List Mapped) × Nat
  | [] => (s, some [], 0)
  | p :: ps =>
    if isLocal p.va then
      match s.mapAll g pm ps with
      | (s, some l, n) => (s, some (⟨p, none⟩ :: l), n)
      | r => r
    else
      match s.translate g p.va pm with
      | (s, none) => (s, none, p.va / 65536)
      | (s, some x) =>
        match s.mapAll g pm ps with
        | (s, some l, n) => (s, some (⟨p, some x⟩ :: l), n)
        | r => r

/-- The offsets that pieces cover, in order. -/
def offsets (ps : List Piece) : List Nat := ps.flatMap fun p => rangeFrom p.off p.len

/-- The copy whose bytes an access takes (R178): an atomic acts at the primary, the surviving copy when that is absent;
a load reads its own die's. -/
def State.takeCopy (s : State) (g : Agent) (op : AccOp) (x : Xl) : Nat :=
  match op with
  | .atom _ | .red _ => (s.writeCopies x).headD x.pa
  | _ => s.readCopy g.die x

/-- What bars the pieces from being performed: an absent home, poison under a read, an uncorrectable
error under a local read. -/
def State.obstacle (s : State) (g : Agent) (op : AccOp) : List Mapped → Option LaneRes
  | [] => none
  | m :: ms =>
    match m.x with
    | none =>
      if op != .st && s.badIn (localKey g m.p.va) m.p.len then some (.fault (.bad (localKey g m.p.va))) else s.obstacle g op ms
    | some x =>
      match s.homeGone x with
      | some d => some (.fault (.offline m.p.va d))
      | none =>
        match if op != .st then s.poisoned (s.takeCopy g op x) m.p.len else none with
        | some c => some (.park (m.p.va / 65536) 2 c)
        | none => s.obstacle g op ms

/-- The bytes of a piece as memory holds them. -/
def State.pieceBytes (s : State) (g : Agent) (op : AccOp) (m : Mapped) : List Byte :=
  match m.x with
  | none => s.bytes (localKey g m.p.va) m.p.len
  | some x => s.bytes (s.takeCopy g op x) m.p.len

/-- Write a piece: a local one, or a paged one at every copy, updating or invalidating the core's L1
(R57, R184, R187, R189). -/
def State.putPiece (s : State) (a : Acc) (g : Agent) (m : Mapped) (bs : List Byte) : State :=
  match m.x with
  | none => let l := localKey g m.p.va
    ((s.store l bs).wrote l bs.length).ringsSee l bs.length
  | some x =>
    let s := s.writePa (if a.op == .st then some g.die else none) x g.tenant a.ch bs
    let lines := s.writeCopies x
    if g.seq.isSome then s
    else if a.op == .st && a.ch != .last then { s with l1 := lines.foldl (fun l pa => l1Store l g.die a.core pa bs) s.l1 }
    else lines.foldl (fun s pa => s.dropL1 g.die (· == a.core) pa bs.length) s

/-- Write the pieces of a value. -/
def State.putPieces (s : State) (a : Acc) (g : Agent) : List Mapped → List Byte → State
  | [], _ => s
  | m :: ms, bs => (s.putPiece a g m ((bs.drop m.p.off).take m.p.len)).putPieces a g ms bs

/-- The value before and the state after a store or read-modify-write. -/
def State.modify (s : State) (a : Acc) (g : Agent) (l : LaneAcc) (ms : List Mapped) : State × Nat :=
  let old := ofBytes (ms.flatMap (s.pieceBytes g a.op))
  match a.op with
  | .st => (s.putPieces a g ms (toBytes a.size l.data), old)
  | .atom f | .red f => (s.putPieces a g ms (toBytes a.size (atomNew f a.ty old l.data l.cmp)), old)
  | _ => (s, old)

/-- Is a write remote: a copy of its page lies on the other die (R433)? -/
def State.remoteOf (s : State) (g : Agent) (ms : List Mapped) : Option (DieId × Bool) :=
  ms.findSome? fun m => m.x.bind fun x =>
    if (s.writeCopies x).any fun pa => homeOf pa == some (!g.die) then some (!g.die, x.dup) else none

/-- Is a read served by the other die? -/
def State.remoteRead (s : State) (g : Agent) (ms : List Mapped) : Bool :=
  ms.any fun m => m.x.any fun x => homeOf (s.readCopy g.die x) == some (!g.die)

/-- The piece in the host window, with its physical address. -/
def hostPieces (ms : List Mapped) : List (Piece × Nat) :=
  ms.filterMap fun m => m.x.bind fun x => if isHost x.pa then some (m.p, x.pa) else none

/-- The AtomicOp request of R268: 2 FetchAdd, 3 Swap, 4 CAS. -/
def atomicOp (f : AtomFn) (ty : LTy) : Option Nat :=
  match f with
  | .add => if ty == .f32 || ty == .bf16x2 then none else some 2
  | .xchg => some 3
  | .cas => some 4
  | _ => none

/-- The data that a request carries for a piece: the whole value, or the piece's bytes of it. -/
def LaneAcc.dataAt (l : LaneAcc) (size : Nat) (p : Piece) : Nat :=
  if p.len == size then l.data else l.data / 2 ^ (8 * p.off) % 2 ^ (8 * p.len)

/-- Send a request to the host for each piece (R267, R268). A posted write counts as performed when it has left. -/
def State.toHost (s : State) (a : Acc) (g : Agent) (l : LaneAcc) (ps : List Piece) (ms : List Mapped) : State × LaneRes :=
  let req := fun (k : Nat) (ro : Bool) =>
    ({ s with hostOut := s.hostOut ++ (hostPieces ms).map fun q =>
      ⟨g.die, k, q.2, q.1.len, l.dataAt a.size q.1, ro, a.id, l.lane, q.1.off⟩ } : State)
  match a.op with
  | .st => (((req 1 (!a.ordered l.lane ps)).modify a g l ms).1, .value 0)
  | .atom f | .red f => match atomicOp f a.ty with
    | some k => (req k false, .sent)
    | none => (s, .fault (.fail l.addr))
  | _ => (req 0 (!(a.acquires && a.scope == .system)), .sent)

/-- The L1 line of an access that L1 may serve or hold (R177, R187): one page of kind RC or UO and
policy 0, within one line, and a core's (a sequencer uses no L1, entry 92). -/
def State.l1Key (s : State) (g : Agent) (ms : List Mapped) : Option Nat :=
  match ms with
  | [m] => m.x.bind fun x =>
    let pa := s.readCopy g.die x
    if g.seq.isSome || x.kind == 1 || x.pol != 0 || isHost pa || pa / 128 != (pa + m.p.len - 1) / 128 then none else some pa
  | _ => none

/-- Drop the L1 lines of a core that hold bytes of an access. -/
def State.dropLines (s : State) (a : Acc) (g : Agent) (ms : List Mapped) : State :=
  if g.seq.isSome then s
  else ms.foldl (fun s m => match m.x with
    | some x => s.dropL1 g.die (· == a.core) (s.readCopy g.die x) m.p.len
    | none => s) s

/-- Does an acquire at a scope invalidate an agent's L1 (R187)? -/
def State.flushes (s : State) (g : Agent) (sc : Scope) : Bool :=
  g.seq.isNone && match sc with
  | .die | .module | .system => true
  | .block => decide ((s.scratchOf g).2 ≥ 2)
  | _ => false

/-- Has an earlier acquire of the access's warp still to invalidate the L1 (R187)? -/
def State.acquirePending (s : State) (a : Acc) (g : Agent) : Bool :=
  s.accs.any fun x => x.who == a.who && decide (x.id < a.id) && x.acquires && s.flushes g x.scope

/-- Perform a load (R184, R187). From L1 it takes a present line, unless an acquire has still to invalidate it;
otherwise it takes memory, after the core's line has left L1, and the hint decides whether and in which rank the line, then
read whole, is held. -/
def State.performLoad (s : State) (a : Acc) (g : Agent) (ms : List Mapped) (fromL1 : Bool) : State × LaneRes :=
  if fromL1 then
    match s.l1Key g ms with
    | none => (s, .wait)
    | some pa =>
      match s.l1.find? fun k => k.die == g.die && k.core == a.core && k.line == pa / 128 with
      | none => (s, .wait)
      | some k =>
        let n := (ms.map (·.p.len)).foldl (· + ·) 0
        if a.sem != 0 || s.acquirePending a g then (s, .wait)
        else (if a.ch == .last then s.dropLines a g ms else s, .value (ofBytes ((k.data.drop (pa % 128)).take n)))
  else
    let v := ofBytes (ms.flatMap (s.pieceBytes g a.op))
    let s := s.dropLines a g ms
    let line := (s.l1Key g ms).filter fun pa => !(a.ch == .nol1 || a.ch == .last || (s.poisoned (pa / 128 * 128) 128).isSome)
    let s := ms.foldl (fun s m => match m.x with
      | some x =>
        let pa := s.readCopy g.die x
        s.mscTouch g.die (if line.isSome then pa / 128 * 128 else pa) g.tenant (if line.isSome then 128 else m.p.len) false
          (x.pol == 2 || a.ch == .nomsc || isHost x.pa) (a.ch == .stream)
      | none => s) s
    match line with
    | some pa => (s.l1Fill g.die a.core (pa / 128) (hintRank a.ch), .value v)
    | none => (s, .value v)

/-- The L1 invalidations that a fence, or the access itself as an acquire, owes (R187). -/
def State.acquireAt (s : State) (a : Acc) (g : Agent) (sc : Scope) : State :=
  if s.flushes g sc then s.invL1 g.die a.core else s

def State.fencesOf (s : State) (a : Acc) (g : Agent) : State :=
  a.fences.foldl (fun s f => if f.acquires then s.acquireAt a g f.scope else s) s

/-- CCTL of one lane (R192). On a duplex page the line is that of the copy which serves the die (the model's choice,
entry 74). -/
def State.cctl (s : State) (a : Acc) (g : Agent) (l : LaneAcc) : State :=
  if g.seq.isSome && a.op != .wbMsc then s
  else if a.op == .invAll then s.invL1 g.die a.core
  else if isLocal l.addr then s
  else match s.translate g l.addr ⟨false, false, false⟩ with
    | (s, none) => s
    | (s, some x) =>
      let line := s.readCopy g.die x / 128
      if a.op == .invL1 then { s with l1 := s.l1.filter fun k => !(k.die == g.die && k.core == a.core && k.line == line) }
      else
        let s := (s.msc.filter fun (m : MscLine) => m.line == line && m.dirty).foldl (fun s m => s.dram m.die m.tenant m.line 128) s
        { s with msc := s.msc.map fun (m : MscLine) => if m.line == line then { m with dirty := false, back := [], owned := false } else m }

/-- Send a tagged write to the other die (R433, R434): a home with 65 536 kept results, or a tag in use, holds it back.
`lost` says that the home does not perform this request. -/
def State.sendRemote (s : State) (a : Acc) (g : Agent) (l : LaneAcc) (ms : List Mapped) (home : DieId) (dup lost : Bool) :
    State × LaneRes :=
  if s.tagHeld g.die home then (s, .wait)
  else
    let (s, tag) := s.nextTag g.die
    let s := { s with remotes := s.remotes ++ [⟨g.die, tag, a.id, l.lane, 0, s.now g.die, home, dup, l.addr, offsets (ms.map (·.p)), none, []⟩] }
    if lost then (s, .sent)
    else
      let r := s.modify a g l ms
      ({ r.1 with kept := r.1.kept ++ [⟨home, g.die, tag, r.2, s.now home⟩] }, .sent)

/-- Perform pieces of one lane of an access. -/
def State.performPieces (s : State) (a : Acc) (l : LaneAcc) (ps : List Piece) (fromL1 lost : Bool) : State × LaneRes :=
  let g := s.accAgent a
  let hit := fromL1 && a.op == .ld
  let walks := s.gatePa g.tenant (if hit then [] else ps.flatMap fun p => s.walkPas g p.va)
  if walks.2 then (walks.1, .wait) else
  match walks.1.mapAll g a.op.perm ps with
  | (s, none, page) => (s, .park page 1 0)
  | (s, some ms, _) =>
    match s.obstacle g a.op ms with
    | some r => (s, r)
    | none =>
      let gated := if hit then (s, false)
        else s.gatePa g.tenant (ms.flatMap fun m => match m.x with
          | some x => (if a.op == .ld then [s.readCopy g.die x] else s.writeCopies x).flatMap fun pa => lineStarts pa m.p.len
          | none => [])
      if gated.2 then (gated.1, .wait) else
      let s := gated.1
      let s := if a.op.loads then s.fencesOf a g else s
      if !(hostPieces ms).isEmpty then s.toHost a g l ps ms
      else if a.op == .ld then
        if lost && s.remoteRead g ms then (s, .sent)
        else match s.performLoad a g ms fromL1 with
          | (s, .value v) => (if a.acquires then s.acquireAt a g a.scope else s, .value v)
          | r => r
      else
        match s.remoteOf g ms with
        | some (home, dup) => s.sendRemote a g l ms home dup lost
        | none =>
          let r := s.modify a g l ms
          (if a.acquires then r.1.acquireAt a g a.scope else r.1, .value r.2)

/-- Where a piece goes: 0 its own die or an aperture, 1 the other die, 2 the host. Pieces of one access that go to
different places are performed apart (R185). -/
def State.pieceClass (s : State) (a : Acc) (p : Piece) : Nat :=
  let g := s.accAgent a
  if isLocal p.va then 0
  else match (s.translate g p.va a.op.perm).2 with
    | none => 0
    | some x =>
      if isHost x.pa then 2
      else if (if a.op == .ld then [s.readCopy g.die x] else s.writeCopies x).any fun pa => homeOf pa == some (!g.die) then 1
      else 0

/-- The pieces that are performed together first. -/
def State.firstPieces (s : State) (a : Acc) : List Piece → List Piece
  | [p] => [p]
  | ps => (([0, 1, 2].map fun c => ps.filter fun p => s.pieceClass a p == c).find? (!·.isEmpty)).getD ps

/-- Perform one lane of an access. Where only some of its pieces are performed, the others wait for a later event. -/
def State.performLane (s : State) (a : Acc) (l : LaneAcc) (fromL1 lost : Bool) : State × LaneRes :=
  if !a.op.isData then (s.cctl a (s.accAgent a) l, .value 0)
  else
    let all := s.pieces a l
    let ps := s.firstPieces a all
    match s.mapAll (s.accAgent a) a.op.perm all with
    | (s, none, page) => (s, .park page 1 0)
    | _ =>
      match s.performPieces a l ps fromL1 lost with
      | (s, .value v) =>
        if (offsets ps).length == a.size then (s, .value v) else (s.bytesDone a.id l.lane (offsets ps) v, .wait)
      | r => r

/-! ## Performing the lanes of an event -/

/-- Is a lane parked? -/
def State.laneParked (s : State) (id lane : Nat) : Bool := s.parks.any fun p => p.who == .lane id lane

/-- A lane's request is outstanding. -/
def State.laneSent (s : State) (id lane : Nat) : State :=
  match s.acc? id with
  | some a => s.setAcc { a with lanes := a.lanes.map fun (k : LaneAcc) => if k.lane == lane then { k with req := true } else k }
  | none => s

/-- Attempt the listed lanes in ascending order, and park together those that fault. A lane that only
parked lanes of its own instruction hold back names their page and parks with them (R401). -/
def State.attempt (s : State) (id : Nat) (fromL1 lost : Bool) : List Nat → List (Waiter × Nat × Nat × Nat) → State
  | [], parks =>
    match s.acc? id with
    | some a => if parks.isEmpty then s else (s.setAcc { a with parked := true }).parkAll (s.accAgent a) 0 parks
    | none => s
  | L :: Ls, parks =>
    match s.acc? id with
    | none => s
    | some a =>
      match a.lanes.find? (·.lane == L) with
      | none => s.attempt id fromL1 lost Ls parks
      | some l =>
        if l.req || s.laneParked id L then s.attempt id fromL1 lost Ls parks
        else if !s.mayPerform a l then
          let waits := fun (n : Nat) => s.laneParked id n || parks.any fun p => p.1 == .lane id n
          match if s.mayPerformPast waits a l then (s.performLane a l fromL1 lost).2 else .wait with
          | .park p r c => s.attempt id fromL1 lost Ls (parks ++ [(.lane id L, p, r, c)])
          | _ => s.attempt id fromL1 lost Ls parks
        else
          match s.performLane a l fromL1 lost with
          | (s, .wait) => s.attempt id fromL1 lost Ls parks
          | (s, .value v) => (s.laneDone id L v).attempt id fromL1 lost Ls parks
          | (s, .sent) => (s.laneSent id L).attempt id fromL1 lost Ls parks
          | (s, .park p r c) => s.attempt id fromL1 lost Ls (parks ++ [(.lane id L, p, r, c)])
          | (s, .fault f) =>
            match a.who with
            | .warp h _ => (s.accessFault h 0 a.core (s.accAgent a) f).attempt id fromL1 lost Ls parks
            | .seq _ => s.attempt id fromL1 lost Ls parks

/-- LOAD_DATA_RETURN: lanes of a load or atomic are performed and write their destinations (R63). -/
def execLoadDataReturn (id : Nat) (lanes : Mask) (fromL1 lost : Bool) (s : State) : Host.Outcome State Fault Refusal :=
  match s.acc? id with
  | some a => .next (if a.op.loads then s.attempt id fromL1 lost (lanesOf lanes) [] else s)
  | none => .next s

/-- ACCESS_PERFORMED: lanes of a store, RED or CCTL are performed at their target (R64). -/
def execAccessPerformed (id : Nat) (lanes : Mask) (lost : Bool) (s : State) : Host.Outcome State Fault Refusal :=
  match s.acc? id with
  | some a => .next (if a.op.loads then s else s.attempt id false lost (lanesOf lanes) [])
  | none => .next s

/-- The bytes from offset `lo` of a byte-wise lane are performed, or sent, before its others (R185), when they all go to one
place and every byte of the lane translates. -/
def State.performBytes (s : State) (id lane lo n : Nat) : State :=
  match s.acc? id with
  | none => s
  | some a =>
    match a.lanes.find? (·.lane == lane) with
    | none => s
    | some l =>
      let offs := (a.todo lane).filter fun o => decide (lo ≤ o) && decide (o < lo + n)
      let ps := s.piecesOf a l offs
      if !a.bw || !a.op.isData || offs.isEmpty || offs.length == (a.todo lane).length || l.req || s.laneParked id lane ||
          (ps.map (s.pieceClass a)).any (fun c => some c != ps.head?.map (s.pieceClass a)) || !s.mayPerformAt (fun _ => false) a l ps then s
      else match (s.mapAll (s.accAgent a) a.op.perm (s.pieces a l)).2.1, s.performPieces a l ps false false with
        | some _, (t, .value v) => t.bytesDone id lane offs v
        | some _, (t, .sent) => t.laneSent id lane
        | _, _ => s

/-- Does a lane of an access stand before a replayable fault (R183)? -/
def State.wouldPark (s : State) (a : Acc) (l : LaneAcc) : Bool :=
  a.op.isData && (match s.mapAll (s.accAgent a) a.op.perm (s.pieces a l) with
    | (_, none, _) => true
    | (t, some ms, _) => match t.obstacle (t.accAgent a) a.op ms with
      | some (.park ..) => true
      | _ => false)

/-- Must the step trap of the instruction numbered `stepOf` still wait (R403): its accesses park, and are replayed
first, or its results are not written? -/
def State.stepWaits (s : State) (who : Issuer) (w : Warp) : Bool :=
  (w.pend.any fun p => p.id == w.stepOf && p.locked) ||
    s.accs.any fun a => a.who == who && a.id == w.stepOf && a.lanes.any (s.wouldPark a)

/-- A step trap that waited for its instruction is taken before the next issue. -/
def State.dueStep (s : State) (who : Issuer) (w : Warp) : Option State :=
  match w.stepDue with
  | none => none
  | some (m, pc) =>
    if s.barred who w || s.stepWaits who w then some s.idle
    else some (s.takeTrap who 0x0B m 0 pc)

/-! ## Remote responses (R434, R435) -/

/-- The result of a remote write of a lane reaches its issuer: an ATOM that acquires invalidates L1 (R187). -/
def State.answered (s : State) (r : Remote) (v : Nat) : State :=
  match if r.cmd.isSome then none else s.acc? r.acc with
  | some a => (if a.acquires then s.acquireAt a (s.accAgent a) a.scope else s).bytesDone r.acc r.lane r.offs v
  | none => s

/-- The outstanding remote write of a tag is over. -/
def State.dropRemote (s : State) (r : Remote) : State :=
  { s with remotes := s.remotes.filter fun q => !(q.die == r.die && q.tag == r.tag) }

/-- REMOTE_RESPONSE: the kept result reaches the issuer; the link works again. -/
def execRemoteResponse (die : DieId) (tag : BitVec 24) (s : State) : Host.Outcome State Fault Refusal :=
  match s.remotes.find? (fun r => r.die == die && r.tag == tag), s.kept.find? (fun k => k.die == die && k.tag == tag) with
  | some r, some k => .next (((s.linkUp die).dropRemote r).answered r k.value)
  | _, _ => .next s

/-- A remote write has an unknown outcome: its job faults with a kind 5 record of reason 3 (R435). A sequencer has no job:
the record goes to tenant 0, and the lane is over with its destination unwritten (entry 23). -/
def State.unknownOutcome (s : State) (r : Remote) : State :=
  let s := s.dropRemote r
  let fault := fun (h agent op : Nat) (s : State) => match s.block? h with
    | some b => s.faultAccess b.job 3 agent r.va r.home (r.tag.toNat + op * 2 ^ 24)
    | none => s
  match r.cmd with
  | some k => match s.copies.find? (·.id == k) with
    | some c => fault c.block 2 0xA5 { s with copies := s.copies.filter fun d => d.id != k }
    | none => s
  | none => match s.acc? r.acc with
    | none => s
    | some a => match a.who with
      | .warp h _ => fault h 0 (a.word.toNat % 256) s
      | .seq q => (s.post q.die 0 [word0 5 0 q.die 0xFFFF (3 * 2 ^ 24), r.va, s.now q.die, if r.home then 1 else 0,
          r.tag.toNat + a.word.toNat % 256 * 2 ^ 24] 0 0).laneLeave r.acc r.lane

/-- A home that performs a tagged write keeps its result. -/
def State.keep (s : State) (r : Remote) (v : Nat) : State :=
  { s with kept := s.kept ++ [⟨r.home, r.die, r.tag, v, s.now r.home⟩] }

/-- A lane's remote write is attempted anew. -/
def State.laneAnew (s : State) (r : Remote) : State :=
  match s.acc? r.acc with
  | some a => (s.dropRemote r).setAcc { a with
      lanes := a.lanes.map fun (k : LaneAcc) => if k.lane == r.lane then { k with req := false } else k }
  | none => s.dropRemote r

/-- The home performs a tagged write that is sent again (R434). One that now meets a fault or poison is not performed: the
lane is attempted anew, and parks (R429). -/
def State.performAgain (s : State) (r : Remote) (a : Acc) (l : LaneAcc) : State :=
  let g := s.accAgent a
  match s.mapAll g a.op.perm (s.piecesOf a l r.offs) with
  | (s, some ms, _) =>
    match s.obstacle g a.op ms with
    | none => let m := s.modify a g l ms
      m.1.keep r m.2
    | some _ => s.laneAnew r
  | (s, _) => s.laneAnew r

/-! ## Fields of a copy command (R211, R213) -/

def CopyCmd.field (c : CopyCmd) (hi lo : Nat) : Nat := bits c.word.toNat hi lo
def CopyCmd.xlen (c : CopyCmd) : Nat := c.field 23 0
def CopyCmd.wbar (c : CopyCmd) : Nat := c.field 31 24
def CopyCmd.fifo (c : CopyCmd) : Nat := c.field 34 32
def CopyCmd.dim (c : CopyCmd) : Nat := c.field 38 37
def CopyCmd.dmask (c : CopyCmd) : Nat := c.field 42 39
def CopyCmd.sigv (c : CopyCmd) : Bool := c.field 43 43 == 1
def CopyCmd.opc (c : CopyCmd) : Nat := c.field 47 44
def CopyCmd.sig (c : CopyCmd) : Nat := c.field 55 48
def CopyCmd.wait (c : CopyCmd) : Nat := c.field 63 56
def CopyCmd.src (c : CopyCmd) : Nat := c.field 127 64
def CopyCmd.dst (c : CopyCmd) : Nat := c.field 191 128
def CopyCmd.planes (c : CopyCmd) : Nat := c.field 239 224 + 1
def CopyCmd.rows (c : CopyCmd) : Nat := c.field 255 240 + 1

/-- N (R213); a PUBLISH moves nothing. -/
def CopyCmd.total (c : CopyCmd) : Nat := if c.opc == 4 then 0 else c.xlen * c.rows * c.planes

/-- The row of index r, counted over planes and rows: its offset from a base under a plane and a row stride,
modulo 2^64 (R214). -/
def rowAt (base zs ys rows r : Nat) : Nat :=
  (((base : Int) + (r / rows : Nat) * signedOf 32 zs + (r % rows : Nat) * signedOf 32 ys) % 2 ^ 64).toNat

def CopyCmd.srcRow (c : CopyCmd) (r : Nat) : Nat := rowAt c.src (c.field 319 288) (c.field 287 256) c.rows r
def CopyCmd.dstRow (c : CopyCmd) (r : Nat) : Nat := rowAt c.dst (c.field 383 352) (c.field 351 320) c.rows r

/-- The address of position i of a command, as source and as destination. -/
def CopyCmd.srcAt (c : CopyCmd) (i : Nat) : Nat := (c.srcRow (i / c.xlen) + i % c.xlen) % 2 ^ 64
def CopyCmd.dstAt (c : CopyCmd) (i : Nat) : Nat := (c.dstRow (i / c.xlen) + i % c.xlen) % 2 ^ 64

/-- The bytes of a piece that no later position of the command has written (R214), with their addresses. -/
def CopyCmd.stillOwn (c : CopyCmd) (r : Remote) : List (Nat × Byte) :=
  let i := r.offs.headD 0
  (r.data.zipIdx.map fun p => (r.va + p.2, p.1)).filter fun e =>
    !(rangeFrom (i + r.data.length) (c.moved - (i + r.data.length))).any fun j => c.dstAt j == e.1

/-- The home performs a tagged write of the copy engine that is sent again (R434). Bytes that a later position has written
meanwhile stay as they are (R214). -/
def State.copyAgain (s : State) (r : Remote) (c : CopyCmd) : State :=
  let g := s.agentFor c.block (unitCopy c.core) c.spos
  match (c.stillOwn r).foldl (fun (q : State × Bool) e => if !q.2 then q else match q.1.save g e.1 [e.2] with
    | (s, .ok ()) => (s, true)
    | (s, _) => (s, false)) (s, true) with
  | (s, true) => s.keep r 0
  | (_, false) => s

/-- The home performs a tagged write that is sent again, if its access or command is still there. -/
def State.sendAgain (s : State) (r : Remote) : State :=
  match r.cmd with
  | some k => match s.copies.find? (·.id == k) with
    | some c => s.copyAgain r c
    | none => s
  | none => match s.acc? r.acc with
    | none => s
    | some a => match a.lanes.find? (·.lane == r.lane) with
      | some l => s.performAgain r a l
      | none => s

/-- REMOTE_WRITE_RESEND: 100 µs without a response; a repeated tag changes no memory, and a home with 65 536 kept results
holds the write. After five re-sends nothing is sent again, and the outcome is unknown, unless the page is duplex. A write
whose home has become its own die (R436) is tried there without limit. -/
def execRemoteWriteResend (die : DieId) (tag : BitVec 24) (lost : Bool) (s : State) : Host.Outcome State Fault Refusal :=
  match s.remotes.find? fun r => r.die == die && r.tag == tag with
  | none => .next s
  | some r =>
    if s.now die < r.sent + 100000 then .next s
    else if r.resends ≥ 5 then .next (if r.duplex then s else s.unknownOutcome r)
    else
      let known := s.kept.any fun k => k.die == die && k.tag == tag
      let s := { s with remotes := s.remotes.map fun (q : Remote) =>
        if q.die == die && q.tag == tag then { q with resends := q.resends + (if r.home == die then 0 else 1), sent := s.now die } else q }
      .next (if lost || known || s.keptFull r.home then s else s.sendAgain r)

/-- REMOTE_READ_RESEND: the reads of an instruction whose response is lost are sent again (R434). -/
def execRemoteReadResend (id : Nat) (s : State) : Host.Outcome State Fault Refusal :=
  match s.acc? id with
  | some a =>
    .next (if a.op == .ld then
      s.setAcc { a with lanes := a.lanes.map fun (l : LaneAcc) =>
        if s.hostOut.any (fun h => h.acc == id && h.lane == l.lane) then l else { l with req := false } }
    else s)
  | none => .next s

/-- KEPT_RESULT_AGED: results older than 1 ms make room (R434). One whose write is still outstanding stays, so that no
re-send performs a write a second time. -/
def execKeptResultAged (die : DieId) (s : State) : Host.Outcome State Fault Refusal :=
  .next { s with kept := s.kept.filter fun k => k.home != die || decide (s.now die ≤ k.time + 1000000) ||
    s.remotes.any fun r => r.die == k.die && r.tag == k.tag }

/-! ## Host window (R268) -/

/-- The host's memory after an AtomicOp that returned `old` (R268). -/
def State.hostAtomic (s : State) (a : Acc) (pa lane old : Nat) : State :=
  match a.op, a.lanes.find? (·.lane == lane) with
  | .atom f, some l => s.store pa (toBytes a.size (atomNew f a.ty old l.data l.cmp))
  | .red f, some l => s.store pa (toBytes a.size (atomNew f a.ty old l.data l.cmp))
  | _, _ => s

/-- HOST_WINDOW_COMPLETION: the completion of a read or AtomicOp. The manual does not state what a read
answered with Unsupported Request returns: a free value. -/
def execHostWindowCompletion (id lane : Nat) (status : PcieStatus) (value : BitVec 128) (s : State) :
    Host.Outcome State Fault Refusal :=
  match s.acc? id, s.hostOut.find? fun h => h.acc == id && h.lane == lane && h.kind != 1 with
  | some a, some h =>
    let s := { s with hostOut := s.hostOut.erase h }
    match status with
    | .success =>
      let v := value.toNat % 2 ^ (8 * h.size)
      let s := if a.acquires then s.acquireAt a (s.accAgent a) a.scope else s
      .next ((s.hostAtomic a h.pa lane v).bytesDone id lane (rangeFrom h.lo h.size) v)
    | .unsupportedRequest =>
      if a.op == .ld then .next ((s.bumpFree).bytesDone id lane (rangeFrom h.lo h.size) (Config.free s.freeCtr % 2 ^ (8 * h.size)))
      else match a.who with
        | .warp b _ => .next (s.accessFault b 0 a.core (s.accAgent a) (.fail (((a.lanes.find? (·.lane == lane)).map (·.addr)).getD 0)))
        | .seq _ => .next (s.bumpFree.laneDone id lane (Config.free s.freeCtr % 2 ^ (8 * a.size)))
  | _, _ => .next s

end Sys2Proof.Machine
end

