-- ==== Sys2Proof/Machine/Sync.lean ====
section
/-! DEFINITION. Group 0xA_: barrier objects (R193 to R198), the ring instructions and PUSH (R199 to R205),
EVSIG, TAKE and PUBLISH (R206 to R209), and the events WINDOW_SWITCH and TAKE_SERVE. -/

namespace Sys2Proof.Machine

/-- The data accesses that lanes have issued are performed, the log reads of their CREPLAYs among them (R330): what a
release waits for (R252 case 4). -/
def State.quiet (s : State) (who : Issuer) (act : Mask) : Bool :=
  (s.accs.all fun a => a.who != who || !a.op.isData || a.lanes.all fun l => !act.getLsbD l.lane) &&
    (s.replays who).all fun a => a.lanes.all fun l => !act.getLsbD l.lane

/-! ## Barrier objects (R193) -/

structure Barrier where
  armed : Bool
  phase : Bool
  arrt : Nat
  expt : Nat
  arrb : Nat
  expb : Nat
  baseb : Nat
  deriving DecidableEq, Repr

def Barrier.ofNat (x : Nat) : Barrier where
  armed := bitAt x 0
  phase := bitAt x 1
  arrt := bits x 17 2
  expt := bits x 33 18
  arrb := bits x 65 34
  expb := bits x 97 66
  baseb := bits x 121 98

def Barrier.toNat (b : Barrier) : Nat :=
  (if b.armed then 1 else 0) + (if b.phase then 2 else 0) + b.arrt * 2 ^ 2 + b.expt * 2 ^ 18 + b.arrb * 2 ^ 34 +
    b.expb * 2 ^ 66 + b.baseb * 2 ^ 98

/-- complete(b) of R197. After a first completion EXPB is BASEB, so the number of further ones is the
smaller quotient. -/
def Barrier.complete (b : Barrier) : Barrier :=
  if b.armed && decide (b.expt ≤ b.arrt) && decide (b.expb ≤ b.arrb) then
    let t := b.arrt - b.expt
    let y := b.arrb - b.expb
    let k := if b.expt == 0 then y / b.baseb else if b.baseb == 0 then t / b.expt else min (t / b.expt) (y / b.baseb)
    { b with
      arrt := t - k * b.expt
      arrb := y - k * b.baseb
      expb := b.baseb
      phase := if k % 2 == 0 then !b.phase else b.phase }
  else b

/-- A warp that waits at an object notes a change of phase or a disarm that the object has just made (R197). -/
def Warp.seesBarrier (w : Warp) (l : Nat) (b : Barrier) : Warp :=
  match w.hold with
  | .barWait k p none =>
    if k != l then w
    else if !b.armed then { w with hold := .barWait k p (some false) }
    else if b.phase != p then { w with hold := .barWait k p (some true) }
    else w
  | _ => w

/-- The location of a barrier object (R194). -/
def barrierKey (block spos i : Nat) : Nat := scratchKey block spos (16 * i)

def State.barrier (s : State) (block spos i : Nat) : Barrier :=
  .ofNat (ofBytes (s.bytes (barrierKey block spos i) 16))

def State.setBarrier (s : State) (block spos i : Nat) (b : Barrier) : State :=
  let l := barrierKey block spos i
  let s := (s.store l (toBytes 16 b.toNat)).wrote l 16
  { s with warps := s.warps.map fun p => (p.1, p.2.seesBarrier l b) }

/-- May a form's access to `n` bytes be performed for its lanes now (R252)? It comes after the accesses of the lane that
are ordered before it. -/
def State.formClear (s : State) (who : Issuer) (w : Warp) (act : Mask) (va n : Nat) : Bool :=
  let y : Acc :=
    { id := s.nextId, who := who, op := .atom .xchg, ty := .b32, size := n, bw := true, scope := .none, sem := 0
      ch := .default, word := 0, dreg := 0, parked := false, part := [], core := w.core, spos := w.spos
      fences := w.fences, sys := w.sysRel, all := act, lanes := [] }
  (lanesOf act).all fun L => s.mayPerform y ⟨L, va, 0, 0, false⟩

/-- The span-window address of a barrier object (R168, R194). -/
def barrierVa (spos i : Nat) : Nat := 0xF * 2 ^ 48 + 2 ^ 44 + spos * 2 ^ 42 + 16 * i

/-- The index that a BAR form names (R196). -/
def Warp.barIx (w : Warp) : BarIx → Nat
  | .bidx i => i.toNat
  | .reg a => (w.word a.toNat 0).toNat % 256

def barRegs : BarIx → List Nat
  | .bidx _ => []
  | .reg a => span 1 a

/-- The BARRIER trap with its detail (R390). -/
def barTrap (act : Mask) (i reason : Nat) : Eff := .trap 0x05 act (i + reason * 2 ^ 32)

/-- A BAR form: bounds of the index and span position, then its action at the object. A sequencer has no
barriers (R69). -/
def barForm (s : State) (legal : Bool) (h : Hdr) (rd : List Nat) (ix : BarIx) (spc : Option Nat)
    (f : State → Issuer → Warp → Mask → Block → Nat → Nat → Barrier → Eff) : Host.Outcome State Fault Refusal :=
  warpForm s (lane legal h rd []) fun s who w _ act =>
    let i := w.barIx ix
    match who with
    | .seq _ => .trap 0x03 act i
    | .warp blk _ =>
      match s.block? blk with
      | none => .done s
      | some b =>
        let sp := spc.getD w.spos
        if kdBarriers b.kd ≤ i then .trap 0x03 act i
        else if kdSpan b.kd ≤ sp then .trap 0x03 act sp
        else if s.badIn (barrierKey blk sp i) 16 then
          .done (s.accessFault blk 0 w.core (s.agentOf who w) (.bad (barrierKey blk sp i)))
        else f s who w act b sp i (s.barrier blk sp i)

/-- The early credits parked for a barrier of a block on a core, in the table (R220) or in the block's
overflow list (R415). -/
def State.earlyFor (s : State) (b : Block) (sp i : Nat) : Nat :=
  (((s.early.filter fun c => c.block == b.handle && c.core == b.cluster * 4 + b.base + sp && c.bar == i).map (·.bytes)).foldl (· + ·) 0) +
    ((b.overflow.filter fun e => e.1 == sp && e.2.1 == i).map (·.2.2)).foldl (· + ·) 0

/-- Does a block span a core? -/
def Block.onCore (b : Block) (d : DieId) (core : Nat) : Bool :=
  b.die == d && decide (b.cluster * 4 + b.base ≤ core) && decide (core < b.cluster * 4 + b.base + kdSpan b.kd)

/-- Credits of the overflow lists move into the table of a core as its entries free (R415). -/
def State.refillEarly (s : State) (d : DieId) (core : Nat) : Nat → State
  | 0 => s
  | fuel + 1 =>
    if 16 ≤ (s.early.filter fun e => e.die == d && e.core == core).length then s
    else
      match s.blocks.findSome? fun b =>
          if b.onCore d core then (b.overflow.find? fun e => b.cluster * 4 + b.base + e.1 == core).map fun e => (b, e) else none with
      | none => s
      | some (b, e) =>
        let s := s.setBlock { b with overflow := b.overflow.erase e }
        ({ s with early := s.early ++ [⟨d, core, b.handle, e.2.1, e.2.2⟩] } : State).refillEarly d core fuel

def State.dropEarly (s : State) (b : Block) (sp i : Nat) : State :=
  let core := b.cluster * 4 + b.base + sp
  let s : State := { s with early := s.early.filter fun c => !(c.block == b.handle && c.core == core && c.bar == i) }
  let s := match s.block? b.handle with
    | some b => s.setBlock { b with overflow := b.overflow.filter fun e => !(e.1 == sp && e.2.1 == i) }
    | none => s
  s.refillEarly b.die core 16

/-- What parking a credit met. -/
inductive Parked where
  | done (s : State)
  | overflow
  | full

/-- Park a credit of an unarmed barrier (R220): it joins the block's overflow entry or table entry, takes a
free entry, or, in a cut, goes into the block's record (R406). A total of 2^32 or more is an overflow (R216). -/
def State.parkEarly (s : State) (b : Block) (spos bar n : Nat) : Parked :=
  let core := b.cluster * 4 + b.base + spos
  let here := fun (e : Credit) => e.die == b.die && e.core == core
  match b.overflow.find? fun e => e.1 == spos && e.2.1 == bar with
  | some e =>
    if 2 ^ 32 ≤ e.2.2 + n then .overflow
    else .done (s.setBlock { b with overflow := b.overflow.map fun x => if x == e then (spos, bar, e.2.2 + n) else x })
  | none =>
    match s.early.find? fun e => here e && e.block == b.handle && e.bar == bar with
    | some e =>
      if 2 ^ 32 ≤ e.bytes + n then .overflow
      else .done { s with early := s.early.map fun (x : Credit) => if x == e then { x with bytes := x.bytes + n } else x }
    | none =>
      if (s.early.filter here).length < 16 then .done { s with early := s.early ++ [⟨b.die, core, b.handle, bar, n⟩] }
      else if b.cut.isSome then .done (s.setBlock { b with overflow := b.overflow ++ [(spos, bar, n)] })
      else .full

/-- Is a command held because a piece of it needs an entry of a full early-credit table (R220)? The hold ends when the
barrier is armed, its entry stands, or an entry frees. -/
def State.creditHeld (s : State) (c : CopyCmd) : Bool :=
  match c.stuck, s.block? c.block with
  | some p, some b =>
    let bar := bits c.word.toNat 55 48
    !b.halted && !(s.barrier b.handle p bar).armed && (match s.parkEarly b p bar 1 with
      | .full => true
      | _ => false)
  | _, _ => false

def execBarInit (x : BarInit) (s : State) :=
  barForm s (Instr.barInit x).legal x.h (barRegs x.ix ++ (if x.off then [] else spanB 1 x.b ++ span 1 x.c)) x.ix none
    fun s who w act b sp i o =>
      let t := w.srcB32 x.b 0
      let c := (w.word x.c.toNat 0).toNat
      let clear := s.formClear who w act (barrierVa sp i) 16
      if x.off then if clear then .done (s.setBarrier b.handle sp i (.ofNat 0)) else .hold s
      else if o.armed then barTrap act i 1
      else if t > 32768 || c ≥ 2 ^ 24 || (t == 0 && c == 0) then barTrap act i 5
      else if !clear then .hold s
      else
        let o : Barrier := { armed := true, phase := false, arrt := 0, expt := t, arrb := s.earlyFor b sp i, expb := c, baseb := c }
        .done ((s.setBarrier b.handle sp i o.complete).dropEarly b sp i)

def execBarExpect (x : BarExpect) (s : State) :=
  barForm s (Instr.barExpect x).legal x.h (barRegs x.ix ++ spanB 1 x.b) x.ix (if x.rmt then some x.spc.toNat else none)
    fun s who w act b sp i o =>
      let n := w.srcB32 x.b 0
      if !o.armed then barTrap act i 2
      else if o.expb + n > 2 ^ 32 - 1 then barTrap act i 3
      else if !s.formClear who w act (barrierVa sp i) 16 then .hold s
      else .done (s.setBarrier b.handle sp i ({ o with expb := o.expb + n } : Barrier).complete)

/-- ARRIVE waits for the arriving lanes' earlier accesses, as the release that it is (R198). -/
def execBarArrive (x : BarArrive) (s : State) :=
  barForm s (Instr.barArrive x).legal x.h (barRegs x.ix) x.ix (if x.rmt then some x.spc.toNat else none)
    fun s who _ act b sp i o =>
      if !o.armed then barTrap act i 2
      else if o.arrt + lanesIn act > 65535 then barTrap act i 3
      else if !s.quiet who act then .hold s
      else .done (s.setBarrier b.handle sp i ({ o with arrt := o.arrt + lanesIn act } : Barrier).complete)

/-- WAIT: an object that is unarmed at issue gives reason 2, one disarmed during the wait reason 4. A wait that has begun
returns for a change of phase that it has seen, whatever the object holds since. -/
def execBarWait (x : BarWait) (s : State) :=
  barForm s (Instr.barWait x).legal x.h (barRegs x.ix ++ spanB 1 x.b) x.ix none
    fun s who w act b sp i o =>
      let l := barrierKey b.handle sp i
      let p := bitAt (w.srcB32 x.b 0) 0
      let clear := s.formClear who w act (barrierVa sp i) 16
      let go := if clear then Eff.done (s.acquire who w .block) else .hold s
      if w.hold == .barWait l p (some true) then go
      else if w.hold == .barWait l p (some false) then barTrap act i 4
      else if !o.armed then barTrap act i 2
      else if o.phase != p then go
      else .hold (s.setWarp who { w.waiting s.cycle with hold := .barWait l p none })

/-! ## Ring instructions (R200) -/

def Ring.sc (r : Ring) : Scope :=
  match r.scope with
  | 0 => .block
  | 1 => .die
  | 2 => .module
  | _ => .system

/-- A form's access fails: a replayable fault holds the warp, any other one faults its job (R183, R431,
R438). A sequencer has no job, and waits. -/
def State.formFault (s : State) (who : Issuer) (w : Warp) (agent : Nat) (g : Agent) (f : Got Unit) : Eff :=
  match f with
  | .park p r c => .hold ((s.setWarp who { w with fetchPark := true }).park (.fetch who) g agent p r c)
  | f => match who with
    | .warp h _ => .done (s.accessFault h agent w.core g f)
    | .seq _ => .hold s

/-- A ring fault (R201). A sequencer has no job: the record goes to tenant 0 and the sequencer halts. -/
def State.ringFault (s : State) (who : Issuer) (code va value : Nat) : State :=
  match who with
  | .warp h _ => match s.block? h with
    | some b => s.faultRing b.job code va value
    | none => s
  | .seq q => (s.post11 q.die 0 0xFFFF 5 code va value).setSeq q { (s.seq q) with halted := true }

/-- The checks of a ring instruction: reserved bits and capacity, the counters, and n. A BASE that is not aligned is none
of R201's cases; the model lets the instruction act (its choice, entry 76). -/
def Ring.fault (r : Ring) (n : Nat) : Option (Nat × Nat) :=
  if !r.shapeOk then some (1, 0)
  else if !r.orderOk then some (5, 0)
  else if n > r.cap then some (2, n)
  else none

/-- A ring instruction (R200): the issue checks on the descriptor's address, the descriptor, its checks,
then the action. Before that a release waits for its lanes' accesses, and any form for those that R252 orders before it.
The page needs PRD for the descriptor and PWR for its counters (the model's choice, entry 76). -/
def ringForm (s : State) (legal : Bool) (h : Hdr) (rd wr : List Nat) (a : Reg) (n : Warp → Nat) (release noop : Warp → Bool)
    (f : State → Issuer → Warp → Mask → Agent → Nat → Ring → Eff) : Host.Outcome State Fault Refusal :=
  warpForm s (lane legal h rd wr) fun s who w _ act =>
    let va := w.group 2 a.toNat 0
    let g := s.agentOf who w
    match s.issueCheck g act 64 false false (fun _ => va) with
    | some t => .trap t.1 t.2.1 t.2.2
    | none =>
      if noop w then .done s
      else if release w && !s.quiet who act then .hold s
      else if !s.formClear who w act va 64 then .hold s
      else
        let gated := s.gate g va true
        if gated.2 then .hold gated.1
        else match gated.1.ringAt g va with
        | (s, .ok r) =>
          match r.fault (n w) with
          | some c => .done (s.ringFault who c.1 va c.2)
          | none => f s who w act g va r
        | (s, e) => s.formFault who w 0 g e.cast

/-- Does a form's write of a ring's counters to the host go out with Relaxed Ordering clear (R267): it is a release at
SYSTEM scope, or a fence of one precedes it in one of its lanes? -/
def Warp.clearsRo (w : Warp) (act : Mask) (rel : Bool) (r : Ring) : Bool := (rel && r.system) || w.sysRel &&& act != 0

/-- Store a ring's counters for an instruction, a release or not, then its other effects and the ring's marks: a PUSH of the same warp
that the marks complete leaves the warp's counter after those effects. The update of a hung sequencer is discarded
(R456). -/
def State.updateRing (s : State) (who : Issuer) (w : Warp) (act : Mask) (g : Agent) (va : Nat) (rel : Bool) (q : Ring × RingMarks)
    (k : State → State) : Eff :=
  if s.cutOff who then .done (k s) else
  match s.putRing g va q.1 (w.clearsRo act rel q.1) with
  | (t, .ok ()) => .done ((k t).setMarks q.2 q.1.commit)
  | (t, e) => t.formFault who w 0 g e

def execQclaim (x : QclaimOp) (s : State) :=
  ringForm s (Instr.qclaim x).legal x.h (span 2 x.a ++ spanB 1 x.b) (span 2 x.d) x.a (fun w => w.srcB32 x.b 0)
    (fun _ => false) (fun _ => false) fun s who w act g va r =>
      let n := w.srcB32 x.b 0
      let w' := w.putD 2 x.d act fun _ => r.claim
      if r.claim + n - r.retire ≤ r.cap then
        s.updateRing who w act g va false ({ r with claim := r.claim + n }, s.marks (s.ringKey g va)) fun s =>
          (if n == 0 then s else s.acquire who w r.sc).setWarp who (w'.putPred x.pd.toNat act 0)
      else .done (s.setWarp who (w'.putPred x.pd.toNat act (BitVec.allOnes 32)))

def execQcommit (x : QposOp) (s : State) :=
  ringForm s (Instr.qcommit x).legal x.h (span 2 x.a ++ spanB 1 x.b ++ span 2 x.c) [] x.a (fun w => w.srcB32 x.b 0)
    (fun _ => true) (fun w => w.srcB32 x.b 0 == 0) fun s who w act g va r =>
      let n := w.srcB32 x.b 0
      let c := w.group 2 x.c.toNat 0
      let m := s.marks (s.ringKey g va)
      if c < r.commit || r.claim < c + n || m.commits.any (fun p => decide (c ≤ p) && decide (p < c + n)) then
        .done (s.ringFault who 3 va c)
      else s.updateRing who w act g va true (commitMarks r m (rangeFrom c n)) id

/-- QAWAIT: it enters the ring's queue and is served in the order of that queue. -/
def execQawait (x : QawaitOp) (s : State) :=
  ringForm s (Instr.qawait x).legal x.h (span 2 x.a ++ spanB 1 x.b) (span 2 x.d) x.a (fun w => w.srcB32 x.b 0)
    (fun _ => false) (fun _ => false) fun s who w act g va r =>
      let n := w.srcB32 x.b 0
      let m := s.marks (s.ringKey g va)
      let w' := w.putD 2 x.d act fun _ => r.head
      if n == 0 then .done ((s.acquire who w r.sc).setWarp who w')
      else if m.waiters.headD who == who && n ≤ r.commit - r.head then
        s.updateRing who w act g va false ({ r with head := r.head + n }, { m with waiters := m.waiters.filter (· != who) }) fun s =>
          (s.acquire who w r.sc).setWarp who w'
      else
        .hold ((s.setWarp who { w.waiting s.cycle with hold := .qawait }).setMarks
          { m with waiters := if m.waiters.contains who then m.waiters else m.waiters ++ [who] } r.commit)

def execQretire (x : QposOp) (s : State) :=
  ringForm s (Instr.qretire x).legal x.h (span 2 x.a ++ spanB 1 x.b ++ span 2 x.c) [] x.a (fun w => w.srcB32 x.b 0)
    (fun _ => true) (fun w => w.srcB32 x.b 0 == 0) fun s who w act g va r =>
      let n := w.srcB32 x.b 0
      let c := w.group 2 x.c.toNat 0
      let m := s.marks (s.ringKey g va)
      if c < r.retire || r.head < c + n || m.retires.any (fun p => decide (c ≤ p) && decide (p < c + n)) then
        .done (s.ringFault who 4 va c)
      else s.updateRing who w act g va true (retireMarks r m (rangeFrom c n)) id

/-! ## PUSH (R203 to R205) -/

/-- The 64 bytes of a lane's record, as a number (R204). -/
def Warp.record (w : Warp) (c : Reg) (L : Nat) : BitVec 512 := BitVec.ofNat 512 (w.group 16 c.toNat L)

/-- Write the records of the accepted lanes at their positions. -/
def State.putRecords (s : State) (g : Agent) (w : Warp) (c : Reg) (r : Ring) : List (Nat × Nat) → State × Got Unit
  | [] => (s, .ok ())
  | (L, p) :: l =>
    match s.save g (r.slot p) (toBytes 64 (w.record c L).toNat) with
    | (s, .ok ()) => s.putRecords g w c r l
    | e => e

/-- Enter a counted instruction with `left` parts; one without parts is complete at once (R64, R205). -/
def Warp.enterOp (w : Warp) (cls : Ctr) (id left : Nat) : Warp :=
  let l := w.ops ++ [⟨cls, id, left⟩]
  { w with ops := if left = 0 then retireOps [] l else l }

/-- The full predicate: 0 in accepted lanes, 1 in the other lanes of `active` (R204). -/
def Warp.fullPred (w : Warp) (pd : BitVec 3) (act : Mask) (acc : List Nat) : Warp :=
  w.putPred pd.toNat act (act &&& ~~~(maskOf fun L => acc.contains L))

/-- The gates of the memory controllers for the granules of some positions (R364). -/
def State.gateSlots (s : State) (g : Agent) (r : Ring) (ps : List Nat) : State × Bool :=
  s.gatePa g.tenant (ps.flatMap fun p => if isLocal (r.slot p) then [] else s.asks g (r.slot p) true ⟨false, true, false⟩)

/-- PUSH to a ring: one claim, the records, one commit, as one step; of a hung sequencer nothing of it is written
(R456). -/
def State.pushRing (s : State) (who : Issuer) (w : Warp) (x : PushOp) (act : Mask) (g : Agent) (va : Nat) : Eff :=
  let gated := s.gate g va true
  if gated.2 then .hold gated.1
  else match gated.1.ringAt g va with
  | (t, .ok r) =>
    match r.fault 0 with
    | some c => .done (t.ringFault who c.1 va c.2)
    | none =>
      let acc := (lanesOf act).take (r.cap - (r.claim - r.retire))
      let w1 := w.fullPred x.pd act acc
      let slots := t.gateSlots g r (rangeFrom r.claim acc.length)
      if acc.isEmpty || s.cutOff who then .done ((t.bump).setWarp who (w1.enterOp .cp t.nextId 0))
      else if slots.2 then .hold slots.1
      else
        match t.putRecords g w x.c r (acc.zipIdx.map fun p => (p.1, r.claim + p.2)) with
        | (u, .ok ()) =>
          let m := u.marks (u.ringKey g va)
          let upto := r.claim + acc.length
          let q := commitMarks { r with claim := upto } { m with pushes := m.pushes ++ [(who, u.nextId, upto)] }
            (rangeFrom r.claim acc.length)
          match u.putRing g va q.1 (w.clearsRo act true r) with
          | (v, .ok ()) =>
            .done ((((v.bump).acquire who w r.sc).setWarp who (w1.enterOp .cp v.nextId 1)).setMarks q.2 q.1.commit)
          | (_, e) => s.formFault who w 0 g e
        | (_, e) => s.formFault who w 0 g e
  | (t, e) => t.formFault who w 0 g e.cast

/-- The room of the core's copy-engine queue (R210). -/
def State.copyRoom (s : State) (d : DieId) (core : Nat) : Nat :=
  256 - (s.copies.filter fun c => c.die == d && c.core == core && !c.started).length

/-- The room of the cluster's traversal ring (R203, R292): 64 of its 512 positions are kept for continuations. -/
def State.travRoom (s : State) (d : DieId) (cluster : Nat) : Nat :=
  448 - (s.travQ.filter fun c => c.die == d && c.cluster == cluster).length

/-- PUSH to the copy engine: each accepted lane's record is one command (R210). -/
def State.pushCopy (s : State) (who : Issuer) (w : Warp) (x : PushOp) (act : Mask) (b : Block) : State :=
  let acc := (lanesOf act).take (s.copyRoom b.die w.core)
  let op := s.nextId
  let cmds : List CopyCmd := acc.zipIdx.map fun p =>
    { id := op + 1 + p.2, die := b.die, core := w.core, block := b.handle, spos := w.spos, who := who, op := op
      word := w.record x.c p.1, started := false, moved := 0, entered := 0, credited := [], stuck := none, snap := [] }
  ({ s with nextId := op + 1 + acc.length, copies := s.copies ++ cmds } : State).setWarp who
    ((w.fullPred x.pd act acc).enterOp .cp op acc.length)

/-- PUSH to the traversal ring (R292). -/
def State.pushTrav (s : State) (who : Issuer) (w : Warp) (x : PushOp) (act : Mask) (b : Block) : State :=
  let acc := (lanesOf act).take (s.travRoom b.die b.cluster)
  let op := s.nextId
  let cmds : List TravCmd := acc.map fun L =>
    { die := b.die, cluster := b.cluster, block := b.handle, spos := w.spos, who := who, op := op, word := w.record x.c L }
  ({ s with nextId := op + 1, travQ := s.travQ ++ cmds } : State).setWarp who
    ((w.fullPred x.pd act acc).enterOp .cp op acc.length)

/-- PUSH. With TGT 1 or 2 it comes after every access that its warp has made (R218, R272). With TGT 0 it makes the issue
checks of the Q forms on its descriptor's address, the alignment one among them (the model's choice, entry 93). -/
def execPush (x : PushOp) (s : State) :=
  warpForm s ⟨(Instr.push x).legal, .shared, x.h, (if x.tgt == 0 then span 2 x.a else []) ++ span 16 x.c, [], some .cp, false⟩
    fun s who w _ act =>
      if x.tgt == 0 then
        let va := w.group 2 x.a.toNat 0
        let g := s.agentOf who w
        match s.issueCheck g act 64 false false (fun _ => va) with
        | some t => .trap t.1 t.2.1 t.2.2
        | none => if !s.quiet who act then .hold s else s.pushRing who w x act g va
      else
        match who with
        | .seq _ => .trap 0x04 act 0
        | .warp h _ =>
          match s.block? h with
          | none => .done s
          | some b =>
            if !s.quiet who (BitVec.allOnes 32) then .hold s
            else if x.tgt == 1 then .done (s.pushCopy who w x act b)
            else .done (s.pushTrav who w x act b)

/-! ## EVSIG (R206, R347) -/

/-- EVSIG with a full event table faults the issuing job; on a sequencer the record goes to tenant 0. -/
def State.evsigFull (s : State) (who : Issuer) (e : BitVec 16) : State :=
  match who with
  | .warp h _ => match (s.block? h).bind fun b => s.job? b.job with
    | some j => s.faultJob j.id fun s => s.post11 j.die j.tenant j.no 6 1 e.toNat 0
    | none => s
  | .seq q => s.post11 q.die 0 0xFFFF 6 1 e.toNat 0

def execEvsig (x : EvsigOp) (s : State) :=
  warpForm s (lane (Instr.evsig x).legal x.h (if x.ea then span 1 x.a else []) []) fun s who w _ act =>
    if !s.quiet who act then .hold s
    else
      let e : BitVec 16 := if x.ea then (w.word x.a.toNat 0).setWidth 16 else x.ev
      if s.cutOff who then .done s else
      match s.signal e (x.bym1.toNat + 1) with
      | some t => .done t
      | none => .done (s.evsigFull who e)

/-! ## TAKE (R207, R39) -/

/-- Have the sources of a job's instance been stopped for a cut that has not resumed (R356)? -/
def State.sourcesStopped (s : State) (job inst : Nat) : Bool :=
  (s.blocks.any fun b => b.job == job && b.inst == inst && b.cut.isSome) ||
    s.ctxRecs.any fun c => c.job == job && c.inst == inst

/-- TAKE: the Percolator will serve it, for the launch and die of its block. -/
def execTake (x : DOnly) (s : State) :=
  warpForm s ⟨(Instr.take x).legal, .compute, x.h, [], span 4 x.d, none, true⟩ fun s who w _ act =>
    match who with
    | .seq _ => .done s
    | .warp h _ => match s.block? h with
      | none => .done s
      | some b =>
        let t : TakeReq := ⟨s.nextId, who, b.job, b.inst, b.die, act, x.d.toNat, s.sourcesStopped b.job b.inst⟩
        .done (({ s with nextId := s.nextId + 1, takes := s.takes ++ [t] } : State).setWarp who
          { w with pend := w.pend ++ [⟨s.nextId, act, span 4 x.d, true⟩] })

/-- What a TAKE gets: first, count, address, and the state after. The first TAKE of a node block returns its batch
(R323, R359), also while its die withdraws. -/
def State.deal (s : State) (q : TakeReq) : State × Nat × Nat × Nat :=
  match s.job? q.job with
  | none => (s, 0, 0, 0)
  | some j =>
    match j.batch with
    | some _ =>
      match (match q.who with
        | .warp h _ => s.block? h
        | .seq _ => none).bind fun b => b.batch.map fun t => (b, t) with
      | none => (s, 0, 0, 0)
      | some (b, t) =>
        if t.dealt || q.zero then (s, 0, 0, 0)
        else (s.setBlock { b with batch := some { t with dealt := true } }, t.pos, t.count, t.addr)
    | none =>
      match j.inst? q.inst with
      | none => (s, 0, 0, 0)
      | some i =>
        if i.remaining == 0 || q.zero || s.leavesLaunch j.id i.no q.die then (s, j.count - i.remaining, 0, 0)
        else
          let c := chunk j.count j.minChunk (s.residents j.id i.no) i.remaining
          (s.setJob (j.setInst { i with remaining := c.2.2 }), c.1, c.2.1, j.recs + c.1 * j.recSize)

/-- TAKE_SERVE: the Percolator deals a chunk and the results are written, where the warp is still there. -/
def execTakeServe (id : Nat) (s : State) : Host.Outcome State Fault Refusal :=
  match s.takes.find? (·.id == id) with
  | none => .next s
  | some t =>
    let r := ({ s with takes := s.takes.filter (·.id != id) } : State).deal t
    match r.1.warp? t.who with
    | none => .next r.1
    | some w =>
      let v := r.2.1 % 2 ^ 32 + r.2.2.1 % 2 ^ 32 * 2 ^ 32 + (if r.2.2.1 == 0 then 0 else r.2.2.2 % 2 ^ 64 * 2 ^ 64)
      .next (r.1.setWarp t.who { (w.putD 4 (BitVec.ofNat 9 t.dreg) t.lanes fun _ => v) with
        pend := w.pend.filter fun p => p.id != id })

/-! ## PUBLISH (R209) -/

/-- The counted instructions that a PUBLISH waits for: ST, RED, CCTL, PUSH, PUBLISH and ATOM (R209), and as the release
that it is the loads too (R252), the log reads of CREPLAYs among them (R330). -/
def State.publishAfter (s : State) (who : Issuer) (w : Warp) : List Nat :=
  (w.ops.filter fun o => o.left != 0 && (o.cls == .st || o.cls == .cp || o.cls == .ld)).map (·.id) ++ (s.replays who).map (·.id)

def execPublish (x : PublishOp) (s : State) :=
  warpForm s ⟨(Instr.publish x).legal, .shared, x.h, [], [], some .cp, false⟩ fun s who w _ act =>
    match who with
    | .seq _ => .trap 0x03 act x.win.toNat
    | .warp h _ =>
      match (s.block? h).bind fun b => s.job? b.job with
      | none => .done s
      | some j =>
        if j.windows.length ≤ x.win.toNat then .trap 0x03 act x.win.toNat
        else .done (({ s with nextId := s.nextId + 1, pubs := s.pubs ++ [⟨s.nextId, who, j.id, x.win.toNat, s.publishAfter who w⟩] } : State).setWarp
          who (w.enterOp .cp s.nextId 1))

/-- Staged and published backings of a window exchange in one step; R465 restores to this point from now
on, and the instance counts as having switched a window (R449). -/
def State.switchWindow (s : State) (job inst win : Nat) : State :=
  match s.job? job with
  | none => s
  | some j =>
    let ws := j.windows.zipIdx.map fun p => if p.2 == win then { p.1 with pub := !p.1.pub, undo := p.1.undo.filter fun e => e.1 != inst } else p.1
    s.setJob { j with windows := ws, insts := j.insts.map fun (i : Inst) => if i.no == inst then { i with switched := true } else i }

/-- Is a counted instruction unfinished: an access or a command of it is left? -/
def State.unfinished (s : State) (who : Issuer) (id : Nat) : Bool :=
  s.accs.any (·.id == id) || s.copies.any (·.op == id) || s.travQ.any (·.op == id) || s.queries.any (·.op == id) ||
    s.pubs.any (·.id == id) || (s.rings.any fun r => r.pushes.any fun p => p.2.1 == id) || (match s.warp? who with
      | some w => w.ops.any fun o => o.id == id && o.left != 0
      | none => false)

def execWindowSwitch (pub : Nat) (s : State) : Host.Outcome State Fault Refusal :=
  match s.pubs.find? (·.id == pub) with
  | none => .next s
  | some p =>
    if p.before.any (s.unfinished p.who) then .next s
    else
      let s := { s with pubs := s.pubs.filter (·.id != pub) }
      let inst := match p.who with
        | .warp h _ => ((s.block? h).map (·.inst)).getD 0
        | .seq _ => 0
      .next ((s.switchWindow p.job inst p.win).finishPart p.who pub 1)

end Sys2Proof.Machine
end

