-- ==== Sys2Proof/Machine/Matrix.lean ====
section
/-! DEFINITION. Group 0xB_ (R227 to R247): tiles, operand FIFOs and streams; the forms at issue; what a tile
operation does at its position in its stream, with the row shadow of R451; and FIFO_RUN_APPEND. -/

namespace Sys2Proof

/-! ## Formats and shapes -/

/-- An integer format: the accumulator is INT32 (R236). -/
def Fmt.isInt (f : Fmt) : Bool := f.ffmt.isNone

/-- The group size of R105 and R106. -/
def Fmt.groupSize (f : Fmt) : Nat :=
  match f with
  | .fp16 | .bf16 => 8
  | .fp32 => 1
  | _ => 16

/-- The value of an element of an integer format. -/
def Fmt.toInt (f : Fmt) (c : Nat) : Int := if f == .uint8 then (c % 256 : Nat) else signedOf f.width c

def Fv.finite : Fv → Bool
  | .fin .. => true
  | _ => false

/-- A code with its fraction truncated to three bits. A NaN or an infinity stays, and what would become the code of one is
a value below every kept bit: zero. -/
def Fmt.truncate (f : Fmt) (c : Nat) : Nat :=
  match f.ffmt with
  | some g =>
    let t := c - c % 2 ^ (g.T - 3)
    if g.T ≤ 3 || !(f.decode c).finite then c else if (f.decode t).finite then t else 0
  | none => c

/-- A value times a whole number and a power of two. -/
def Fv.scale (k : Nat) (e : Int) : Fv → Fv
  | .fin s m f => .fin s (m * k) (f + e)
  | v => v

/-- Registers per lane of FPUSH. -/
def FpushOp.n (x : FpushOp) : Nat := 2 ^ x.nr.toNat

/-- The bytes of one lane. -/
def FpushOp.laneBytes (x : FpushOp) : Nat := if x.cv then x.n * x.fmt.width / 8 else 4 * x.n

end Sys2Proof

namespace Sys2Proof.Machine

/-! ## Unit state, tiles, FIFOs -/

/-- Where element (row, col) of a tile stands (R228). -/
def tileKey (key t row col : Nat) : Nat := (key * 128 + t) * 2048 + row * 64 + col

def Block.elem (b : Block) (key t row col : Nat) : Word := sget 0 b.tiles (tileKey key t row col)

/-- Write part of a row from a column upward. -/
def Block.putRow (b : Block) (key t row c0 : Nat) (ws : List Word) : Block :=
  { b with tiles := putAll 0 b.tiles (ws.zipIdx.map fun p => (tileKey key t row (c0 + p.2), p.1)) }

/-- Part of a row. -/
def Block.row (b : Block) (key t row c0 n : Nat) : List Word := (List.range n).map fun j => b.elem key t row (c0 + j)

def Fifo.empty : Fifo := ⟨0, [], 0, []⟩

def fifoKey (spos fifo : Nat) : Nat := spos * 8 + fifo

def Block.fifo (b : Block) (k : Nat) : Fifo := sget Fifo.empty b.fifos k

def Block.setFifo (b : Block) (k : Nat) (f : Fifo) : Block := { b with fifos := sset Fifo.empty b.fifos k f }

/-- Unconsumed bytes (R232). -/
def Fifo.held (f : Fifo) : Nat := (f.bytes.filter (·.isSome)).length

/-- Have the bytes from a position all been appended (R233)? -/
def Fifo.present (f : Fifo) (pos n : Nat) : Bool := decide (pos + n ≤ f.base + f.bytes.length)

/-- The bytes before the first unread one leave. -/
def dropRead : List (Option Byte) → Nat × List (Option Byte)
  | none :: l => let r := dropRead l; (r.1 + 1, r.2)
  | l => (0, l)

/-- Read reserved bytes; they become room again (R233). -/
def Fifo.read (f : Fifo) (pos n : Nat) : Fifo × List Byte :=
  let at_ := pos - f.base
  let got := ((f.bytes.drop at_).take n).map fun b => b.getD 0
  let r := dropRead (f.bytes.take at_ ++ List.replicate n none ++ f.bytes.drop (at_ + n))
  ({ f with base := f.base + r.1, bytes := r.2 }, got)

/-! ## Streams (R230, R233) -/

/-- The shapes of an MMA: N and K (R234). -/
def mmaShape : Instr → Nat × Nat
  | .mmaM32N64K64 _ => (64, 64)
  | .mmaM32N16K128 _ => (16, 128)
  | .mmaM32N32K32 _ => (32, 32)
  | .mmaM32N64K32 _ => (64, 32)
  | .mmaM32N32K128 _ => (32, 128)
  | .mmaM32N32K8 _ => (32, 8)
  | _ => (32, 64)

/-- The operands of an MMA. -/
def mmaOf : Instr → Option MmaOp
  | .mmaM32N32K64 x | .mmaM32N64K64 x | .mmaM32N16K128 x | .mmaM32N32K32 x | .mmaM32N64K32 x
  | .mmaM32N32K128 x | .mmaM32N32K8 x => some x
  | _ => none

/-- N of MSCALE and MEPI (R239). -/
def colCount (nw : BitVec 2) : Nat := 16 * 2 ^ nw.toNat

/-- The FIFO bytes that an operation reserves, in order: FIFO and count (R233, R234, R239, R244). -/
def fifoNeeds (i : Instr) : List (Nat × Nat) :=
  match mmaOf i with
  | some x =>
    let s := mmaShape i
    [(x.fa.toNat, 32 * s.2 * x.fmt.width / 8), (x.fb.toNat, s.2 * s.1 * (x.bfmt.getD x.fmt).width / 8)]
  | none => match i with
    | .mscale x => [(x.fs.toNat, 4 * colCount x.nw)]
    | .mepi x => if x.be then [(x.fs.toNat, 4 * colCount x.nw)] else []
    | _ => []

/-- Reserve the next unreserved bytes of a FIFO. -/
def Block.reserve (b : Block) (k n : Nat) : Block × Nat :=
  let f := b.fifo k
  (b.setFifo k { f with resv := f.resv + n }, f.resv)

/-- The head of a stream reserves its bytes when it becomes the head (R233). -/
def Block.reserveHead (b : Block) (spos unit : Nat) : Block :=
  match b.stream (unitKey spos unit) with
  | [] => b
  | o :: os =>
    if o.resA.isSome then b
    else
      match fifoNeeds o.instr with
      | [] => b
      | [(f, n)] =>
        let r := b.reserve (fifoKey spos f) n
        r.1.setStream (unitKey spos unit) ({ o with resA := some r.2 } :: os)
      | (f, n) :: (g, m) :: _ =>
        let r := b.reserve (fifoKey spos f) n
        let q := r.1.reserve (fifoKey spos g) m
        q.1.setStream (unitKey spos unit) ({ o with resA := some r.2, resB := some q.2 } :: os)

/-- Heads of the units of a core reserve, the lower unit first (R233). -/
def Block.settle (b : Block) (spos : Nat) : Block := (List.range 4).foldl (fun b m => b.reserveHead spos m) b

/-- An operation enters its block's stream in a unit (R230). -/
def Block.enter (b : Block) (spos unit : Nat) (o : StreamOp) : Block :=
  b.setStream (unitKey spos unit) (b.stream (unitKey spos unit) ++ [o])

/-- Operations enter in the order of a list; the heads reserve once all those of one cycle have entered, the lower unit
first (R230, R233). -/
def Block.enterAll (spos : Nat) : Block → List Arrival → Block
  | b, [] => b
  | b, a :: l =>
    let b := b.enter spos a.unit a.op
    Block.enterAll spos (if l.head?.any fun x => x.due == a.due then b else b.settle spos) l

/-- Does an operation arrive before another: in an earlier cycle, or in the same one from a lower partition (R230)? -/
def Arrival.before (x y : Arrival) : Bool := if x.due == y.due then decide (x.part < y.part) else decide (x.due < y.due)

def insertArrival (x : Arrival) : List Arrival → List Arrival
  | [] => [x]
  | y :: l => if x.before y then x :: y :: l else y :: insertArrival x l

/-- The operations that have arrived at the units of a core by cycle `c` enter their streams (R230). -/
def Block.deliver (b : Block) (spos c : Nat) : Block :=
  let here := fun (a : Arrival) => a.spos == spos && decide (a.due ≤ c)
  Block.enterAll spos { b with coming := b.coming.filter fun a => !here a } (b.coming.filter here)

/-- An operation that issues in cycle `c` arrives in that cycle at the unit that serves its partition, and 4 cycles later
at another (R229). It enters its stream once the cycle of its arrival is over, in which others may arrive (R230). -/
def Block.send (b : Block) (c spos part unit : Nat) (o : StreamOp) : Block :=
  { b with coming := insertArrival ⟨if unit == part / 4 then c else c + 4, spos, unit, part, o⟩ b.coming }

/-- A block whose operations for a core have arrived, up to the cycle before the core's present one: in the present
cycle others may still arrive. -/
def State.arrived (s : State) (b : Block) (spos : Nat) : Block :=
  match s.clock (coreKey b.die (b.coreAt spos)) with
  | 0 => b
  | c + 1 => b.deliver spos c

/-- The head leaves its stream. -/
def Block.leaveHead (b : Block) (spos unit : Nat) : Block :=
  (b.setStream (unitKey spos unit) ((b.stream (unitKey spos unit)).drop 1)).settle spos

/-- Are all the bytes that the head reserved present? -/
def Block.bytesReady (b : Block) (spos : Nat) (o : StreamOp) : Bool :=
  ((fifoNeeds o.instr).zip [o.resA, o.resB]).all fun p => match p.2 with
    | some at_ => (b.fifo (fifoKey spos p.1.1)).present at_ p.1.2
    | none => false

/-- Is the head of a stream ready: are its stream bytes present, or does it need none? A begun one is. -/
def Block.headReady (b : Block) (key : Nat) : Bool :=
  match b.stream key with
  | [] => false
  | o :: _ => o.begun || b.bytesReady (key / 4) o

/-- Read the bytes that the head reserved. -/
def Block.takeBytes (b : Block) (spos : Nat) (o : StreamOp) : Block × List (List Byte) :=
  ((fifoNeeds o.instr).zip [o.resA, o.resB]).foldl (fun (r : Block × List (List Byte)) p =>
    let k := fifoKey spos p.1.1
    let t := (r.1.fifo k).read (p.2.getD 0) p.1.2
    (r.1.setFifo k t.1, r.2 ++ [t.2])) (b, [])

/-! ## Elements (R96, R234) -/

/-- The codes of a byte string's elements. -/
def elemsOf (f : Fmt) (bs : List Byte) : List Nat :=
  match f.width with
  | 4 => bs.flatMap fun b => [b.toNat % 16, b.toNat / 16]
  | 8 => bs.map (·.toNat)
  | w => (List.range (bs.length / (w / 8))).map fun i => ofBytes ((bs.drop (i * (w / 8))).take (w / 8))

/-- Run `i` of `k` elements. -/
def runOf {α : Type} (l : List α) (i k : Nat) : List α := (l.drop (i * k)).take k

/-- The FP32 words of a byte string. -/
def wordsOf (bs : List Byte) : List Word := (elemsOf .fp32 bs).map (BitVec.ofNat 32)

/-! ## MMA (R105 to R108, R237) -/

/-- Add products in groups of `g` consecutive k, with one rounding per group; in groups of one the product
keeps its sign (R108). -/
def addGroups (mode : Rm) (g : Nat) : Nat → Word → List Fv → Word
  | 0, acc, _ => acc
  | fuel + 1, acc, ps =>
    if ps.isEmpty then acc
    else
      let sum := match g, ps with
        | 1, p :: _ => p
        | _, _ => groupSum (ps.take g)
      addGroups mode g fuel (rndF32 mode ((f32v acc).add mode sum)) (ps.drop g)

/-- One element of a product tile added into an accumulator element. -/
def mmaElem (fa fb : Fmt) (mode : Rm) (acc : Word) (a b : List Nat) : Word :=
  if fa.isInt then
    BitVec.ofInt 32 ((a.zip b).foldl (fun s p => s + fa.toInt p.1 * fb.toInt p.2) acc.toInt)
  else
    addGroups mode fa.groupSize a.length acc ((a.zip b).map fun p => (fa.decode p.1).mul (fb.decode p.2))

/-! ## The row shadow (R451) -/

/-- Do the sums over a row disagree? `before` and `after` are the row's elements, `a` the row of A, `bs` the
columns of B. -/
def rowMismatch (fa fb : Fmt) (K N : Nat) (before after : List Word) (a : List Nat) (bs : List (List Nat)) : Bool :=
  if fa.isInt then
    let d := (before.zip after).foldl (fun (s : Int) p => s + (p.2.toInt - p.1.toInt)) 0
    let t := bs.foldl (fun (s : Int) b => (a.zip b).foldl (fun s p => s + fa.toInt p.1 * fb.toInt p.2) s) 0
    (d - t) % 65536 != 0
  else
    let ps := bs.flatMap fun b => (a.zip b).map fun p => (fa.decode (fa.truncate p.1)).mul (fb.decode (fb.truncate p.2))
    let d := groupSum (after.map f32v ++ before.map fun w => (f32v w).neg)
    let s := groupSum ps
    let bound := groupSum ([(groupSum (ps.map Fv.abs)).scale 1 (-1), .fin false (K * N) (-126)] ++
      after.map fun w => (f32v w).abs.scale (K / fa.groupSize) (-20))
    if (after.map f32v).all Fv.finite && (before.map f32v).all Fv.finite && d.finite && s.finite && bound.finite then
      bound.lt (groupSum [d, s.neg]).abs
    else false

/-! ## What a tile operation does -/

/-- MMA at its position: the block after, and the rows whose shadow disagrees (R237, R451). `flip` is a soft
error: row, column, bits. -/
def Block.mma (b : Block) (key : Nat) (x : MmaOp) (N K : Nat) (lanes : Mask) (as bs : List Byte)
    (flip : Option (Nat × Nat × Word)) : Block × Mask :=
  let fb := x.bfmt.getD x.fmt
  let ea := elemsOf x.fmt as
  let cols := (List.range N).map (runOf (elemsOf fb bs) · K)
  let mode := (b.unit key).mode
  let c0 := 16 * x.col.toNat
  let t := x.acc.toNat
  (lanesOf lanes).foldl (fun (r : Block × Mask) L =>
    let a := runOf ea L K
    let before := if x.za then List.replicate N 0 else r.1.row key t L c0 N
    let after := (before.zip cols).map fun p => mmaElem x.fmt fb mode p.1 a p.2
    let after := match flip with
      | some (row, col, f) => if row == L then after.zipIdx.map fun p => if c0 + p.2 == col then p.1 ^^^ f else p.1 else after
      | none => after
    let bad := rowMismatch x.fmt fb K N before after a cols
    (r.1.putRow key t L c0 after, if bad then r.2 ||| 1#32 <<< L else r.2)) (b, 0)

/-- MSCALE (R239, R109). -/
def Block.mscale (b : Block) (key : Nat) (x : MscaleOp) (lanes : Mask) (sa : Nat → Word) (sb : List Word) : Block :=
  let mode := (b.unit key).mode
  let c0 := 16 * x.col.toNat
  (lanesOf lanes).foldl (fun b L =>
    let src := b.row key x.ts.toNat L c0 sb.length
    let dst := b.row key x.td.toNat L c0 sb.length
    b.putRow key x.td.toNat L c0 (((sb.zip src).zip dst).map fun p =>
      let scale := rndF32 mode ((f32v (sa L)).mul (f32v p.1.1))
      let v := if x.si then Fv.ofInt p.1.2.toInt else f32v p.1.2
      rndF32 mode ((f32v p.2).add mode ((f32v scale).mul v)))) b

/-- MZERO (R240). -/
def Block.mzero (b : Block) (key t : Nat) (lanes : Mask) : Block :=
  (lanesOf lanes).foldl (fun b L => b.putRow key t L 0 (List.replicate 64 0)) b

/-- MST (R241). -/
def Block.mst (b : Block) (key : Nat) (x : MmovOp) (lanes : Mask) (src : Nat → List Word) : Block :=
  (lanesOf lanes).foldl (fun b L => b.putRow key x.acc.toNat L x.col.toNat (src L)) b

/-- The clamp and bias of one element (R244). -/
def epilogue (it ce : Bool) (mode : Rm) (bias : Option Word) (lo hi x : Word) : Word :=
  if it then
    let x := match bias with
      | some v => x + v
      | none => x
    if ce then
      let x := if x.toInt < lo.toInt then lo else x
      if hi.toInt < x.toInt then hi else x
    else x
  else if f32v x == .nan then rndF32 mode .nan
  else
    let x := match bias with
      | some v => rndF32 mode ((f32v x).add mode (f32v v))
      | none => x
    if ce && f32v x != .nan then
      let x := if f32v lo != .nan && (f32v x).ltTotal (f32v lo) then lo else x
      if f32v hi != .nan && (f32v hi).ltTotal (f32v x) then hi else x
    else x

/-- MEPI (R244). -/
def Block.mepi (b : Block) (key : Nat) (x : MepiOp) (lanes : Mask) (lo hi : Word) (bias : List Word) : Block :=
  let mode := (b.unit key).mode
  let c0 := 16 * x.col.toNat
  (lanesOf lanes).foldl (fun b L =>
    let old := b.row key x.acc.toNat L c0 (colCount x.nw)
    b.putRow key x.acc.toNat L c0 (old.zipIdx.map fun p =>
      epilogue x.it x.ce mode (if x.be then some (bias.getD p.2 0) else none) lo hi p.1)) b

/-- The bytes of part of a row of a tile in a unit's store: their start and length. -/
def rowBytes (t row col n : Nat) : Nat × Nat := (t * 8192 + row * 256 + col * 4, n * 4)

/-- What an operation reads of its unit's store, and what it writes (R237 to R244). -/
def StreamOp.tileReads (o : StreamOp) : List (Nat × Nat) :=
  let rows := fun (t c n : Nat) => (lanesOf o.lanes).map fun L => rowBytes t L c n
  match mmaOf o.instr with
  | some x => if x.za then [] else rows x.acc.toNat (16 * x.col.toNat) (mmaShape o.instr).1
  | none => match o.instr with
    | .mscale x => rows x.ts.toNat (16 * x.col.toNat) (colCount x.nw) ++ rows x.td.toNat (16 * x.col.toNat) (colCount x.nw)
    | .mld x => rows x.acc.toNat x.col.toNat (2 ^ x.nc.toNat)
    | .mepi x => rows x.acc.toNat (16 * x.col.toNat) (colCount x.nw)
    | _ => []

def StreamOp.tileWrites (o : StreamOp) : List (Nat × Nat) :=
  let rows := fun (t c n : Nat) => (lanesOf o.lanes).map fun L => rowBytes t L c n
  match mmaOf o.instr with
  | some x => rows x.acc.toNat (16 * x.col.toNat) (mmaShape o.instr).1
  | none => match o.instr with
    | .mscale x => rows x.td.toNat (16 * x.col.toNat) (colCount x.nw)
    | .mzero x => rows x.acc.toNat 0 64
    | .mst x => rows x.acc.toNat x.col.toNat (2 ^ x.nc.toNat)
    | .mepi x => rows x.acc.toNat (16 * x.col.toNat) (colCount x.nw)
    | _ => []

/-- The effect of a tile operation on its block; the second component holds the rows of an MMA that
mismatch. An operation of another group has none here. -/
def Block.tileOp (b : Block) (key : Nat) (o : StreamOp) (ops : List (List Byte)) (flip : Option (Nat × Nat × Word)) :
    Block × Mask :=
  match mmaOf o.instr with
  | some x => b.mma key x (mmaShape o.instr).1 (mmaShape o.instr).2 o.lanes (ops.headD []) (ops.getD 1 []) flip
  | none =>
    (match o.instr with
    | .mscale x => b.mscale key x o.lanes (fun L => (o.srcOf L).headD 0) (wordsOf (ops.headD []))
    | .mzero x => b.mzero key x.acc.toNat o.lanes
    | .mst x => b.mst key x o.lanes o.srcOf
    | .mmode x => b.setUnit key { b.unit key with mode := x.rm }
    | .mepi x =>
      let k := (o.srcOf ((lowLane o.lanes).getD 0))
      b.mepi key x o.lanes (k.headD 0) (k.getD 1 0) (wordsOf (ops.headD []))
    | _ => b, 0)

/-- MLD writes its lane registers, and they are no longer interlocked (R241). -/
def State.mldResult (s : State) (b : Block) (key : Nat) (o : StreamOp) (x : MmovOp) : State :=
  match s.warp? o.who with
  | none => s
  | some w =>
    let n := 2 ^ x.nc.toNat
    let w := (lanesOf o.lanes).foldl (fun (w : Warp) L =>
      { w with vregs := putAll 0 w.vregs ((b.row key x.acc.toNat L x.col.toNat n).zipIdx.map fun p =>
          (32 * (x.r.toNat + p.2) + L, p.1)) }) w
    s.setWarp o.who { w with pend := w.pend.filter fun p => p.id != o.id }

/-- A row-shadow mismatch: it counts as datapath checks of the core, and the instance is rolled back or its
job faults (R451, R448, R449). -/
def State.rowMismatched (s : State) (b : Block) (spos unit : Nat) (x : MmaOp) (rows : Mask) : State :=
  let core := b.cluster * 4 + b.base + spos
  let s := s.countCheck b.die core (lanesIn rows)
  match s.job? b.job with
  | none => s
  | some j => s.rollback b.job b.inst 2 fun back s =>
    s.post j.die j.tenant
      [word0 7 j.tenant j.die (if j.batch.isSome then 0xFFFF else j.no)
          (0xB0 + unit * 2 ^ 8 + x.acc.toNat * 2 ^ 10), rows.toNat, s.now j.die,
        word3 b.no core, if back then 1 else 0] 0 0

/-- The soft error that strikes the next MMA of a block in a unit. -/
def State.rowUpset (s : State) (handle key : Nat) : Option (Nat × Nat × Word) :=
  s.upsets.findSome? fun u => match u with
    | .row h k row col f => if h == handle && k == key then some (row, col, f) else none
    | .lane .. => none

def State.spendRow (s : State) (handle key : Nat) : State :=
  { s with upsets := s.upsets.filter fun u => match u with
    | .row h k .. => !(h == handle && k == key)
    | .lane .. => true }

/-- Perform the tile operation at the head of a stream, once its bytes are present (R230, R233, R238). One that reads an
uncorrectable word of the accumulator store is not performed: its job consumes the error (R431). -/
def State.tileHead (s : State) (b : Block) (spos unit : Nat) (o : StreamOp) : State :=
  if !b.bytesReady spos o then s
  else match s.storeBad b spos unit o.tileReads with
  | some p => s.consume b.die b.job b.inst 5 (b.coreAt spos) p
  | none =>
    let key := unitKey spos unit
    let r := b.takeBytes spos o
    let isMma := (mmaOf o.instr).isSome
    let t := r.1.tileOp key o r.2 (if isMma then s.rowUpset b.handle key else none)
    let s := if isMma then s.spendRow b.handle key else s
    let s := match o.instr with
      | .mld x => s.mldResult b key o x
      | _ => s
    let s := (((s.setBlock (t.1.leaveHead spos unit)).wroteStore b spos unit o.tileWrites).finishPart o.who o.id 1).worked
      b.die (200 + 4 * b.coreAt spos + unit)
    match mmaOf o.instr with
    | some x => if t.2 = 0 then s else s.rowMismatched b spos unit x t.2
    | none => s

/-! ## The forms at issue (R231) -/

/-- The unit of the issuing core that a form names (R229). -/
def Warp.unitOf (w : Warp) (u : UnitSel) : Nat :=
  match u with
  | none => w.part / 4
  | some m => m.toNat

/-- The bounds trap of an index at or above a limit: the first one listed. -/
def firstBeyond (l : List Nat) (limit : Nat) : Option Nat := l.find? fun k => decide (limit ≤ k)

/-- A tile form: the bounds of its tiles and FIFOs, then its operation leaves for its unit with its register
sources; the registers that it writes are interlocked. -/
def tileForm (s : State) (i : Instr) (h : Hdr) (rd wr : List Nat) (u : UnitSel) (tiles fifos : List Nat)
    (src : Warp → Nat → List Word) : Host.Outcome State Fault Refusal :=
  warpForm s ⟨i.legal, .compute, h, rd, wr, some .tl, false⟩ fun s who w _ act =>
    match who with
    | .seq _ => .done s
    | .warp blk _ =>
      match s.block? blk with
      | none => .done s
      | some b =>
        match (firstBeyond tiles (kdTiles b.kd)).or (firstBeyond fifos (kdFifos b.kd)) with
        | some k => .trap 0x03 act k
        | none =>
          let id := s.nextId
          let o : StreamOp :=
            { id := id, who := who, instr := i, lanes := act, src := (lanesOf act).map fun L => (L, src w L)
              resA := none, resB := none, logs := [], begun := false }
          let w : Warp := { (w.enterOp .tl id 1) with
            pend := if wr.isEmpty then w.pend else w.pend ++ [⟨id, act, wr, true⟩] }
          .done ((s.bump.setBlock (b.send s.cycle w.spos w.part (w.unitOf u) o)).setWarp who w)

def mmaForm (s : State) (i : Instr) (x : MmaOp) :=
  tileForm s i x.h [] [] x.unit [x.acc.toNat] [x.fa.toNat, x.fb.toNat] fun _ _ => []

def execMmaM32N32K64 (x : MmaOp) (s : State) := mmaForm s (.mmaM32N32K64 x) x
def execMmaM32N64K64 (x : MmaOp) (s : State) := mmaForm s (.mmaM32N64K64 x) x
def execMmaM32N16K128 (x : MmaOp) (s : State) := mmaForm s (.mmaM32N16K128 x) x
def execMmaM32N32K32 (x : MmaOp) (s : State) := mmaForm s (.mmaM32N32K32 x) x
def execMmaM32N64K32 (x : MmaOp) (s : State) := mmaForm s (.mmaM32N64K32 x) x
def execMmaM32N32K128 (x : MmaOp) (s : State) := mmaForm s (.mmaM32N32K128 x) x
def execMmaM32N32K8 (x : MmaOp) (s : State) := mmaForm s (.mmaM32N32K8 x) x

def execMscale (x : MscaleOp) (s : State) :=
  tileForm s (.mscale x) x.h (span 1 x.a) [] x.unit [x.td.toNat, x.ts.toNat] [x.fs.toNat] fun w L => [w.word x.a.toNat L]

def execMzero (x : MzeroOp) (s : State) :=
  tileForm s (.mzero x) x.h [] [] x.unit [x.acc.toNat] [] fun _ _ => []

def execMld (x : MmovOp) (s : State) :=
  tileForm s (.mld x) x.h [] (span (2 ^ x.nc.toNat) x.r) x.unit [x.acc.toNat] [] fun _ _ => []

def execMst (x : MmovOp) (s : State) :=
  tileForm s (.mst x) x.h (span (2 ^ x.nc.toNat) x.r) [] x.unit [x.acc.toNat] [] fun w L =>
    (span (2 ^ x.nc.toNat) x.r).map fun r => w.word r L

def execMmode (x : MmodeOp) (s : State) :=
  tileForm s (.mmode x) x.h [] [] x.unit [] [] fun _ _ => []

def execMepi (x : MepiOp) (s : State) :=
  tileForm s (.mepi x) x.h (if x.ce then span 1 x.b ++ span 1 x.c else []) [] x.unit [x.acc.toNat]
    (if x.be then [x.fs.toNat] else []) fun w L => [w.word x.b.toNat L, w.word x.c.toNat L]

/-! ## FPUSH (R242) -/

/-- What one lane appends: its registers as they stand, or converted and packed (R96). -/
def Warp.fpushLane (w : Warp) (x : FpushOp) (L : Nat) : List Byte :=
  let e := (span x.n x.a).map fun r =>
    let v := w.word r L
    if x.cv then x.fmt.encode x.rm x.sat false (f32v v) else v.toNat
  let width := if x.cv then x.fmt.width else 32
  toBytes x.laneBytes ((e.zipIdx.map fun p => p.1 % 2 ^ width * 2 ^ (width * p.2)).foldl (· + ·) 0)

/-- The run of 32 lanes: a lane outside `active` appends zeros. -/
def Warp.fpushRun (w : Warp) (x : FpushOp) (act : Mask) : List Byte :=
  laneList.flatMap fun L => if act.getLsbD L then w.fpushLane x L else List.replicate x.laneBytes 0

/-- A run queues at a FIFO's write port (R232). -/
def Block.queueRun (b : Block) (k : Nat) (r : FifoRun) : Block :=
  let f := b.fifo k
  b.setFifo k { f with runs := f.runs ++ [r] }

def execFpush (x : FpushOp) (s : State) :=
  warpForm s ⟨(Instr.fpush x).legal, .compute, x.h, span x.n x.a, [], some .tl, false⟩ fun s who w _ act =>
    match who with
    | .seq _ => .done s
    | .warp blk _ =>
      match s.block? blk with
      | none => .done s
      | some b =>
        if kdFifos b.kd ≤ x.fifo.toNat then .trap 0x03 act x.fifo.toNat
        else
          let id := s.nextId
          .done ((s.bump.setBlock (b.queueRun (fifoKey w.spos x.fifo.toNat)
            ⟨false, id, who, w.fpushRun x act, true⟩)).setWarp who (w.enterOp .tl id 1))

/-! ## FIFO_RUN_APPEND (R232) -/

/-- The room of a FIFO. A stopped block's FIFO takes every byte: nothing reads it, and its bytes are
discarded when the resources return (R227, R397). -/
def Block.fifoRoom (b : Block) (f : Fifo) (n : Nat) : Nat := if b.halted then n else 65536 - f.held

/-- FIFO_RUN_APPEND: bytes of the run at the write port enter as far as there is room; a run whose last byte
has entered leaves the port, and an FPUSH is complete. A FEED held for its credits appends nothing (R220). -/
def execFifoRunAppend (handle spos fifo : Nat) (s : State) : Host.Outcome State Fault Refusal :=
  match s.block? handle with
  | none => .next s
  | some b =>
    let k := fifoKey spos fifo
    let f := b.fifo k
    match f.runs with
    | [] => .next s
    | r :: rs =>
      if r.feed && s.copies.any (fun c => c.id == r.id && s.creditHeld c) then .next s else
      let n := min r.data.length (b.fifoRoom f r.data.length)
      let rest := r.data.drop n
      let lastIn := rest.isEmpty && r.closed
      let f : Fifo := { f with
        bytes := f.bytes ++ (r.data.take n).map some
        runs := if lastIn then rs else { r with data := rest } :: rs }
      let s := s.setBlock (b.setFifo k f)
      .next (if r.feed then
          { s with copies := s.copies.map fun (c : CopyCmd) => if c.id == r.id then { c with entered := c.entered + n } else c }
        else if lastIn then s.finishPart r.who r.id 1 else s)

end Sys2Proof.Machine
end

