-- ==== Sys2Proof/Machine/Compositor.lean ====
section
/-! DEFINITION. The compositor (R275 to R289): slots, arrival, commit, retirement and the log; CINIT, CMPS,
CFLUSH, CREAD and CRETIRE at issue and at their position in a stream. -/

namespace Sys2Proof.Machine

/-! ## Slots (R276) -/

/-- A slot: the header fields and the valid buffer entries, the front first. -/
structure Slot where
  ret : Bool
  loge : Bool
  lfull : Bool
  lp : Nat
  nc : Nat
  nl : Nat
  nd : Nat
  front : Nat
  t : Word
  ch : List Word
  ents : List (BitVec 128)
  deriving DecidableEq, Repr

def Slot.ofBits (x : BitVec 1024) : Slot :=
  let h := x.toNat
  { ret := bitAt h 255, loge := bitAt h 254, lfull := bitAt h 253, lp := bits h 247 224, nc := bits h 223 208
    nl := bits h 207 200, nd := bits h 199 192, front := bits h 191 160, t := wordAt h 4
    ch := (List.range 4).map (wordAt h)
    ents := (List.range (bits h 252 250)).map fun j => x.extractLsb' (256 + 128 * j) 128 }

/-- The header as a number. -/
def Slot.header (s : Slot) : Nat :=
  (s.ch.zipIdx.map fun p => p.1.toNat * 2 ^ (32 * p.2)).foldl (· + ·) 0 + s.t.toNat * 2 ^ 128 + s.front * 2 ^ 160 +
    s.nd * 2 ^ 192 + s.nl * 2 ^ 200 + s.nc * 2 ^ 208 + s.lp * 2 ^ 224 + s.ents.length * 2 ^ 250 +
    (if s.lfull then 2 ^ 253 else 0) + (if s.loge then 2 ^ 254 else 0) + (if s.ret then 2 ^ 255 else 0)

/-- A slot as its 128 bytes. The entries from BN on are zero, whatever stood there (the model's choice, entry 96). -/
def Slot.toBits (s : Slot) : BitVec 1024 :=
  BitVec.ofNat 1024 (s.header + (s.ents.zipIdx.map fun p => p.1.toNat * 2 ^ (256 + 128 * p.2)).foldl (· + ·) 0)

/-- The fields of a buffer entry (R276). -/
def entKey (e : BitVec 128) : Nat := bits e.toNat 31 0
def entAlpha (e : BitVec 128) : Nat := bits e.toNat 47 32
def entId (e : BitVec 128) : Nat := bits e.toNat 63 48
def entColour (e : BitVec 128) (k : Nat) : Nat := bits e.toNat (79 + 16 * k) (64 + 16 * k)

/-! ## Terms (R278) -/

/-- key(d) of R7 for a depth that is neither NaN nor negative; `none` otherwise. −0 has key 0. -/
def depthKey (d : Word) : Option Nat :=
  match f32v d with
  | .nan => none
  | v => if v.isZero then some 0 else if v.isNeg then none else some d.toNat

/-- The clamped opacity. -/
def clampAlpha (a : Nat) : Nat :=
  match FFmt.f16.decode a with
  | .nan => 0
  | .inf s => if s then 0 else 0x3C00
  | .fin s m e => if s || m == 0 then 0 else if (Fv.fin false 1 0).lt (.fin s m e) then 0x3C00 else a % 65536

/-- A term from the four words of a lane: its buffer entry, or `none` when its depth is invalid. -/
def termOf (w : List Word) : Option (BitVec 128) :=
  let n := fun k => (w.getD k 0).toNat
  (depthKey (w.getD 0 0)).map fun key =>
    BitVec.ofNat 128 (key + clampAlpha (n 1 % 65536) * 2 ^ 32 + n 1 / 65536 * 2 ^ 48 + n 2 * 2 ^ 64 + n 3 * 2 ^ 96)

/-! ## Arrival, commit, retirement, log -/

/-- A slot under an operation: the slot, its index, the unit state in force, the log writes due, the late and
dropped terms counted, and the cull bit posted or cleared. -/
structure SlotRun where
  slot : Slot
  idx : Nat
  unit : UnitState
  logs : List (Nat × BitVec 256)
  late : Nat
  dropped : Nat
  cull : Option Bool
  deriving DecidableEq, Repr

/-- Count dropped terms, the field saturating (R283). -/
def SlotRun.drop (r : SlotRun) (n : Nat) : SlotRun :=
  { r with slot := { r.slot with nd := min 255 (r.slot.nd + n) }, dropped := r.dropped + n }

/-- retire(s) (R281). -/
def SlotRun.retire (r : SlotRun) : SlotRun :=
  let q := r.drop r.slot.ents.length
  { q with slot := { q.slot with ret := true, ents := [] }, cull := some true }

/-- The entry that a commit logs (R284). -/
def logEntry (idx : Nat) (e : BitVec 128) (tb w : Word) (late : Bool) : BitVec 256 :=
  let alpha := FFmt.f32.encode .nearestEven false (FFmt.f16.decode (entAlpha e))
  BitVec.ofNat 256 (entKey e + tb.toNat * 2 ^ 32 + alpha * 2 ^ 64 + bits e.toNat 127 64 * 2 ^ 96 + entId e * 2 ^ 160 +
    (if late then 2 ^ 176 else 0) + idx % 2 ^ 32 * 2 ^ 192 + w.toNat * 2 ^ 224)

/-- log(s, e, tb, w, late) (R284). -/
def SlotRun.log (r : SlotRun) (e : BitVec 128) (tb w : Word) (late : Bool) : SlotRun :=
  let cap := r.unit.lcap.toNat
  if r.slot.lp < cap then
    { r with
      slot := { r.slot with lp := r.slot.lp + 1 }
      logs := r.logs ++ [(r.unit.logbase.toNat + 32 * (r.idx * cap + r.slot.lp), logEntry r.idx e tb w late)] }
  else { r with slot := { r.slot with lfull := true } }

/-- commit(s, e, late) (R280). Every rounding is nearest_even. -/
def SlotRun.commit (r : SlotRun) (e : BitVec 128) (late : Bool) : SlotRun :=
  let tb := r.slot.t
  let w := rndF32 .nearestEven ((f32v tb).mul (FFmt.f16.decode (entAlpha e)))
  let ch := r.slot.ch.zipIdx.map fun p =>
    rndF32 .nearestEven (((f32v w).mul (FFmt.f16.decode (entColour e p.2))).add .nearestEven (f32v p.1))
  let t := rndF32 .nearestEven ((f32v tb).sub .nearestEven (f32v w))
  let r : SlotRun := { r with slot := { r.slot with
    ch := ch, t := t, front := if late then r.slot.front else entKey e, nc := min 65535 (r.slot.nc + 1) } }
  let r := if r.slot.loge then r.log e tb w late else r
  if (f32v t).lt (f32v r.unit.thr) then r.retire else r

/-- Insert after every entry whose key is not greater (R279). -/
def insertTerm (t : BitVec 128) : List (BitVec 128) → List (BitVec 128)
  | [] => [t]
  | e :: l => if entKey e ≤ entKey t then e :: insertTerm t l else t :: e :: l

/-- arrive(s, t) (R279). -/
def SlotRun.arrive (r : SlotRun) (term : Option (BitVec 128)) : SlotRun :=
  match term with
  | none => r.drop 1
  | some t =>
    if r.slot.ret then r.drop 1
    else if entKey t < r.slot.front then
      let r : SlotRun := { r with slot := { r.slot with nl := min 255 (r.slot.nl + 1) }, late := r.late + 1 }
      r.commit t true
    else
      match insertTerm t r.slot.ents with
      | e :: l =>
        if l.length == 6 then ({ r with slot := { r.slot with ents := l } } : SlotRun).commit e false
        else { r with slot := { r.slot with ents := e :: l } }
      | [] => r

/-- Commit the entries from the front while the slot is not retired (R288). -/
def SlotRun.flush (r : SlotRun) : Nat → SlotRun
  | 0 => r
  | fuel + 1 =>
    if r.slot.ret then r
    else match r.slot.ents with
      | [] => r
      | e :: l => (({ r with slot := { r.slot with ents := l } } : SlotRun).commit e false).flush fuel

/-- The effect of an instruction on one lane's slot (R288). -/
def SlotRun.act (r : SlotRun) (i : Instr) (src : List Word) : SlotRun :=
  match i with
  | .cinit x =>
    { r with
      slot := ⟨false, x.log, false, 0, 0, 0, 0, 0, 0x3F800000, [0, 0, 0, 0], []⟩
      cull := some false }
  | .cmps _ => r.arrive (termOf (src.drop 1))
  | .cflush _ => r.flush 7
  | .cretire x =>
    if r.slot.ret then r
    else
      let r := if x.fl then r.flush 7 else r
      if r.slot.ret then r else r.retire
  | _ => r

/-! ## An operation at the head of its stream (R287) -/

def slotKey (spos idx : Nat) : Nat := spos * 32768 + idx

def Block.slot (b : Block) (k : Nat) : BitVec 1024 := sget 0 b.slots k

/-- One lane of an operation. -/
def Block.slotLane (b : Block) (spos key : Nat) (i : Instr) (src : List Word) (logs : List (Nat × BitVec 256)) :
    Block × List (Nat × BitVec 256) :=
  let idx := (src.headD 0).toNat
  let k := slotKey spos idx
  let r := SlotRun.act ⟨.ofBits (b.slot k), idx, b.unit key, logs, 0, 0, none⟩ i src
  ({ b with
    slots := sset 0 b.slots k r.slot.toBits
    late := b.late + r.late
    dropped := b.dropped + r.dropped
    cull := match r.cull with
      | some c => sset false b.cull k c
      | none => b.cull }, r.logs)

/-- The lanes of an operation, ascending, after its configuration. -/
def Block.slotOp (b : Block) (spos unit : Nat) (o : StreamOp) : Block × List (Nat × BitVec 256) :=
  let key := unitKey spos unit
  let b := match o.cfg with
    | some c => b.setUnit key ((b.unit key).configured c)
    | none => b
  (lanesOf o.lanes).foldl (fun r L => r.1.slotLane spos key o.instr (o.srcOf L) r.2) (b, [])

/-- CREAD writes the header words of its lanes' slots (R288). -/
def State.creadResult (s : State) (b : Block) (spos : Nat) (o : StreamOp) (d : Reg) : State :=
  match s.warp? o.who with
  | none => s
  | some w =>
    s.setWarp o.who ((lanesOf o.lanes).foldl (fun (w : Warp) L =>
      let x := (b.slot (slotKey spos ((o.srcOf L).headD 0).toNat)).toNat
      { w with vregs := putAll 0 w.vregs ((List.range 8).map fun k => (32 * (d.toNat + k) + L, wordAt x k)) }) w)

/-- An operation is complete. With the last operation of an instruction its register results are written
(R62, R287). -/
def State.opDone (s : State) (b : Block) (spos unit : Nat) (o : StreamOp) : State :=
  let b := b.leaveHead spos unit
  let s := ((s.setBlock b).finishPart o.who o.id 1).worked b.die (200 + 4 * b.coreAt spos + unit)
  if (b.streams.any fun p => p.2.any (·.id == o.id)) || b.coming.any (fun a => a.op.id == o.id) then s
  else match s.warp? o.who with
    | some w => s.setWarp o.who { w with pend := w.pend.filter fun p => p.id != o.id }
    | none => s

/-- The agent of a core's compositor for a block. -/
def State.compAgent (s : State) (b : Block) (spos : Nat) : Agent :=
  s.agentFor b.handle (unitComp (b.cluster * 4 + b.base + spos)) spos

/-- The head of a stream has performed, or will not perform, its first log write; with the last one it is complete
(R274). -/
def State.logged (s : State) (handle spos unit : Nat) : State :=
  match s.block? handle with
  | none => s
  | some b =>
    match b.stream (unitKey spos unit) with
    | [] => s
    | o :: os =>
      let o : StreamOp := { o with logs := o.logs.drop 1 }
      if o.logs.isEmpty then s.opDone b spos unit o
      else (s.setBlock (b.setStream (unitKey spos unit) (o :: os))).worked b.die (200 + 4 * b.coreAt spos + unit)

/-- Perform the next log write of the head, one 16-byte store (R285): one that meets a translation fault or poison waits
and holds the stream, as does one that a controller holds (R364); any other failure faults the job. -/
def State.logWrite (s : State) (b : Block) (spos unit : Nat) (o : StreamOp) : State :=
  match o.logs with
  | [] => s.opDone b spos unit o
  | (va, e) :: _ =>
    let g := s.compAgent b spos
    if !isLocal va && va < 2 ^ 52 && s.lacks g va ⟨false, true, false⟩ then
      (s.accessFault b.handle 4 (b.coreAt spos) g (.fail va)).logged b.handle spos unit
    else
      match s.gate g va true with
      | (s, true) => s
      | (s, false) =>
        match s.save g va (toBytes 16 e.toNat) with
        | (s, .ok ()) => s.logged b.handle spos unit
        | (s, .park p r c) => s.park (.stream b.handle (unitKey spos unit)) g 4 p r c
        | (s, f) => (s.accessFault b.handle 4 (b.coreAt spos) g f).logged b.handle spos unit

/-- Is the head of a stream parked? -/
def State.streamParked (s : State) (handle key : Nat) : Bool := s.parks.any fun p => p.who == .stream handle key

/-- The slot of a lane in its unit's store: 128 bytes after the tiles (R15, R275). -/
def Block.slotBytes (b : Block) (idx : Nat) : Nat × Nat := (kdTiles b.kd * 8192 + idx / 4 * 128, 128)

/-- Perform the compositor operation at the head of a stream; its log writes follow, each an event of its own. One that
reads an uncorrectable word of the accumulator store is not performed (R431): every form but CINIT reads its slots. -/
def State.slotHead (s : State) (b : Block) (spos unit : Nat) (o : StreamOp) : State :=
  let key := unitKey spos unit
  let slots := (lanesOf o.lanes).map fun L => b.slotBytes ((o.srcOf L).headD 0).toNat
  if s.streamParked b.handle key then s
  else if o.begun then s.logWrite b spos unit o
  else match s.storeBad b spos unit (match o.instr with
      | .cinit _ => []
      | _ => slots) with
    | some p => s.consume b.die b.job b.inst 5 (b.coreAt spos) p
    | none =>
      let s := match o.instr with
        | .cread x => s.creadResult b spos o x.d
        | _ => s
      let r := b.slotOp spos unit o
      let s := match o.instr with
        | .cread _ => s
        | _ => s.wroteStore b spos unit slots
      let o : StreamOp := { o with
        begun := true
        logs := r.2.flatMap fun p => [(p.1, p.2.extractLsb' 0 128), (p.1 + 16, p.2.extractLsb' 128 128)] }
      let b := r.1.setStream key (o :: (r.1.stream key).drop 1)
      if r.2.isEmpty then (s.setBlock b).opDone b spos unit o else s.setBlock b

/-! ## The forms at issue (R286, R287) -/

/-- The lanes whose slots lie in a unit (R275). -/
def unitLanes (act : Mask) (slot : Nat → Nat) (m : Nat) : Mask := maskOf fun L => act.getLsbD L && slot L % 4 == m

/-- A compositor form: the bounds of its slots, a further check, then one operation per unit. -/
def slotForm (s : State) (i : Instr) (h : Hdr) (rd wr : List Nat) (a : Reg) (check : Warp → Option (Nat × Nat))
    (cfg : Warp → Option (List Word)) (src : Warp → Nat → List Word) : Host.Outcome State Fault Refusal :=
  warpForm s ⟨i.legal, .compute, h, rd, wr, some .tl, false⟩ fun s who w _ act =>
    match who with
    | .seq _ => .done s
    | .warp blk _ =>
      match s.block? blk with
      | none => .done s
      | some b =>
        let slot := fun L => (w.word a.toNat L).toNat
        let bad := maskOf fun L => act.getLsbD L && decide (kdSlots b.kd ≤ slot L)
        if bad ≠ 0 then .trap 0x03 bad (slot ((lowLane bad).getD 0))
        else
          match check w with
          | some t => .trap t.1 act t.2
          | none =>
            let id := s.nextId
            let units := (List.range 4).filter fun m => (cfg w).isSome || unitLanes act slot m != 0
            let b := units.foldl (fun (b : Block) m =>
              let lanes := unitLanes act slot m
              b.send s.cycle w.spos w.part m
                { id := id, who := who, instr := i, lanes := lanes
                  src := ((lanesOf lanes).map fun L => (L, w.word a.toNat L :: src w L)) ++ ((cfg w).map fun c => (32, c)).toList
                  resA := none, resB := none, logs := [], begun := false }) b
            let w : Warp := { (w.enterOp .tl id units.length) with
              pend := if wr.isEmpty then w.pend else w.pend ++ [⟨id, act, wr, true⟩] }
            .done ((s.bump.setBlock b).setWarp who w)

/-- CINIT: with CFG = 1, LOGBASE must be 32-byte aligned and LCAP below 2^24. -/
def execCinit (x : CinitOp) (s : State) :=
  slotForm s (.cinit x) x.h (span 1 x.a ++ (match x.cfg with
      | some c => spanB 1 c.b ++ span 2 c.c ++ span 1 c.e
      | none => [])) [] x.a
    (fun w => x.cfg.bind fun c =>
      let base := w.group 2 c.c.toNat 0
      let cap := (w.word c.e.toNat 0).toNat
      if base % 32 != 0 then some (0x02, base) else if 2 ^ 24 ≤ cap then some (0x03, cap) else none)
    (fun w => x.cfg.map fun c =>
      [BitVec.ofNat 32 (w.srcB32 c.b 0), w.word c.c.toNat 0, w.word (c.c.toNat + 1) 0, w.word c.e.toNat 0])
    fun _ _ => []

def execCmps (x : CmpsOp) (s : State) :=
  slotForm s (.cmps x) x.h (span 1 x.a ++ span 4 x.c) [] x.a (fun _ => none) (fun _ => none) fun w L =>
    (span 4 x.c).map fun r => w.word r L

def execCflush (x : AOnly) (s : State) :=
  slotForm s (.cflush x) x.h (span 1 x.a) [] x.a (fun _ => none) (fun _ => none) fun _ _ => []

def execCread (x : CreadOp) (s : State) :=
  slotForm s (.cread x) x.h (span 1 x.a) (span 8 x.d) x.a (fun _ => none) (fun _ => none) fun _ _ => []

def execCretire (x : CretireOp) (s : State) :=
  slotForm s (.cretire x) x.h (span 1 x.a) [] x.a (fun _ => none) (fun _ => none) fun _ _ => []

end Sys2Proof.Machine
end

