-- ==== Sys2Proof/Machine/Adjoint.lean ====
section
/-! DEFINITION. CREPLAY (R326 to R331), and STREAM_OPERATION: the head of a stream of a block performs (R230,
R233, R287). -/

namespace Sys2Proof.Machine

/-- What a lane of CREPLAY writes: its octet, its quad when an entry was replayed, its cursor. -/
structure Replayed where
  d : List Word
  u : Option (List Word)
  n : Option Word
  deriving DecidableEq, Repr

/-- A replayed entry (R328, R329): `x` is the entry, `g` and `u` the quads. Each right-hand side is exact and
rounded once. -/
def replayEntry (n : Nat) (x : Nat) (g u : List Word) : Replayed :=
  let rnd := rndF32 .nearestEven
  let a := f32v (wordAt x 2)
  let tb := wordAt x 1
  let w := f32v (wordAt x 7)
  let c := (List.range 4).map fun k => FFmt.f16.decode (bits x (111 + 16 * k) (96 + 16 * k))
  let one : Fv := .fin false 1 0
  let terms := (g.zip (c.zip u)).map fun p => (f32v p.1).mul (p.2.1.sub .nearestEven (f32v p.2.2))
  let sum := match terms with
    | [] => Fv.fin false 0 0
    | t :: ts => ts.foldl (Fv.add .nearestEven) t
  { d := rnd ((f32v tb).mul sum) :: (g.map fun v => rnd ((f32v v).mul w)) ++
      [BitVec.ofNat 32 (bits x 175 160 + bits x 176 176 * 2 ^ 16 + 2 ^ 17), wordAt x 0, if f32v tb == .nan then rnd .nan else tb]
    u := some ((c.zip u).map fun p =>
      rnd ((a.mul p.1).add .nearestEven ((one.sub .nearestEven a).mul (f32v p.2))))
    n := some (BitVec.ofNat 32 (n - 1)) }

/-- One lane of CREPLAY; `x` is the entry that it read. -/
def replayLane (slot n cap : Nat) (x : Nat) (g u : List Word) : Replayed :=
  let flag := fun (v : Nat) => List.replicate 5 0 ++ [BitVec.ofNat 32 v, 0, 0]
  if n == 0 then ⟨List.replicate 8 0, none, none⟩
  else if cap < n then ⟨flag 0x40000, none, some 0⟩
  else if bits x 223 192 != slot || bits x 191 177 != 0 then ⟨flag 0x80000, none, some 0⟩
  else replayEntry n x g u

/-- Write a lane's results: the octet, then the quad, then the cursor. -/
def Warp.putReplay (w : Warp) (x : CreplayOp) (L : Nat) (r : Replayed) : Warp :=
  let put := fun (w : Warp) (base : Nat) (l : List Word) =>
    ({ w with vregs := putAll 0 w.vregs (l.zipIdx.map fun p => (32 * (base + p.2) + L, p.1)) } : Warp)
  let w := put w x.d.toNat (List.replicate 8 0)
  let w := put w x.d.toNat (r.d.take 5)
  let w := match r.u with
    | some l => put w x.c.toNat l
    | none => w
  let w := put w (x.d.toNat + 5) (r.d.drop 5)
  match r.n with
  | some v => put w x.e.toNat [v]
  | none => w

/-- Read the entries of the lanes: the values, and what was not read. -/
def State.readEntries (s : State) (g : Agent) : List (Nat × Nat) → State × List (Nat × Nat) × List (Got Unit)
  | [] => (s, [], [])
  | (L, va) :: l =>
    if !isLocal va && va < 2 ^ 52 && s.lacks g va ⟨true, false, false⟩ then
      let r := s.readEntries g l
      (r.1, r.2.1, .fail va :: r.2.2)
    else
      match s.loadNat g va 32 with
      | (s, .ok v) =>
        let r := s.readEntries g l
        (r.1, (L, v) :: r.2.1, r.2.2)
      | (s, f) =>
        let r := s.readEntries g l
        (r.1, r.2.1, f.cast :: r.2.2)

/-- Perform the CREPLAY at the head of a stream, once every log read has returned (R330, R331). The reads keep the order
of R252 with the other accesses of their lanes, and wait at a controller as those do (R364). -/
def State.replayHead (s : State) (b : Block) (spos unit : Nat) (o : StreamOp) (x : CreplayOp) : State :=
  let key := unitKey spos unit
  if s.streamParked b.handle key then s
  else
    let u := b.unit key
    let g := s.compAgent b spos
    let core := b.cluster * 4 + b.base + spos
    let reads := o.replayReads u
    let acc := s.replayAcc b key o
    let gated := s.gatePa g.tenant (reads.flatMap fun p => if isLocal p.2 then [] else s.asks g p.2 false ⟨true, false, false⟩)
    if !acc.lanes.all (fun l => s.mayPerformAt (fun _ => false) acc l ((s.pieces acc l).map Piece.asRc)) then s
    else if gated.2 then gated.1 else
    let r := gated.1.readEntries g reads
    match r.2.2.find? fun f => match f with
      | .park .. => false
      | _ => true with
    | some f => r.1.accessFault b.handle 4 core g f
    | none =>
      let parked := r.2.2.filterMap fun f => match f with
        | .park p c sec => some (Waiter.stream b.handle key, p, c, sec)
        | _ => none
      if !parked.isEmpty then r.1.parkAll g 4 parked
      else
        let s := match r.1.warp? o.who with
          | some w => r.1.setWarp o.who ((lanesOf o.lanes).foldl (fun (w : Warp) L =>
              let src := o.srcOf L
              w.putReplay x L (replayLane (src.headD 0).toNat (src.getD 1 0).toNat u.lcap.toNat
                ((alook L r.2.1).getD 0) ((src.drop 2).take 4) (src.drop 6))) w)
          | none => r.1
        s.opDone b spos unit o

/-- CREPLAY (R327). -/
def execCreplay (x : CreplayOp) (s : State) :=
  slotForm s (.creplay x) x.h (span 1 x.a ++ span 4 x.b ++ span 4 x.c ++ span 1 x.e) (span 8 x.d ++ span 4 x.c ++ span 1 x.e)
    x.a (fun _ => none) (fun _ => none) fun w L =>
      w.word x.e.toNat L :: (span 4 x.b ++ span 4 x.c).map fun r => w.word r L

/-- STREAM_OPERATION: the operations that have arrived enter their streams, and the head of a block's stream in a unit
performs, when nothing holds it. -/
def execStreamOperation (handle spos unit : Nat) (s : State) : Host.Outcome State Fault Refusal :=
  match s.block? handle with
  | none => .next s
  | some b =>
    let b := s.arrived b spos
    let s := s.setBlock b
    match b.stream (unitKey spos unit) with
    | [] => .next s
    | o :: _ =>
      match o.instr with
      | .creplay x => .next (s.replayHead b spos unit o x)
      | .cinit _ | .cmps _ | .cflush _ | .cread _ | .cretire _ => .next (s.slotHead b spos unit o)
      | _ => .next (s.tileHead b spos unit o)

end Sys2Proof.Machine
end

