-- ==== Sys2Proof/Machine/Place.lean ====
section
/-! DEFINITION. Placing blocks (R26, R31, R33 to R37, R40 to R44, R351, R370, R414, R462): the warps of a
block, the room of a core, the choice of die, cluster and positions, and the event BLOCK_PLACE. -/

namespace Sys2Proof.Machine

/-! ## The warps of a block -/

/-- A warp to be seated: its number, role, span position, budget and launched lanes, and the matrix unit of
whose partitions it takes one when it resumes (R414). -/
structure Seat where
  wid : Nat
  role : Nat
  spos : Nat
  budget : Nat
  lanes : Mask
  unit : Option Nat
  deriving DecidableEq, Repr

/-- The launched lanes of a role's last warp (R29). -/
def lowLanes (n : Nat) : Mask := maskBelow (fun _ => true) n

/-- The warps of a kernel in WARPID order: roles, then span positions, then warps (R31). -/
def kdSeats (kd : BitVec 2048) : List Seat :=
  let l := (List.range 4).flatMap fun k =>
    if roleBudget kd k == 0 then []
    else ((List.range (kdSpan kd)).filter fun p => bitAt (roleCmask kd k) p).flatMap fun p =>
      (List.range (roleWarps kd k)).map fun i =>
        (k, p, if i + 1 == roleWarps kd k then lowLanes (roleLast kd k) else BitVec.allOnes 32)
  l.zipIdx.map fun x => ⟨x.2, x.1.1, x.1.2.1, roleBudget kd x.1.1, x.1.2.2, none⟩

/-- The warps of a kernel on one span core. -/
def kdWarpsOn (kd : BitVec 2048) (spos : Nat) : Nat := ((kdSeats kd).filter fun q => q.spos == spos).length

/-- The scratchpad of a block on one span core, with the spill area of deep divergence (R33, R35). -/
def kdScratchOn (kd : BitVec 2048) (spos : Nat) : Nat := kdScratch kd + if kdDeep kd then 512 * kdWarpsOn kd spos else 0

/-- What tiles and slots take of each matrix unit's share of the store (R82). -/
def kdStore (kd : BitVec 2048) : Nat := kdTiles kd * 8192 + ceilDiv (kdSlots kd) 4 * 128

/-! ## The room of a core -/

/-- What is in use on a core: warps and registers of each partition, scratchpad, store share, FIFOs,
barrier-table entries. -/
structure CoreUse where
  parts : List (Nat × Nat)
  scratch : Nat
  store : Nat
  fifos : Nat
  barriers : Nat
  deriving DecidableEq, Repr

def CoreUse.empty : CoreUse := ⟨List.replicate 16 (0, 0), 0, 0, 0, 0⟩

/-- The use of a core by its resident blocks, but for those that a test skips. -/
def State.coreUse (s : State) (skip : Nat → Bool) (d : DieId) (core : Nat) : CoreUse :=
  let bs := s.blocks.filter fun b => b.onCore d core && !skip b.handle
  let ws := s.warps.filter fun p => p.2.core == core && (match p.1 with
    | .warp h _ => bs.any (·.handle == h)
    | .seq _ => false)
  let sum := fun (f : Block → Nat) => (bs.map f).foldl (· + ·) 0
  { parts := (List.range 16).map fun k =>
      let q := ws.filter (·.2.part == k)
      (q.length, (q.map (·.2.budget)).foldl (· + ·) 0)
    scratch := sum fun b => kdScratchOn b.kd (core - (b.cluster * 4 + b.base))
    store := sum fun b => kdStore b.kd
    fifos := sum fun b => kdFifos b.kd
    barriers := sum fun b => kdBarriers b.kd }

/-- Has a core the room for a kernel's resources beside its warps? -/
def CoreUse.takes (u : CoreUse) (kd : BitVec 2048) (spos : Nat) : Bool :=
  decide (u.scratch + kdScratchOn kd spos ≤ 2 ^ 20) && decide (u.store + kdStore kd ≤ 2 ^ 20) &&
    decide (u.fifos + kdFifos kd ≤ 8) && decide (u.barriers + kdBarriers kd ≤ 256)

/-- The partition that takes a warp (R34): the fewest registers in use among those with room, the lowest
number on a tie. -/
def seatPart (parts : List (Nat × Nat)) (q : Seat) : Option Nat :=
  ((parts.zipIdx.filter fun p => decide (p.1.1 < 16) && decide (p.1.2 + q.budget ≤ 2048) &&
      (match q.unit with
      | some u => p.2 / 4 == u
      | none => true)).foldl
    (fun (best : Option (Nat × Nat)) p => match best with
      | some b => if p.1.2 < b.1 then some (p.1.2, p.2) else best
      | none => some (p.1.2, p.2)) none).map (·.2)

/-- Seat warps one at a time, in order; `us` holds the partitions in use at each span position. -/
def seatAll : List (List (Nat × Nat)) → List Seat → Option (List Nat)
  | _, [] => some []
  | us, q :: qs =>
    match us[q.spos]? with
    | none => none
    | some parts =>
      match seatPart parts q with
      | none => none
      | some k =>
        let used := (parts.getD k (0, 0))
        (seatAll (listSet us q.spos (listSet parts k (used.1 + 1, used.2 + q.budget))) qs).map fun l => k :: l

/-- Does a block fit on its span cores, and in which partitions do its warps sit? -/
def fitOn (us : List CoreUse) (kd : BitVec 2048) (qs : List Seat) : Option (List Nat) :=
  if us.zipIdx.all fun u => u.1.takes kd u.2 then seatAll (us.map (·.parts)) qs else none

/-! ## The choice of positions -/

/-- The lowest positions of the permitted sets, in the order of R26. -/
def spanBases : Nat → List Nat
  | 1 => [0, 1, 2, 3]
  | 2 => [0, 2]
  | 3 => [0, 1]
  | 4 => [0]
  | _ => []

/-- May the Percolator place a block on a core (R461, R462)? -/
def Die.openCore (x : Die) (core : Nat) : Bool := !x.retired.contains core && !x.marked.contains core

/-- A place for a block: cluster, lowest position, partitions of its warps. -/
structure Spot where
  cluster : Nat
  base : Nat
  parts : List Nat
  deriving DecidableEq, Repr

/-- The first place on a die where a block fits (R351): the lowest cluster, the first set. -/
def State.findSpot (s : State) (skip : Nat → Bool) (d : DieId) (kd : BitVec 2048) (qs : List Seat) : Option Spot :=
  (List.range 12).findSome? fun c =>
    (spanBases (kdSpan kd)).findSome? fun base =>
      let cores := rangeFrom (c * 4 + base) (kdSpan kd)
      if cores.all (s.die d).openCore then
        (fitOn (cores.map (s.coreUse skip d)) kd qs).map fun l => ⟨c, base, l⟩
      else none

/-- Free warp slots of a die's cores in service: a core that awaits its spare is still one of them. -/
def State.freeSlots (s : State) (d : DieId) : Nat :=
  let cores := (List.range 48).filter fun c => !(s.die d).retired.contains c
  256 * cores.length - (s.warps.filter fun p => match s.placeOf p with
    | some c => c.1 == d && cores.contains c.2
    | none => false).length

/-- A die that places blocks (R360, R439). -/
def State.serves (s : State) (d : DieId) : Bool :=
  let x := s.die d
  x.serving && !x.lost && !x.withdrawing

/-- The dies that a launch may use for its next block (R41, R359, R360): within its range, given the dies on
which it runs. A die whose Percolator is halted or restarts places nothing (R457, R463). A withdrawing die that still holds blocks of the launch counts no more towards MAXDIES (the model's choice,
entry 80). -/
def State.launchDies (s : State) (j : Job) (inst : Nat) : List DieId :=
  let serv := [false, true].filter s.serves
  if serv.length < j.minDies then []
  else
    (match j.batch with
    | some b => serv.filter (· == b.on)
    | none =>
      let serv := serv.filter fun d => !s.leavesLaunch j.id inst d
      let on := serv.filter fun d => s.blocks.any fun b => b.job == j.id && b.inst == inst && b.die == d
      if j.maxDies ≤ on.length then on else serv).filter fun d => !s.paused d

/-- The die for a block (R351): of those on which it fits the one with more free warp slots, and die A on a tie. -/
def State.chooseDie (s : State) (skip : Nat → Bool) (ds : List DieId) (kd : BitVec 2048) (qs : List Seat) : Option (DieId × Spot) :=
  let fits := ds.filterMap fun d => (s.findSpot skip d kd qs).map fun x => (d, x)
  fits.foldl (fun (best : Option (DieId × Spot)) x => match best with
    | some b => if s.freeSlots b.1 < s.freeSlots x.1 then some x else best
    | none => some x) none

/-! ## Allocating a block -/

/-- Insert a piece into a list ordered by start. -/
def insertPiece (x : Nat × Nat) : List (Nat × Nat) → List (Nat × Nat)
  | [] => [x]
  | y :: l => if x.1 ≤ y.1 then x :: y :: l else y :: insertPiece x l

/-- The gaps from `pos` to `size` between pieces ordered by start. -/
def gapsOf (size pos : Nat) : List (Nat × Nat) → List (Nat × Nat)
  | [] => if pos < size then [(pos, size - pos)] else []
  | p :: l => (if pos < p.1 then [(pos, p.1 - pos)] else []) ++ gapsOf size (max pos (p.1 + p.2)) l

/-- The first `n` bytes of the gaps. -/
def takeGaps : Nat → List (Nat × Nat) → List (Nat × Nat)
  | _, [] => []
  | n, g :: l => if n == 0 then [] else if n ≤ g.2 then [(g.1, n)] else g :: takeGaps (n - g.2) l

/-- What the blocks on a core have of one of its arrays. -/
def State.piecesOn (s : State) (d : DieId) (core : Nat) (f : Block → List (List (Nat × Nat))) : List (Nat × Nat) :=
  s.blocks.flatMap fun b => if b.onCore d core then (f b).getD (core - b.coreAt 0) [] else []

/-- The pieces that a block takes of an array of 1 MiB of each of its span cores: the lowest free ones (which bytes an
allocation takes is the model's choice, entry 81). -/
def State.allocate (s : State) (d : DieId) (core span : Nat) (need : Nat → Nat) (f : Block → List (List (Nat × Nat))) :
    List (List (Nat × Nat)) :=
  (List.range span).map fun p => takeGaps (need p) (gapsOf (2 ^ 20) 0 ((s.piecesOn d (core + p) f).foldl (fun l x => insertPiece x l) []))

/-- The pieces of a block at a place. -/
def State.allocated (s : State) (b : Block) : Block :=
  { b with
    scratchAt := s.allocate b.die (b.coreAt 0) (kdSpan b.kd) (kdScratchOn b.kd) (·.scratchAt)
    storeAt := s.allocate b.die (b.coreAt 0) (kdSpan b.kd) (fun _ => kdStore b.kd) (·.storeAt) }

/-- Placement writes the tiles and slots of a block, and the first `n` bytes of its scratchpad on each core: uncorrectable
words there are written (R431). -/
def State.cleared (s : State) (b : Block) (n : Nat) : State :=
  if s.bad.isEmpty then s
  else (List.range (kdSpan b.kd)).foldl (fun s p =>
    let s := s.wroteAt ((List.range n).map fun o => scratchPhys b.die (b.coreAt p) (pieceOffset (b.scratchAt.getD p []) o))
    (List.range 4).foldl (fun s m => s.wroteStore b p m [(0, kdStore b.kd)]) s) s

/-- The span cores of a placed block: one that holds a warp is awake and counts its cycles; one that holds none
stands in its hold (R370). -/
def State.wakeSpan (s : State) (d : DieId) (cores : List Nat) : State :=
  let y := s.die d
  let s := s.setDie d { y with power := cores.foldl (fun p c =>
    if s.warps.any (fun q => s.placeOf q == some (d, c)) then aput c CorePower.awake p
    else match y.corePower c with
      | .holding t => aput c (.holding t) p
      | _ => aput c (.holding y.dtime) p) y.power }
  cores.foldl (fun s c => s.startClock (coreKey d c)) s

/-- A new block at a place, with every warp at its first instruction (R27, R31, R33, R37, R194, R227, R262,
R275, R302, R315, R368). -/
def State.putFresh (s : State) (j : Job) (i : Inst) (d : DieId) (x : Spot) : State :=
  let h := s.nextId
  let core := x.cluster * 4 + x.base
  let b : Block := s.allocated
    { handle := h, job := j.id, inst := i.no, no := i.nextBlock, tenant := j.tenant, die := d, cluster := x.cluster, base := x.base
      kdVa := j.kdVa, kd := j.kd, order := h, cls := 1, lmask := 0, ckptSince := s.now d, since := s.now d, ckno := none, stopReq := none, stopFor := none, cut := none
      halted := false, late := 0, dropped := 0, invq := 0, conts := 0, limq := 0, mapq := 0, tiles := [], slots := [], units := [], fifos := []
      streams := [], coming := [], ctxs := [], cull := [], overflow := [], scratchAt := [], storeAt := [], batch := j.batch, passed := false, abandonAt := none }
  let ws := ((kdSeats j.kd).zip x.parts).map fun p =>
    (Issuer.warp h p.1.wid,
      { Warp.fresh p.1.role p.1.spos (core + p.1.spos) p.2 p.1.budget (rolePrio j.kd p.1.role) p.1.lanes
          (pcOf (kdCode j.kd + roleEntry j.kd p.1.role)) with
        placed := s.clock (coreKey d (core + p.1.spos)) })
  let cores := rangeFrom core (kdSpan j.kd)
  let s : State := { s with
    nextId := h + 1
    blocks := s.blocks ++ [b]
    warps := s.warps ++ ws
    l1 := s.l1.filter fun l => !(l.die == d && cores.contains l.core) }
  let s := (s.cleared b (16 * kdBarriers j.kd)).wakeSpan d cores
  s.setJob { (j.setInst { i with first := true, nextBlock := i.nextBlock + 1, resSince := some (i.resSince.getD (s.now j.die)) }) with
    firstSince := none }

/-- The warps with a live lane of a context record, in WARPID order, each bound to its matrix unit (R414). -/
def CtxRec.seats (c : CtxRec) : List Seat :=
  (c.warps.filter fun p => p.2.live != 0).map fun p =>
    ⟨match p.1 with
      | .warp _ k => k
      | .seq _ => 0, p.2.role, p.2.spos, p.2.budget, p.2.launched, some (p.2.part / 4)⟩

/-- Early credits of a record enter the table of their core, or stay in the block's overflow list (R415). -/
def State.putCredits (s : State) (h : Nat) : List (Nat × Nat × Nat) → State
  | [] => s
  | e :: l =>
    match s.block? h with
    | none => s
    | some b =>
      match s.parkEarly b e.1 e.2.1 e.2.2 with
      | .done s => s.putCredits h l
      | _ => (s.setBlock { b with overflow := b.overflow ++ [e] }).putCredits h l

/-- A block resumes at a place from its record (R414 to R416). Its parked accesses replay their unperformed
lanes before its warps issue. -/
def State.putResumed (s : State) (j : Job) (c : CtxRec) (d : DieId) (x : Spot) : State :=
  let h := c.block.handle
  let core := x.cluster * 4 + x.base
  let rank := s.nextId
  let cores := rangeFrom core (kdSpan c.block.kd)
  let b : Block := s.allocated { c.block with
    die := d, cluster := x.cluster, base := x.base, order := rank, ckptSince := s.now d, since := s.now d, cut := none, stopReq := none, stopFor := none, passed := false, overflow := []
    tiles := c.block.tiles.filter fun t => bitAt c.block.lmask.toNat (t.1 / 2048 % 128 / 4) }
  let live := c.warps.filter fun p => p.2.live != 0
  let ws := (live.zip x.parts).map fun p =>
    let now := s.clock (coreKey d (core + p.1.2.spos))
    (p.1.1, { p.1.2 with
      core := core + p.1.2.spos, part := p.2, placed := now, readySince := none, notBefore := now, lastIssue := none
      heldAt := none, yl := false, yieldAt := none, fetchPark := false })
  let s : State := { s with
    nextId := rank + 1
    ctxRecs := s.ctxRecs.filter fun y => y.block.handle != h
    blocks := s.blocks ++ [b]
    warps := s.warps ++ ws
    accs := s.accs ++ c.accs.map fun (a : Acc) => { a with core := core + a.spos }
    copies := s.copies ++ c.copies.map fun (y : CopyCmd) => { y with die := d, core := core + y.spos }
    pubs := s.pubs ++ c.pubs
    travQ := s.travQ ++ c.travs.map fun (y : TravCmd) => { y with die := d, cluster := x.cluster }
    l1 := s.l1.filter fun l => !(l.die == d && cores.contains l.core) }
  let s := (s.cleared b (kdScratch b.kd)).wakeSpan d cores
  let insts := j.insts.map fun (i : Inst) => if i.no == c.inst then { i with resSince := some (i.resSince.getD (s.now j.die)) } else i
  (s.setJob { j with firstSince := none, insts := insts }).putCredits h c.credits

/-! ## The next placement -/

/-- What a launch places next: its recorded blocks first. A cooperative launch places all its blocks together, and a
resumed one all the blocks that have records (R44, R414); a block of it that has exited early is replaced by one (R40). -/
inductive Next where
  | fresh
  | resume (c : CtxRec)
  deriving DecidableEq, Repr

def State.nextBlocks (s : State) (j : Job) (i : Inst) : List Next :=
  match s.ctxRecs.filter fun c => c.job == j.id && c.inst == i.no with
  | [] => List.replicate (if j.coop && !i.first then j.blocks else 1) .fresh
  | c :: l => if j.coop then (c :: l).map .resume else [.resume c]

/-- The kernel and the warps of a block to place. -/
def Next.seats (j : Job) : Next → List Seat
  | .resume c => c.seats
  | _ => kdSeats j.kd

/-- Place blocks one after the other, each on the die of R351 among `ds`, or on one that the launch may use;
the dies chosen, and the state, or `none` when one does not fit. -/
def State.placeAll (s : State) (job inst : Nat) (ds : Option (List DieId)) : List Next → Option (List DieId × State)
  | [] => some ([], s)
  | n :: ns =>
    match s.job? job with
    | none => none
    | some j =>
      match j.inst? inst with
      | none => none
      | some i =>
        match s.chooseDie (fun _ => false) (ds.getD (s.launchDies j inst)) j.kd (n.seats j) with
        | none => none
        | some (d, x) =>
          let t := match n with
            | .resume c => s.putResumed j c d x
            | _ => s.putFresh j i d x
          (t.placeAll job inst ds ns).map fun r => (d :: r.1, r.2)

/-- The dies on which a cooperative launch runs, for a block that takes the place of one that has exited: their number stays
(R42). -/
def State.coopDies (s : State) (j : Job) (inst : Nat) : List DieId :=
  let on := fun (d : DieId) => s.blocks.any fun b => b.job == j.id && b.inst == inst && b.die == d
  (s.launchDies j inst).filter fun d => on d || !(on false || on true)

/-- The placement of an instance's next blocks. A cooperative launch of one die takes a die on which all its
blocks fit. -/
def State.planFor (s : State) (j : Job) (i : Inst) : Option (List DieId × State) :=
  let ns := s.nextBlocks j i
  if j.coop && i.first && !s.hasCtx j.id i.no then s.placeAll j.id i.no (some (s.coopDies j i.no)) ns
  else if j.coop && j.maxDies == 1 then
    let fits := (s.launchDies j i.no).filterMap fun d => (s.placeAll j.id i.no (some [d]) ns).map fun r => (d, r)
    (fits.foldl (fun (best : Option (DieId × List DieId × State)) x => match best with
      | some b => if s.freeSlots b.1 < s.freeSlots x.1 then some x else best
      | none => some x) none).map (·.2)
  else s.placeAll j.id i.no none ns

/-- Does an address lie on a die that is leaving or has left service (R360)? -/
def State.onLeaving (s : State) (pa : Nat) : Bool :=
  match homeOf pa with
  | some h => (s.die h).withdrawing
  | none => false

/-- Data that keep a job waiting for both dies: a window backing on the leaving die, or a DONEREC, PUBLIST or
REC homed there on a page that is not duplex (R418). -/
def State.tiedToLeaving (s : State) (j : Job) : Bool :=
  ((s.die false).withdrawing || (s.die true).withdrawing) &&
    (j.windows.any (fun w => s.onLeaving w.bpa0 || s.onLeaving w.bpa1) ||
      [cardField j.card 1087 1024, cardField j.card 959 896, j.recs].any fun va =>
        va != 0 && (match (s.translate (percAgent j.die j.tenant) va ⟨false, false, false⟩).2 with
          | some x => !x.dup && s.onLeaving x.pa
          | none => false))

/-- Must an instance hold its placement: a block of its predecessor is resident (R344), blocks of a stopped run
of its job have not returned (R465), a stop request or cut of it is pending (R353), or its job waits for both
dies (R418)? -/
def State.heldBack (s : State) (j : Job) (i : Inst) : Bool :=
  (s.blocks.any fun b => b.job == j.id && (b.halted || decide (b.inst < i.no) ||
    (b.inst == i.no && (b.stopReq.isSome || b.cut.isSome)))) || s.tiedToLeaving j

/-! ## The context arena (R409, R417) -/

/-- The records of the blocks that an instance resumes next. -/
def State.nextRecs (s : State) (j : Job) (i : Inst) : List CtxRec :=
  (s.nextBlocks j i).filterMap fun
    | .resume c => some c
    | .fresh => none

/-- Does a die's Percolator wait for the repair of a page of a record of an instance? -/
def State.recParked (s : State) (d : DieId) (job inst : Nat) : Bool :=
  s.ctxRecs.any fun c => c.job == job && c.inst == inst && s.parks.any fun p => p.die == d && p.who == .record c.block.handle

/-- The Percolator of a die reads records through tenant 0's tables, from its own copies (R417). Those that meet a page to be
repaired park, with the job's number (R399); the flag tells that all were read. One that cannot be read for another reason
counts as read (entry 82). -/
def State.readRecords (s : State) (d : DieId) (j : Job) (l : List CtxRec) : State × Bool :=
  l.foldl (fun (r : State × Bool) c =>
    let g := percAgent d 0
    match r.1.load g c.place c.bytes.length with
    | (s, .park p k q) =>
      if k == 1 && s.refused g (p * 65536) ⟨true, false, false⟩ then (s, r.2)
      else (s.parkFor j.no (.record c.block.handle) g 7 p k q, false)
    | (s, _) => (s, r.2)) (s, true)

/-- The cores of the blocks that a plan places, in order. -/
def State.planned (s t : State) : List (DieId × Nat) :=
  (t.blocks.filter fun b => decide (s.nextId ≤ b.order)).flatMap fun b =>
    (rangeFrom (b.cluster * 4 + b.base) (kdSpan b.kd)).map fun c => (b.die, c)

/-- Those of them that must wake before the blocks are placed. -/
def State.asleep (s t : State) : List (DieId × Nat) :=
  (s.planned t).filter fun c => match (s.die c.1).corePower c.2 with
    | .gated | .waking _ => true
    | _ => false

/-- Ask for cores to wake (R370): a gated one starts to, and one in its hold abandons the hold (R460); without a warp yet, a new
one begins. -/
def State.askWake (s : State) (l : List (DieId × Nat)) : State :=
  l.foldl (fun s c =>
    let x := s.die c.1
    let set := fun (p : CorePower) => s.setDie c.1 { x with power := aput c.2 p x.power }
    match x.corePower c.2 with
    | .gated => set (.waking x.dtime)
    | .holding _ => set (.holding x.dtime)
    | _ => s) s

/-- The placement that the placer of a die makes now (R351): the first instance of the ready queue that may
place, fits, and whose choice of die names that die; with its plan. -/
def State.nextPlacement (s : State) (d : DieId) : Option (Job × Inst × State) :=
  if s.paused d || !s.serves d then none
  else s.queue.findSome? fun x =>
    if s.heldBack x.1 x.2 || s.recParked d x.1.id x.2.no then none
    else match s.planFor x.1 x.2 with
      | some (c :: _, t) => if c == d then some (x.1, x.2, t) else none
      | _ => none

/-- Carry a placement out; gated cores are woken first, and the blocks are placed once they are awake. -/
def State.carryOut (s t : State) : State :=
  if (s.asleep t).isEmpty then t.noteFirst else s.askWake (s.planned t)

/-- BLOCK_PLACE: the placer of a die places the next fresh block, or a whole cooperative launch. -/
def execBlockPlace (die : DieId) (s : State) : Host.Outcome State Fault Refusal :=
  match s.nextPlacement die with
  | some (j, i, t) => if s.hasCtx j.id i.no then .next s else .next (s.carryOut t)
  | none => .next s

/-- BLOCK_RESUME: the placer of a die resumes the next recorded block, or a whole cooperative launch. -/
def execBlockResume (die : DieId) (s : State) : Host.Outcome State Fault Refusal :=
  match s.nextPlacement die with
  | some (j, i, _) =>
    if s.hasCtx j.id i.no then
      match s.readRecords die j (s.nextRecs j i) with
      | (s, true) => .next (match s.planFor j i with
        | some p => s.carryOut p.2
        | none => s)
      | (s, false) => .next s
    else .next s
  | none => .next s

end Sys2Proof.Machine
end

