-- ==== Sys2Proof/Machine/Dies.lean ====
section
/-! DEFINITION. One die, and back: stop requests (R404), the single-die transition and its collapse (R360,
R361, R418), the return (R362, R378), and the loss of a die (R439 to R441), with the events DIEMODE_SINGLE,
DIEMODE_BOTH, TRIVET_HEARTBEAT, LINK_RETRY and DIE_LOST. -/

namespace Sys2Proof.Machine

/-- Ask blocks of a job to cut themselves at their next CKPT (R404): reason 0 pre-emption, 1 withdrawal,
2 single-die transition, 3 cooperative die-count change; `waiting` is the job that pre-empts. -/
def State.requestStop (s : State) (job : Nat) (reason : BitVec 2) (waiting : Option Nat) (which : Block → Bool) : State :=
  { s with blocks := s.blocks.map fun (b : Block) =>
      if b.job == job && which b && !b.halted && b.cut.isNone then { b with stopReq := some reason, stopFor := waiting, passed := false } else b }

/-- Once no block of an instance is resident, its budget count stands still (R421). -/
def State.noteGone (s : State) (job inst : Nat) : State :=
  if !(s.blocksOf job inst).isEmpty then s
  else
    match s.job? job with
    | none => s
    | some j => match j.inst? inst with
      | none => s
      | some i => match i.resSince with
        | none => s
        | some t => s.setJob (j.setInst { i with budgetUsed := i.budgetUsed + (s.now j.die - t), resSince := none })

/-- Must a job leave the dies as a whole for a transition (R360, R418)? -/
def State.mustStop (s : State) (j : Job) : Bool :=
  j.minDies == 2 || s.tiedToLeaving j || (j.coop && s.diesOf j.id == 2)

/-- DIEMODE of both dies (R335): one mode, which each die's register shows. -/
def State.setMode (s : State) (m : Word) : State := (s.setCsr false 0x350 m).setCsr true 0x350 m

def State.setBusy (s : State) (b : Bool) : State :=
  { s with dieA := { s.dieA with busy := b }, dieB := { s.dieB with busy := b } }

/-- The mode that names a die. -/
def modeOf (survivor : DieId) : Word := if survivor then 2 else 1

/-- The front-end sequencers of a die stop or start again with it. -/
def State.haltSeqs (s : State) (d : DieId) (b : Bool) : State :=
  { s with seqs := s.seqs.map fun q => if q.1.die == d && !q.1.trivet then (q.1, { q.2 with halted := b }) else q }

/-- Everything that chosen sequencers have asked for is discarded: accesses, parks and places in the queue of a ring. -/
def State.dropSeqs (s : State) (p : SeqId → Bool) : State :=
  let mine := fun (w : Issuer) => match w with
    | .seq q => p q
    | .warp _ _ => false
  { (s.unpark fun k => match k.who with
      | .fetch w => !mine w
      | .lane a _ => !s.accs.any fun x => x.id == a && mine x.who
      | _ => true) with
    accs := s.accs.filter fun a => !mine a.who
    fills := s.fills.filter fun f => !f.g.seq.any p
    rings := s.rings.map fun (r : RingMarks) => { r with waiters := r.waiters.filter fun w => !mine w } }

/-- A sequencer starts: a fresh warp of lane 0 with every register (R69). The manual gives no entry address, so
its program counter is a free value. `await` says that its first heartbeat is owed (R457). -/
def State.startSeq (s : State) (q : SeqId) (await : Bool) : State :=
  let pc : Pc := BitVec.ofNat 48 (Config.free s.freeCtr)
  let x := s.seq q
  let s := (s.bumpFree.setWarp (.seq q) (Warp.fresh 0 0 0 0 384 0 1 pc)).setSeq q
    { x with lastBeat := s.now q.die, awaitBeat := await, halted := false, isolated := false }
  s.dropSeqs (· == q)

/-- The four front-end sequencers of a die start (R457). -/
def State.startSeqs (s : State) (d : DieId) (await : Bool) : State :=
  (List.range 4).foldl (fun s n => s.startSeq ⟨d, false, n⟩ await) s

/-- The Trivet of a die runs on while the die is down for a transition (R361), and is gone with a lost one (R440): as the
die powers up again, its Trivet is there (R362). -/
def State.haltTrivet (s : State) (d : DieId) : State := s.setSeq ⟨d, true, 0⟩ { s.seq ⟨d, true, 0⟩ with halted := true }
def State.wakeTrivet (s : State) (d : DieId) : State :=
  if (s.seq ⟨d, true, 0⟩).halted then s.startSeq ⟨d, true, 0⟩ false else s

/-- A die leaves service: nothing of it stays in a cache, and its memory answers no access. -/
def State.takeDown (s : State) (d : DieId) : State :=
  let x := s.die d
  let s := s.setDie d { x with up := false, serving := false, lost := true }
  ({ s with
    msc := s.msc.filter fun m => m.die != d
    l1 := s.l1.filter fun l => l.die != d
    tlb := s.tlb.filter fun t => t.die != d } : State).haltSeqs d true

/-- Node ring registers of a die move to a free ring of the other die's table (R360 step 4): QMD, QMCTL, QMDL,
the batches and stamps of the ring. With no free ring there the registers stay where they are (the model's choice, entry
83). -/
def State.moveRing (s : State) (src dst : DieId) (q : Nat) : State :=
  if !bitAt (s.qmctl src q) 4 then s
  else
    match (List.range 32).find? fun k => !bitAt (s.qmctl dst k) 4 with
    | none => s
    | some k =>
      let cp := fun (s : State) (i : Nat) => s.setCsr dst (0x380 + 4 * k + i) (BitVec.ofNat 32 (s.csr src (0x380 + 4 * q + i)))
      let s := [0, 1, 2, 3].foldl cp s
      let y := s.die dst
      let s := s.setDie dst { y with stamps := (y.stamps.filter fun e => e.1 != k) ++
        ((s.die src).stamps.filter fun e => e.1 == q).map fun e => (k, e.2) }
      let s := s.setCsr src (0x382 + 4 * q) 0
      let move := fun (b : Batch) => if b.die == src && b.ring == q then { b with die := dst, ring := k } else b
      { s with
        jobs := s.jobs.map fun (j : Job) => { j with batch := j.batch.map move }
        blocks := s.blocks.map fun (b : Block) => { b with batch := b.batch.map move } }

/-- The surviving Percolator takes over (R360 steps 4 and 5, R349): the launches, node rings, event entries,
held records and pending items of the leaving die, and every batch that it was to place. What its Percolator waited for is
asked for again, and chained waits are tested. The event table may then hold more than the 8192 entries of R21: all of them
stay live, and only a new entry is refused (the model's choice, entry 90). -/
def State.takeOver (s : State) (src dst : DieId) : State :=
  let s := (List.range 32).foldl (fun s q => s.moveRing src dst q) s
  let s := { s with jobs := s.jobs.map fun (j : Job) => { j with
    die := if j.die == src then dst else j.die
    batch := j.batch.map fun (b : Batch) => if b.on == src then { b with on := dst } else b } }
  let x := s.die src
  let y := s.die dst
  let s := s.setDie dst { y with events := y.events ++ x.events, held := y.held ++ x.held, percQ := y.percQ ++ x.percQ }
  let s := s.setDie src { x with events := [], held := [], percQ := [] }
  (s.unpark fun p => match p.who with
    | .percolator _ => p.die != src
    | _ => true).retest dst

/-- The transition ends once no block is left on the leaving die and no job that must leave both dies runs
(R360, R361). -/
def State.tryCollapse (s : State) : State :=
  match [false, true].find? fun d => (s.die d).withdrawing && (s.die d).serving && (s.die d).busy with
  | none => s
  | some l =>
    if s.blocks.any (fun b => b.die == l) || s.jobs.any (fun j => s.mustStop j && s.blocks.any fun b => b.job == j.id) then s
    else
      -- R361 steps 1 and 2
      let s := s.mscEvict fun m => m.die == (!l) && homeOf (m.line * 128) == some l
      let s := s.mscEvict fun m => m.die == l
      ((((s.takeOver l (!l)).takeDown l).setBusy false).setMode (modeOf (!l))).noteFirst

/-- A launch that was withdrawn from a die may use it again: the other one goes. -/
def State.clearLeaving (s : State) : State :=
  { s with jobs := s.jobs.map fun (j : Job) => { j with insts := j.insts.map fun (i : Inst) => { i with leaving := none } } }

/-- The Percolator withdraws a die from a launch, or adds it again (R41, R42). Withdrawing leaves the launch at least
MINDIES dies, and its blocks there finish their chunks, or cut themselves where the card allows checkpoints (R404). The
die count of a cooperative launch changes only by a cut of every block. When the Percolator does so is open: a turn of the
agenda decides it. -/
def State.spread (s : State) (job inst : Nat) (die : DieId) (add : Bool) : State :=
  match s.job? job with
  | none => s
  | some j => match j.inst? inst with
    | none => s
    | some i =>
      let mine := fun (b : Block) => b.inst == inst
      let here := s.blocks.any fun b => b.job == job && b.inst == inst && b.die == die
      let there := s.blocks.any fun b => b.job == job && b.inst == inst && b.die != die
      let set := fun (s : State) (d : Option DieId) => s.setJob (j.setInst { i with leaving := d })
      if j.gone || i.stopped || j.batch.isSome || !s.serves die || !s.serves (!die) || (j.coop && !j.mayCkpt) then s
      else if add then
        if here || j.maxDies < 2 then s
        else if j.coop && there then set (s.requestStop job 3 none mine) none
        else set s none
      else if i.leaving.isSome || j.minDies == 2 || !here || (j.coop && !there) then s
      else if j.coop then set (s.requestStop job 3 none mine) (some die)
      else set (if j.mayCkpt then s.requestStop job 1 none fun b => b.inst == inst && b.die == die else s) (some die)

/-- Start the single-die transition with a survivor (R360 steps 1 to 3). -/
def State.goSingle (s : State) (survivor : DieId) : State :=
  if s.dieA.busy || s.dieB.busy || !s.serves survivor then s
  else if !s.serves (!survivor) then s.setMode (modeOf survivor)
  else
    let l := !survivor
    let x := s.die l
    let s := (((s.setDie l { x with withdrawing := true }).setBusy true).setMode (modeOf survivor)).clearLeaving
    let s := s.jobs.foldl (fun s j =>
      if s.mustStop j then
        if !s.blocks.any (fun b => b.job == j.id) then s
        else if j.mayCkpt then s.requestStop j.id 2 none fun _ => true
        else if j.mayKill then (s.killInst j.id (s.liveInst j))
        else s
      else if j.mayCkpt then s.requestStop j.id 2 none fun b => b.die == l
      else s) s
    s.tryCollapse

/-- DIEMODE_SINGLE: a write of 1 or 2. -/
def execDiemodeSingle (_die survivor : DieId) (s : State) : Host.Outcome State Fault Refusal := .next (s.goSingle survivor)

/-- A sector of the die that returns takes the bytes and the poison of the surviving copy (R437). -/
def State.copySector (s : State) (l : DieId) (c : Nat) : State :=
  let src := if homeOf (c * 64) == some l then otherCopy (c * 64) else c * 64
  let dst := otherCopy src / 64
  { s.store (otherCopy src) (s.bytes src 64) with
    poison := (s.poison.filter fun e => e.1 != dst) ++ ((alook (src / 64) s.poison).map fun x => (dst, x)).toList }

/-- Every duplex page has identical copies again (R362 step 5, R437): the sectors written while a die was away, and those
that are poisoned in one copy, are copied to it. -/
def State.bringBack (s : State) (l : DieId) : State :=
  let written := s.apart.flatMap fun r => rangeFrom (r.1 / 64) ((r.1 + r.2 + 63) / 64 - r.1 / 64)
  let poisoned := (s.poison.map (·.1)).filter fun c => s.mapsDuplex (c * 64)
  let s := (written ++ poisoned).foldl (fun s c => s.copySector l c) s
  ({ s with apart := [] } : State).unpark fun k => k.reason != 2 || (alook k.sector s.poison).isSome

/-- The module returns to two dies (R362): the die that left serves again with the surviving die's time (R378),
its events return to it, and duplex pages are identical again. -/
def State.goBoth (s : State) : State :=
  if s.dieA.busy || s.dieB.busy then s
  else
    match [false, true].find? fun d => (s.die d).withdrawing && !(s.die d).serving with
    | none => s
    | some l =>
      let x := s.die l
      let y := s.die (!l)
      let home := fun (e : EvEntry) => e.name.getLsbD 15 == l
      let x : Die := { x with
        up := true
        serving := true
        lost := false
        withdrawing := false
        dtime := y.dtime
        events := y.events.filter home
        halted := false
        hangs := []
        powerBeat := y.dtime
        trivetBeat := y.dtime }
      let s := s.setDie l x
      let s := s.setDie (!l) { y with events := y.events.filter (fun e => !home e), trivetBeat := y.dtime, retrainAt := none }
      (((((s.startSeqs l false).wakeTrivet l).bringBack l)).setMode 0).noteFirst

/-- DIEMODE_BOTH: a write of 0. -/
def execDiemodeBoth (_die : DieId) (s : State) : Host.Outcome State Fault Refusal := .next s.goBoth

/-! ## Loss of a die -/

/-- TRIVET_HEARTBEAT: the heartbeat of the other die's Trivet reaches a die (R439). -/
def execTrivetHeartbeat (die : DieId) (s : State) : Host.Outcome State Fault Refusal :=
  let x := s.die die
  .next (if (s.die (!die)).lost then s else s.setDie die { x with trivetBeat := x.dtime })

/-- LINK_RETRY: a flit fails its CRC and is sent again; once 8 such retries have failed, the link retrains (R452, R434). -/
def execLinkRetry (die : DieId) (s : State) : Host.Outcome State Fault Refusal :=
  let x := s.die die
  .next (if 8 ≤ x.retries then s.setDie die { x with retries := 0, retrainAt := some x.dtime }
    else s.setDie die { x with retries := x.retries + 1, retrainAt := none })

/-- May a die declare the other one lost: three heartbeats missed, or no retraining within 50 µs (R439)? -/
def Die.mayDeclare (x : Die) : Bool :=
  decide (x.trivetBeat + 300000 ≤ x.dtime) || (match x.retrainAt with
    | some t => decide (t + 50000 ≤ x.dtime)
    | none => false)

/-- Remove blocks with everything that works for them; early credits of other blocks enter the entries that become free
(R415). -/
def State.dropBlocks (s : State) (hs : List Nat) : State :=
  let gone := s.blocks.filter fun b => hs.contains b.handle
  let s := s.stopBlocks hs
  let out := fun (h : Nat) => !hs.contains h
  let qs := (s.queries.filter fun q => !out q.block).map (·.id)
  let s : State := { (s.unpark fun p => match p.who with
      | .copy c => !s.copies.any fun x => x.id == c && !out x.block
      | .path q _ => !qs.contains q
      | .stream h _ => out h
      | _ => true) with
    copies := s.copies.filter fun c => out c.block
    queries := s.queries.filter fun q => out q.block
    conts := s.conts.filter fun c => !qs.contains c.query
    early := s.early.filter fun e => out e.block }
  gone.foldl (fun s b => (rangeFrom (b.coreAt 0) (kdSpan b.kd)).foldl (fun s n => s.refillEarly b.die n 16) (s.unplace b)) s

/-- A remote write that was outstanding to the lost die (R435, R436): one to a duplex page is performed once in
the surviving copy, where it has not been, and any other has an unknown outcome. A lane's write that meets poison or a fault
there is attempted anew (R429), and the copy engine's is tried until it is performed. -/
def State.settleRemote (s : State) (r : Remote) : State :=
  let kept := fun (s : State) => s.kept.find? fun k => k.die == r.die && k.tag == r.tag
  if !r.duplex then s.unknownOutcome r
  else match kept s with
    | some k => (s.dropRemote r).answered r k.value
    | none =>
      let r := { r with home := r.die, resends := 0 }
      let t := s.sendAgain r
      match kept t with
      | some k => (({ t with kept := s.kept } : State).dropRemote r).answered r k.value
      | none =>
        let waits := match r.cmd with
          | some k => t.copies.any (·.id == k)
          | none => false
        let u := t.dropRemote r
        if waits then { u with remotes := u.remotes ++ [r] } else u

/-- A job is lost with the die that admitted it (R441): its blocks go, and no record and no PUB is written for it. -/
def State.loseJob (s : State) (job : Nat) : State :=
  let s := (s.dropBlocks ((s.blocks.filter fun b => b.job == job).map (·.handle))).forget job
  { s with jobs := s.jobs.filter (·.id != job) }

/-- Jobs after the collapse (R441): those that the lost die admitted are lost with it; an instance that had a block on
it is killed, and re-queued when its card allows it. -/
def State.settleJobs (s : State) (l : DieId) (hadBlock : List (Nat × Nat)) : State :=
  let lostJobs := (s.jobs.filter fun j => j.die == l).map (·.id)
  let s := lostJobs.foldl (fun s j => s.loseJob j) s
  hadBlock.foldl (fun s p => match s.job? p.1 with
    | none => s
    | some j =>
      if j.gone then s
      else if j.mayKill then s.killInst p.1 p.2 else s.endInst p.1 p.2 1) s

/-- A sector is poisoned: none of its bytes has been rewritten since (R429). -/
def poisonSector (p : List (Nat × List Nat)) (c : Nat) : List (Nat × List Nat) := (p.filter fun e => e.1 != c) ++ [(c, [])]

/-- Lines of the surviving die's memory that its directory shows as held by the lost die as written there: both sectors of
each are poisoned (R440 step 3). Whether such a line was still modified is free (entry 33). -/
def State.poisonOwned (s : State) (lines : List Nat) : State :=
  let bad := (lines.zipIdx.filter fun p => Config.remoteModified (s.freeCtr + p.2)).map (·.1)
  { s with
    freeCtr := s.freeCtr + lines.length
    poison := (bad.flatMap fun n => [2 * n, 2 * n + 1]).foldl poisonSector s.poison }

/-- Requests that were outstanding to the lost die, and what came from it (R440 step 1): a read that waits for it meets an
absent home, or the surviving copy of a duplex page, and so does what is parked on a poisoned sector there. -/
def State.closeLink (s : State) (l : DieId) : State :=
  let d := !l
  let s := s.dropSeqs fun q => q.die == l
  let again := fun (s : State) (a : Acc) (k : LaneAcc) =>
    if s.hostOut.any (fun h => h.acc == a.id && h.lane == k.lane) then k else { k with req := false }
  let s := (s.remotes.filter fun r => r.die == d).foldl (fun s r => s.settleRemote r) s
  let s := s.unpark fun p => p.die != l && (p.reason != 2 || homeOf (p.sector * 64) != some l)
  { s with
    remotes := s.remotes.filter fun r => r.die == d
    hostOut := s.hostOut.filter fun h => h.die == d
    pendq := s.pendq.filter fun e => e.1 == d
    frames := s.frames.filter fun e => e.1 == d
    accs := s.accs.map fun (a : Acc) => if a.op == .ld then { a with lanes := a.lanes.map (again s a) } else a }

/-- DIE_LOST: the surviving die declares the other one lost, posts its records (R439), collapses coherence (R440) and
settles the jobs (R441). The events of the lost die live again in the survivor's table, beyond its 8192 entries where they do
not fit (the model's choice, entry 90). The totals of the blocks that ran on the lost die are lost with it (entry 102). -/
def State.loseDie (s : State) (l : DieId) : State :=
  let d := !l
  let s := ((s.setBusy true).setMode (modeOf d)).clearLeaving
  -- the blocks that ran there, the instances they belonged to, and the lines of this die that it held as written
  let there := s.blocks.filter fun b => b.die == l
  let owned := (s.msc.filter fun m => m.die == l && m.owned && homeOf (m.line * 128) == some d).map (·.line)
  let s := there.foldl (fun s b => s.noteGone b.job b.inst) (s.dropBlocks (there.map (·.handle)))
  let s := (s.takeDown l).haltTrivet l
  let x := s.die l
  let s := s.setDie l { x with withdrawing := false }
  let tenants := 0 :: (rangeFrom 1 15).filter (s.enabled d)
  let s := tenants.foldl (fun s t => s.post d t [word0 5 t d 0xFFFF (2 * 2 ^ 24), 0, s.now d, if l then 1 else 0] 0 0) s
  -- step 1
  let s := s.closeLink l
  -- step 2: lines homed on the lost die leave with their data
  let s : State := { s with msc := s.msc.filter fun m => homeOf (m.line * 128) != some l }
  -- step 3
  let s := s.poisonOwned owned
  -- step 5: events homed on the lost die
  let y := s.die d
  let gone := (s.die l).events
  let s := s.setDie d { y with events := y.events ++ gone.map fun (e : EvEntry) => { e with count := 0 } }
  let x := s.die l
  let s := s.setDie l { x with events := [], held := [], percQ := [] }
  (((s.settleJobs l (there.map fun b => (b.job, b.inst)).eraseDups).setBusy false)).noteFirst

def execDieLost (lost : DieId) (s : State) : Host.Outcome State Fault Refusal :=
  let x := s.die (!lost)
  .next (if (s.die lost).lost || x.lost || !x.mayDeclare then s else s.loseDie lost)

end Sys2Proof.Machine
end

