-- ==== Sys2Proof/Machine/Admission.lean ====
section
/-! DEFINITION. Admission, release, the return of resources, completion and node batches (R36, R40, R44, R82,
R194, R223, R339, R341 to R345, R357 to R359, R399, R447, R462, R466): the events CARD_ADMISSION, JOB_RELEASE,
INSTANCE_RELEASE, BLOCK_RESOURCES_RETURN, LAUNCH_COMPLETE and NODE_BATCH. -/

namespace Sys2Proof.Machine

/-! ## The checks of descriptors and cards -/

/-- The bits [hi:lo] of a descriptor are zero. -/
def zeroBits (x : BitVec 2048) (l : List (Nat × Nat)) : Bool := l.all fun p => bits x.toNat p.1 p.2 == 0

/-- A role record (R79, R82). -/
def roleOk (kd : BitVec 2048) (k : Nat) : Bool :=
  if kdRole kd k 37 32 == 0 then kdRole kd k 127 0 == 0
  else
    decide (kdRole kd k 37 32 ≤ 48) && decide (1 ≤ roleWarps kd k) && decide (roleWarps kd k ≤ 256) &&
      decide (roleCmask kd k < 2 ^ kdSpan kd) && decide (1 ≤ roleLast kd k) && decide (roleLast kd k ≤ 32) &&
      roleEntry kd k % 16 == 0 && kdRole kd k 127 59 == 0

/-- The fields of a kernel descriptor outside its roles (R79). -/
def kdFieldsOk (kd : BitVec 2048) : Bool :=
  let vc := kdVcount kd
  let sw := kdSwcount kd
  kdField kd 15 0 == 0x444B && kdField kd 31 16 == 1 &&
    zeroBits kd [(2047, 1536), (1023, 576), (383, 320), (311, 306), (127, 107), (95, 89), (63, 56), (39, 37)] &&
    decide (1 ≤ kdSpan kd) && decide (kdSpan kd ≤ 4) && decide (1 ≤ vc) && ((List.range 8).all fun g => decide (kdVmap kd g < vc)) &&
    (sw != 0 || kdSwt kd 0 == 0) && ((decide (2 ≤ vc) && sw != 0) || kdSwt kd 1 == 0) &&
    ((decide (3 ≤ vc) && sw != 0) || kdSwt kd 2 == 0) && kdCode kd % 16 == 0 && kdTrap kd % 16 == 0 &&
    (kdTrapv kd || kdTrap kd == 0) && decide (kdScratch kd ≤ 2 ^ 20) && decide (kdBarriers kd ≤ 256) &&
    decide (kdSlots kd ≤ 32768) && decide (kdFifos kd ≤ 8) && decide (kdTiles kd ≤ 128)

/-- A kernel descriptor passes R82: its fields, a declared role, seats on empty cores, and the store share. -/
def kdOk (kd : BitVec 2048) : Bool :=
  kdFieldsOk kd && ((List.range 4).all (roleOk kd)) && ((List.range 4).any fun k => roleBudget kd k != 0) &&
    ((List.range (kdSpan kd)).all fun p => decide (kdWarpsOn kd p ≤ 256)) &&
    (seatAll (List.replicate (kdSpan kd) CoreUse.empty.parts) (kdSeats kd)).isSome && decide (kdStore kd ≤ 2 ^ 20)

/-- The barrier objects lie within the scratchpad (R194). -/
def kdBarriersOk (kd : BitVec 2048) : Bool := decide (kdBarriers kd * 16 ≤ kdScratch kd)

/-- A job card obeys R80. -/
def cardOk (c : BitVec 2048) : Bool :=
  let f := cardField c
  f 15 0 == 0x434A && f 31 16 == 1 &&
    zeroBits c ([(2047, 1088), (1023, 968), (319, 304), (63, 48), (39, 39)] ++
      (List.range 4).flatMap fun k => [(799 + 32 * k, 785 + 32 * k), (543 + 64 * k, 529 + 64 * k)]) &&
    f 1087 1024 % 16 == 0 && (f 967 960 != 0 || f 959 896 == 0) && f 303 288 != 0 && decide (4 ≤ f 223 192) &&
    decide (f 223 192 ≤ 4096) && f 223 192 % 4 == 0 && f 191 128 % 4 == 0 && f 127 64 % 256 == 0 &&
    decide (1 ≤ f 38 37) && decide (f 38 37 ≤ 2) && decide (1 ≤ f 36 35) && decide (f 36 35 ≤ f 38 37)

/-! ## The Percolator's reads (R399) -/

/-- What a read of the Percolator met: it waits for a repair, or at a memory controller (R364), or it failed. -/
inductive PercRead where
  | ok (b : List Byte)
  | stuck (page reason sector : Nat)
  | waits
  | failed

/-- What a read of the Percolator meets but for the controllers. -/
def State.percPeek (s : State) (g : Agent) (va n : Nat) : State × PercRead :=
  match s.load g va n with
  | (s, .ok b) => (s, .ok b)
  | (s, .park p r c) => if r == 1 && s.refused g (p * 65536) ⟨true, false, false⟩ then (s, .failed) else (s, .stuck p r c)
  | (s, _) => (s, .failed)

/-- A read of the Percolator. It waits while one of its lines does at its controller (R364). -/
def State.percLoad (s : State) (g : Agent) (va n : Nat) : State × PercRead :=
  let q := if n == 0 then (s, false) else s.gateAll g va n false
  if q.2 then (q.1, .waits) else q.1.percPeek g va n

/-- One of the reads that an item of the Percolator needs: those that an earlier attempt has made ask no controller again. -/
def State.percStep (s : State) (g : Agent) (item va n : Nat) : State × PercRead :=
  if (s.die g.die).granted.contains (item, va, n) then (s, (s.percPeek g va n).2)
  else match s.percLoad g va n with
    | (s, .ok b) =>
      let x := s.die g.die
      (s.setDie g.die { x with granted := x.granted ++ [(item, va, n)] }, .ok b)
    | r => r

/-- An item of the Percolator waits no more. -/
def State.ungrant (s : State) (d : DieId) (item : Nat) : State :=
  let x := s.die d
  s.setDie d { x with granted := x.granted.filter fun e => e.1 != item }

/-- Read several granules in order. -/
def State.percSteps (s : State) (g : Agent) (item : Nat) : List Nat → State × PercRead
  | [] => (s, .ok [])
  | va :: vas =>
    match s.percStep g item va 64 with
    | (s, .ok b) =>
      match s.percSteps g item vas with
      | (s, .ok bs) => (s, .ok (b ++ bs))
      | r => r
    | r => r

/-- A ring that cannot be read loses its enable bit, with a kind 11 record of reason 2 (R399, R466). -/
def State.disableRing (s : State) (d : DieId) (node : Bool) (r tenant code va : Nat) : State :=
  let n := if node then 0x382 + 4 * r else 0x202 + 4 * r
  let s := s.setCsr d n (BitVec.ofNat 32 (s.csr d n - if bitAt (s.csr d n) 4 then 16 else 0))
  s.post11 d tenant 0xFFFF 2 code (r + if node then 256 else 0) va

/-- The descriptor bytes as a number. -/
def word2048 (b : List Byte) : BitVec 2048 := BitVec.ofNat 2048 (ofBytes b)

/-! ## Publish windows (R223) -/

/-- Does a window descriptor obey the table of R223? -/
def windowOk (x : Nat) : Bool :=
  let va := bits x 63 0
  bits x 255 236 == 0 && bits x 191 180 == 0 && bits x 135 129 == 0 && va % 65536 == 0 && decide (va < 2 ^ 52) && bits va 51 48 != 15 &&
    bits x 127 64 != 0 && bits x 127 64 % 65536 == 0 && bits x 179 136 % 65536 == 0 && bits x 235 192 % 65536 == 0

def windowAtDesc (desc x : Nat) : Window :=
  ⟨desc, bits x 63 0, bits x 127 64, bits x 179 136, bits x 235 192, bitAt x 128, []⟩

/-- No two windows overlap. -/
def windowsApart : List Window → Bool
  | [] => true
  | w :: ws => ws.all (fun v => decide (v.va + v.size ≤ w.va) || decide (w.va + w.size ≤ v.va)) && windowsApart ws

/-- The windows of a card, from the bytes of its list; `none` where they break R223. -/
def windowsOf (base : Nat) : Nat → List Byte → Option (List Window)
  | 0, _ => some []
  | n + 1, b =>
    let x := ofBytes (b.take 32)
    if windowOk x then (windowsOf (base + 32) n (b.drop 32)).map fun l => windowAtDesc base x :: l else none

/-! ## CARD_ADMISSION (R341) -/

/-- The first state of a job from its card. -/
def newJob (id : Nat) (d : DieId) (no tenant ring : Nat) (card kd : BitVec 2048) (ws : List Window) : Job where
  id := id
  die := d
  no := no
  tenant := tenant
  ring := ring
  card := card
  kdVa := cardField card 127 64
  kd := kd
  open_ := []
  rel := none
  nextInst := 0
  tokens := cardField card 47 40
  windows := ws
  insts := []
  batch := none
  gone := false
  cancelled := false
  firstSince := none
  throttled := 0
  bwAt := none
  bwWin := none

/-- An instance at its release (R343, R344, R346, R421). -/
def newInst (no rel : Nat) (deadline : Option Nat) (remaining estimate : Nat) : Inst where
  no := no
  rel := rel
  deadline := deadline
  first := false
  remaining := remaining
  nextBlock := 0
  budgetUsed := 0
  resSince := none
  estimate := estimate
  stopped := false
  ddlDone := false
  switched := false
  rollbacks := 0
  doneAt := none
  sums := []
  ended := none
  status := none
  kills := 0
  leaving := none

/-- Could a cooperative launch's blocks fit on its maximum number of empty dies (R44, R462)? Both dies count, whether they
serve or not, with their cores in service; one that awaits its spare is in service. -/
def State.coopFits (s : State) (j : Job) : Bool :=
  let ds := [false, true]
  let i := newInst 0 0 none 0 0
  let e : State := { s with
    blocks := [], warps := [], ctxRecs := [], jobs := [{ j with insts := [i] }]
    dieA := { s.dieA with marked := [] }, dieB := { s.dieB with marked := [] } }
  let ns := List.replicate j.blocks Next.fresh
  if j.maxDies == 1 then ds.any fun d => (e.placeAll j.id 0 (some [d]) ns).isSome else (e.placeAll j.id 0 (some ds) ns).isSome

/-- List the valid waits of a job on their events; `none` when an event table is full (R347, R348). -/
def State.listWaits (s : State) (j : Job) : List Nat → Option State
  | [] => some s
  | k :: ks => (s.listWait (BitVec.ofNat 16 (j.wait k).1) (j.id, k, (j.wait k).2.2)).bind fun s => s.listWaits j ks

/-- Admit a job whose card and kernel passed their checks (R343, R44, R347): its waits are listed and tested.
The code of R466 where it is rejected. -/
def State.enterJob (s : State) (j : Job) : Except Nat State :=
  if j.coop && !s.coopFits j then .error 3
  else
    let ks := (List.range 4).filter fun k => (j.wait k).2.1
    let j := { j with open_ := ks, rel := if ks.isEmpty then some (s.now j.die) else none }
    match (({ s with jobs := s.jobs ++ [j] } : State)).listWaits j ks with
    | some s => .ok s
    | none => .error 6

/-- A rejected card: its record, and a completion record with STATUS 3 (R341, R345). -/
def State.reject (s : State) (d : DieId) (t no code va ring done : Nat) : State :=
  let s := s.post11 d t no 4 code va ring
  if done == 0 then s else s.writeDone d ⟨t, BitVec.ofNat 16 no, done, 3, 0⟩

/-- What checking a card found. -/
inductive CardCheck where
  | ok (kd : BitVec 2048) (ws : List Window)
  | reject (code : Nat)
  | stuck (page reason sector : Nat)
  | waits

/-- Check a card, read its kernel descriptor and its windows (R82, R194, R223, R399). -/
def State.checkCard (s : State) (g : Agent) (item : Nat) (card : BitVec 2048) : State × CardCheck :=
  if !cardOk card then (s, .reject 1)
  else
    match s.percStep g item (cardField card 127 64) 256 with
    | (s, .stuck p r c) => (s, .stuck p r c)
    | (s, .waits) => (s, .waits)
    | (s, .failed) => (s, .reject 7)
    | (s, .ok b) =>
      let kd := word2048 b
      if !kdOk kd then (s, .reject 2)
      else if !kdBarriersOk kd then (s, .reject 4)
      else
        let n := cardField card 967 960
        let list := cardField card 959 896
        match s.percStep g item list (32 * n) with
        | (s, .stuck p r c) => (s, .stuck p r c)
        | (s, .waits) => (s, .waits)
        | (s, .failed) => (s, .reject 7)
        | (s, .ok w) => match windowsOf list n w with
          | some ws => if windowsApart ws then (s, .ok kd ws) else (s, .reject 5)
          | none => (s, .reject 5)

/-- A ring's four positions from HEAD are taken: HEAD and RETIRE advance, and the card gets a job number. -/
def State.takeCard (s : State) (d : DieId) (g : Agent) (va : Nat) (r : Ring) : State × Nat :=
  let s := (s.putRing g va { r with head := r.head + 4, retire := r.retire + 4 } r.system).1
  let x := s.die d
  (s.setDie d { x with jobNo := x.jobNo + 1, admitted := true }, x.jobNo.toNat)

/-- Take the next card of a ring and do with it as is said, unless the write of the descriptor waits at its controller. -/
def State.takeThen (s : State) (d : DieId) (g : Agent) (va : Nat) (r : Ring) (k : State → Nat → State) : State × Bool :=
  let gated := s.gate g va true
  if gated.2 then (gated.1, false)
  else
    let q := s.takeCard d g va r
    (k q.1 q.2, true)

/-- Admit the next card of a ring. A ring whose descriptor no longer obeys R81, or cannot be written, loses its enable
bit (entry 84). The flag tells that the admission does not wait at a memory controller (R364). -/
def State.admitFrom (s : State) (d : DieId) (ring : Nat) : State × Bool :=
  let t := s.srctl d ring % 16
  let g := percAgent d t
  let va := s.srd d ring
  let hold := fun (s : State) (p r c : Nat) => (s.park (.percolator ring) g 7 p r c, true)
  match s.percStep g ring va 64 with
  | (s, .stuck p r c) => hold s p r c
  | (s, .waits) => (s, false)
  | (s, .failed) => (s.disableRing d false ring t 3 va, true)
  | (s, .ok b) =>
    let r := Ring.ofBytes b
    if !r.wellShaped then (s.disableRing d false ring t 1 va, true)
    else if s.refused g va ⟨true, true, false⟩ then (s.disableRing d false ring t 3 va, true)
    else if r.commit < r.head + 4 then (s, true)
    else
      let first := r.slot r.head
      match s.percSteps g ring ((List.range 4).map fun k => r.slot (r.head + k)) with
      | (s, .stuck p k c) => hold s p k c
      | (s, .waits) => (s, false)
      | (s, .failed) => s.takeThen d g va r fun s no => s.reject d t no 7 first ring 0
      | (s, .ok b) =>
        let card := word2048 b
        let reject := fun (s : State) (no code : Nat) => s.reject d t no code first ring (cardField card 1087 1024)
        match s.checkCard g ring card with
        | (s, .stuck p k c) => hold s p k c
        | (s, .waits) => (s, false)
        | (s, .reject code) => s.takeThen d g va r fun s no => reject s no code
        | (s, .ok kd ws) => s.takeThen d g va r fun s no =>
          match s.bump.enterJob (newJob s.nextId d no t ring card kd ws) with
          | .ok s => s
          | .error code => reject s no code

/-- May a ring give a card now: enabled, of an enabled tenant, not held by a repair, with four committed
positions or an unreadable descriptor? -/
def State.ringDue (s : State) (d : DieId) (ring : Nat) : Bool :=
  bitAt (s.srctl d ring) 4 && s.enabled d (s.srctl d ring % 16) && !s.percParked d ring &&
    (match (s.percPeek (percAgent d (s.srctl d ring % 16)) (s.srd d ring) 64).2 with
    | .ok b => let r := Ring.ofBytes b
      decide (r.head + 4 ≤ r.commit)
    | _ => true)

/-- CARD_ADMISSION: the Percolator takes one card from the next ring in turn. While one of its reads waits at a memory
controller the ring stays next. -/
def execCardAdmission (die : DieId) (ring : Nat) (s : State) : Host.Outcome State Fault Refusal :=
  let x := s.die die
  let turn := (rangeFrom (x.lastRing + 1) 64).map (· % 64)
  if s.paused die || !x.serving || turn.find? (s.ringDue die) != some ring then .next s
  else
    let r := s.admitFrom die ring
    let done := fun (s : State) => (s.setDie die { s.die die with lastRing := ring }).ungrant die ring
    .next (if r.2 then (done r.1).noteFirst else r.1)

/-! ## Releases (R343, R344, R462) -/

/-- Release instance `no` of a job at a time; a cooperative job that no longer fits leaves as rejected (R462). -/
def State.releaseInst (s : State) (j : Job) (no t : Nat) : State :=
  if j.coop && !s.coopFits j then (s.complete j 3 no).leave j.id
  else
    let i := newInst no t (if j.relDeadline == 0 then none else some (t + j.relDeadline)) j.count (cardField j.card 511 480)
    (s.setJob { j with nextInst := no + 1, insts := j.insts ++ [i] }).noteFirst

/-- JOB_RELEASE: every wait of the job is satisfied; its first instance enters the ready queue. -/
def execJobRelease (job : Nat) (s : State) : Host.Outcome State Fault Refusal :=
  match s.job? job with
  | none => .next s
  | some j =>
    match j.rel with
    | some t => .next (if j.nextInst != 0 || j.gone || j.cancelled || j.batch.isSome then s else s.releaseInst j 0 t)
    | none => .next s

/-- INSTANCE_RELEASE: instance k of a periodic job, at t_rel + k PERIOD. -/
def execInstanceRelease (job : Nat) (s : State) : Host.Outcome State Fault Refusal :=
  match s.job? job with
  | none => .next s
  | some j =>
    match j.rel with
    | some t =>
      let at_ := t + j.nextInst * j.period
      .next (if j.period == 0 || j.nextInst == 0 || j.gone || j.cancelled || s.now j.die < at_ then s
        else s.releaseInst j j.nextInst at_)
    | none => .next s

/-! ## The return of resources (R36, R220, R227, R447) -/

/-- Does anything still work for a block: a warp, an access, a command, a query, a stream operation, a run of
FPUSH? The bytes that a stopped block still holds in FIFOs are discarded. -/
def State.blockBusy (s : State) (b : Block) : Bool :=
  let mine := fun (w : Issuer) => ofBlocks [b.handle] w
  s.warps.any (fun p => mine p.1) || s.accs.any (fun a => mine a.who) || s.copies.any (fun c => c.block == b.handle) ||
    s.travQ.any (fun c => c.block == b.handle) || s.queries.any (fun q => q.block == b.handle) || s.takes.any (fun t => mine t.who) ||
    s.pubs.any (fun p => mine p.who) || b.streams.any (fun p => !p.2.isEmpty) || !b.coming.isEmpty ||
    (!b.halted && b.fifos.any fun f => f.2.runs.any fun r => !r.feed)

/-- Is an instance complete (R40)? -/
def State.isComplete (s : State) (j : Job) (i : Inst) : Bool :=
  i.first && !i.stopped && (s.blocksOf j.id i.no).isEmpty && !s.hasCtx j.id i.no && (j.batch.isSome || i.remaining == 0)

/-- A job that has left is forgotten once none of its blocks is left. One whose tenant was disabled leaves then, unless an
instance of it has only to complete (R344). -/
def State.prune (s : State) (job : Nat) : State :=
  if s.blocks.any (·.job == job) then s
  else match s.job? job with
    | some j => if j.gone || (j.cancelled && j.insts.all fun i => !s.isComplete j i) then s.leave job else s
    | none => s

/-- The resources of a block return: its totals are added to its instance's, its early credits are dropped, and
a stopped run whose last block this is posts its totals. -/
def State.returnBlock (s : State) (b : Block) : State :=
  let s := match s.job? b.job with
    | none => s
    | some j =>
      let s := if b.halted then s.restoreStage j b.inst else s
      match s.job? b.job with
      | none => s
      | some j => match j.inst? b.inst with
        | none => s
        | some _ => s.addSums b.job b.inst [b]
  let s : State := { s.unplace b with early := s.early.filter fun e => e.block != b.handle }
  let s := (rangeFrom (b.cluster * 4 + b.base) (kdSpan b.kd)).foldl (fun s core => s.refillEarly b.die core 16) s
  let s := s.noteGone b.job b.inst
  let s := match (s.job? b.job).bind fun j => j.inst? b.inst with
    | some i => if i.ended.isSome then s.endRun b.job b.inst else s
    | none => s
  let s := match s.job? b.job with
    | none => s
    | some j => match j.inst? b.inst with
      | some i => if s.isComplete j i && i.doneAt.isNone then s.setJob (j.setInst { i with doneAt := some (s.now j.die) }) else s
      | none => s
  ((s.prune b.job).tryCollapse).noteFirst

def execBlockResourcesReturn (block : Nat) (s : State) : Host.Outcome State Fault Refusal :=
  match s.block? block with
  | none => .next s
  | some b => .next (if s.blockBusy b then s else s.returnBlock b)

/-! ## LAUNCH_COMPLETE (R40, R345) -/

/-- Signal the valid events of a card; an increment that finds the event table full is dropped, with records to
tenant 0 and to the job's tenant (R347, R466). -/
def State.signalAll (s : State) (j : Job) : List Nat → State
  | [] => s
  | k :: ks =>
    let e := BitVec.ofNat 16 (j.sig k).1
    let s := if !(j.sig k).2 then s
      else match s.signal e 1 with
        | some t => t
        | none =>
          let s := s.post11 j.die 0 j.no 6 2 e.toNat 0
          if j.tenant == 0 then s else s.post11 j.die j.tenant j.no 6 2 e.toNat 0
    s.signalAll j ks

/-- A kind 3 record (R422). -/
def State.post3 (s : State) (j : Job) (inst code flags limit data : Nat) : State :=
  let node := match j.batch with
    | some b => (32, b.ring + b.pos % 2 ^ 32 * 2 ^ 32)
    | none => (0, 0)
  s.post j.die j.tenant
    [word0 3 j.tenant j.die (if j.batch.isSome then 0xFFFF else j.no) (code + flags + node.1), inst % 2 ^ 32, s.now j.die, limit, data, node.2] 0 0

/-- Has an instance passed its absolute deadline without a record, incomplete at it (R420)? -/
def State.missed (s : State) (j : Job) (i : Inst) : Bool :=
  !i.ddlDone && !i.stopped && (match i.deadline, i.doneAt with
    | some d, some t => decide (d < t)
    | some d, none => decide (d < s.now j.die)
    | none, _ => false)

/-- The DEADLINE exception of an instance (R419, R420, R422). -/
def State.raiseDeadline (s : State) (j : Job) (i : Inst) : State :=
  let data := (s.blocksOf j.id i.no).length + if i.nextBlock == 0 then 0 else 2 ^ 32
  let s := s.post3 j i.no 1 0 (i.deadline.getD 0) data
  match s.job? j.id with
  | some j => s.setJob (j.setInst { i with ddlDone := true })
  | none => s

/-- A completed instance: events, PUB, completion record and vector, totals; then the job leaves unless it is
periodic. A node block has no signals and no record (R359). -/
def State.completeInst (s : State) (j : Job) (i : Inst) : State :=
  let s := if s.missed j i then s.raiseDeadline j i else s
  let s := if j.batch.isSome then s
    else (((s.signalAll j [0, 1, 2, 3]).writePub j).complete j 0 i.no)
  let s := s.postTotals j i (i.doneAt.getD (s.now j.die))
  match s.job? j.id with
  | none => s
  | some j =>
    if j.period == 0 || j.batch.isSome then s.leave j.id
    else (s.setJob { j with
        insts := j.insts.filter fun k => k.no != i.no
        windows := j.windows.map fun (w : Window) => { w with undo := w.undo.filter fun e => e.1 != i.no } }).prune j.id

/-- LAUNCH_COMPLETE: the oldest complete instance of a job completes. -/
def execLaunchComplete (job : Nat) (s : State) : Host.Outcome State Fault Refusal :=
  match s.job? job with
  | none => .next s
  | some j => match j.insts.find? (s.isComplete j) with
    | some i => .next (if j.gone then s else (s.completeInst j i).noteFirst)
    | none => .next s

/-! ## Node batches (R357 to R359) -/

/-- The time at which COMMIT passed a position of a node ring. -/
def Die.stampOf (x : Die) (q pos : Nat) : Nat :=
  match x.stamps.find? fun e => e.1 == q && decide (pos < e.2.1) with
  | some e => e.2.2
  | none => x.dtime

/-- Node blocks of a ring, resident or queued. -/
def State.nodeBlocks (s : State) (d : DieId) (q : Nat) : Nat :=
  (s.jobs.filter fun j => j.batch.any fun b => b.die == d && b.ring == q).length

/-- A served ring with its descriptor: enabled, of an enabled tenant, not held by a repair. -/
def State.nodeRing (s : State) (d : DieId) (q : Nat) : Option Ring :=
  let c := s.qmctl d q
  if !bitAt c 4 || !s.enabled d (c % 16) || s.percParked d (100 + q) then none
  else match (s.percPeek (percAgent d (c % 16)) (s.qmd d q) 64).2 with
    | .ok b => some (Ring.ofBytes b)
    | _ => none

/-- Is a ring eligible (R358)? -/
def State.eligible (s : State) (d : DieId) (q : Nat) (r : Ring) : Bool :=
  decide (s.nodeBlocks d q < bits (s.qmctl d q) 15 8) && decide (r.head < r.commit) &&
    (decide (r.head + 32 ≤ r.commit) || decide ((s.die d).stampOf q r.head + 2000 ≤ s.now d))

/-- The ring that the queue manager picks among the eligible ones (R358). -/
def State.pickRing (s : State) (d : DieId) : Option (Nat × Ring) :=
  let el := (List.range 32).filterMap fun q => (s.nodeRing d q).bind fun r => if s.eligible d q r then some (q, r) else none
  let stamp := fun (x : Nat × Ring) => (s.die d).stampOf x.1 x.2.head
  let best := fun (better : Nat × Ring → Nat × Ring → Bool) => el.foldl (fun (b : Option (Nat × Ring)) x => match b with
    | some y => if better x y then some x else b
    | none => some x) none
  if el.any fun x => decide (stamp x + 50000 ≤ s.now d) then best fun x y => decide (stamp x < stamp y)
  else best fun x y => decide (y.2.commit - y.2.head < x.2.commit - x.2.head)

/-- Form the next batch of a ring: HEAD advances past it, and its node block enters the ready queue. The node kernel's
descriptor is read anew for each batch (entry 50). -/
def State.formBatch (s : State) (d : DieId) (q : Nat) (r : Ring) : State :=
  let t := s.qmctl d q % 16
  let g := percAgent d t
  let va := s.qmd d q
  match s.percLoad g r.nodekd 256 with
  | (s, .stuck p k c) => s.park (.percolator (100 + q)) g 7 p k c
  | (s, .waits) => s
  | (s, .failed) => s.disableRing d true q t 3 va
  | (s, .ok b) =>
    let kd := word2048 b
    if !kdOk kd || !kdBarriersOk kd || !r.wellShaped then s.disableRing d true q t 2 va
    else
      let n := min 32 (min (r.commit - r.head) (r.cap - r.head % r.cap))
      let first := (s.die d).stampOf q r.head
      let dl := s.qmdl d q
      match s.putRing g va { r with head := r.head + n } r.system with
      | (s, .ok ()) =>
        let id := s.nextId
        let x := s.die d
        let s := s.setDie d { x with stamps := x.stamps.filter fun e => e.1 != q || decide (r.head + n < e.2.1) }
        let j : Job := { newJob id d 0xFFFF t 0 0 kd [] with
          kdVa := r.nodekd
          rel := some (s.now d)
          nextInst := 1
          insts := [newInst 0 (s.now d) (if dl == 0 then none else some (first + dl)) 0 0]
          batch := some ⟨d, q, r.head, n, false, d, 0, va, r.slot r.head⟩ }
        ({ s.bump with jobs := s.jobs ++ [j] } : State).noteFirst
      | (s, _) => s

/-- A node ring whose descriptor cannot be read: the access parks, or the ring is disabled (R399). -/
def State.unreadableRing (s : State) (d : DieId) : Option State :=
  (List.range 32).findSome? fun q =>
    let c := s.qmctl d q
    if !bitAt c 4 || !s.enabled d (c % 16) || s.percParked d (100 + q) then none
    else
      let g := percAgent d (c % 16)
      match s.percPeek g (s.qmd d q) 64 with
      | (_, .ok _) => none
      | (_, .waits) => none
      | (s, .stuck p k k2) => some (s.park (.percolator (100 + q)) g 7 p k k2)
      | (s, .failed) => some (s.disableRing d true q (c % 16) 3 (s.qmd d q))

/-- NODE_BATCH: the queue manager of a die forms a node block. -/
def execNodeBatch (die : DieId) (s : State) : Host.Outcome State Fault Refusal :=
  if s.paused die || !s.serves die then .next s
  else match s.unreadableRing die with
    | some t => .next t
    | none => match s.pickRing die with
      | some (q, r) =>
        let gated := s.gate (percAgent die (s.qmctl die q % 16)) (s.qmd die q) true
        .next (if gated.2 then gated.1 else s.formBatch die q r)
      | none => .next s

end Sys2Proof.Machine
end

