-- ==== Sys2Proof/Machine/Copy.lean ====
section
/-! DEFINITION. The copy engine (R210 to R226): the fields and the full check of a command, starting it, moving
its bytes, byte credits, and its completion. -/

namespace Sys2Proof.Machine

/-- The bytes from position i that lie in one row and one aligned 16-byte span of the destination. -/
def CopyCmd.pieceAt (c : CopyCmd) (i : Nat) : Nat :=
  min (c.xlen - i % c.xlen) (16 - c.dstAt i % 16)

/-- The span positions whose scratchpad a command writes through window 0 or that it credits: those of DMASK
for a MULTICAST, the one that DST names for a COPY into the span window, else the engine's own (R219). -/
def CopyCmd.targets (c : CopyCmd) : List Nat :=
  if c.opc == 1 then (List.range 4).filter fun p => bitAt c.dmask p
  else if c.opc == 0 && isLocal c.dst && bits c.dst 47 44 == 1 then [bits c.dst 43 42]
  else [c.spos]

/-- The engine's agent at a span position. -/
def State.copyAgent (s : State) (c : CopyCmd) (spos : Nat) : Agent := s.agentFor c.block (unitCopy c.core) spos

/-! ## The full check (R216) -/

/-- Every byte of a row passes a test. A row is shorter than the gaps between the regions of a local aperture,
so its ends decide. -/
def rowPasses (ok : Nat → Bool) (a n : Nat) : Bool := decide (a + n ≤ 2 ^ 64) && ok a && ok (a + n - 1)

/-- Does a source byte pass: below 2^52, and in a local aperture under the aperture and bounds rules? -/
def State.srcByteOk (s : State) (g : Agent) (a : Nat) : Bool := s.apertureOk g a && s.boundsOk g a

/-- Does a destination byte pass for COPY (window 0, span or vault) or MULTICAST (window 0)? -/
def State.dstByteOk (s : State) (g : Agent) (multicast : Bool) (a : Nat) : Bool :=
  isLocal a && (if multicast then bits a 47 44 == 0 else decide (bits a 47 44 ≤ 2)) && s.apertureOk g a && s.boundsOk g a

/-- The bytes of a STORE lie at paged addresses in one publish window of the job (R213). -/
def inOneWindow (j : Job) (c : CopyCmd) : Bool :=
  j.windows.any fun w => (List.range (c.rows * c.planes)).all fun r =>
    rowPasses (fun a => decide (w.va ≤ a) && decide (a < w.va + w.size) && decide (a < 2 ^ 52) && !isLocal a) (c.dstRow r) c.xlen

/-- The fields of R211 with the low bit of each and whether it fails, in ascending position. An N above 2^32 − 1 counts as
a failure of XLEN (the model's choice, entry 77: R213 and R216 name no field for it). -/
def State.copyFails (s : State) (b : Block) (j : Job) (c : CopyCmd) : List (Nat × Bool) :=
  let pub := c.opc == 4
  let g := s.copyAgent c c.spos
  let bars := kdBarriers b.kd
  let nrows := c.rows * c.planes
  let phase := c.wait == 2 || c.wait == 3
  [(0, if pub then c.xlen != 0 else c.xlen == 0 || decide (2 ^ 32 ≤ c.xlen * c.rows * c.planes)),
   (24, if phase then decide (bars ≤ c.wbar) else c.wbar != 0),
   (32, if c.opc == 2 then decide (kdFifos b.kd ≤ c.fifo) else c.fifo != 0),
   (35, c.field 36 35 != 0),
   (37, c.dim == 3),
   (39, if c.opc == 1 then c.dmask == 0 || decide (2 ^ kdSpan b.kd ≤ c.dmask) else c.dmask != 0),
   (43, pub && c.sigv),
   (44, decide (4 < c.opc)),
   (48, if c.sigv then decide (bars ≤ c.sig) else c.sig != 0),
   (56, decide (3 < c.wait)),
   (64, if pub then decide (j.windows.length ≤ c.src % 256) || bits c.src 10 8 == 0 || decide (5 < bits c.src 10 8) ||
        bits c.src 63 11 != 0
      else !(List.range nrows).all fun r => rowPasses (s.srcByteOk g) (c.srcRow r) c.xlen),
   (128, if pub || c.opc == 2 then c.dst != 0
      else if c.opc == 3 then !inOneWindow j c
      else !(List.range nrows).all fun r => rowPasses (s.dstByteOk g (c.opc == 1)) (c.dstRow r) c.xlen),
   (192, c.field 223 192 != 0),
   (224, decide (c.dim < 2) && c.field 239 224 != 0),
   (240, c.dim == 0 && c.field 255 240 != 0),
   (256, c.dim == 0 && c.field 287 256 != 0),
   (288, decide (c.dim < 2) && c.field 319 288 != 0),
   (320, c.dim == 0 && c.field 351 320 != 0),
   (352, decide (c.dim < 2) && c.field 383 352 != 0),
   (384, c.field 511 384 != 0)]

/-- The lowest bit of the failing field of lowest position. -/
def State.copyError (s : State) (b : Block) (j : Job) (c : CopyCmd) : Option Nat :=
  ((s.copyFails b j c).find? (·.2)).map (·.1)

/-- A command that fails goes; the run of a FEED ends with the bytes that reached the port. -/
def State.dropCopy (s : State) (c : CopyCmd) : State :=
  let s := { s with copies := s.copies.filter fun d => d.id != c.id }
  match s.block? c.block with
  | some b =>
    if c.opc == 2 then
      let k := fifoKey c.spos c.fifo
      let f := b.fifo k
      s.setBlock (b.setFifo k { f with runs := f.runs.map fun (r : FifoRun) =>
        if r.feed && r.id == c.id then { r with closed := true } else r })
    else s
  | none => s

/-- A command error (R216): the command and every later queued one of the block go, and the job faults. -/
def State.commandError (s : State) (b : Block) (c : CopyCmd) (reason bit : Nat) : State :=
  let s := s.dropCopy c
  let s := { s with copies := s.copies.filter fun d => !(d.block == c.block && d.core == c.core && d.die == c.die && !d.started) }
  s.faultEngine b.job reason 2 (c.word.toNat % 2 ^ 64) b.no c.core bit

/-! ## Starting (R212, R215, R225) -/

def State.copyParked (s : State) (id : Nat) : Bool := s.parks.any fun p => p.who == .copy id

/-- A command goes on: its engine has delivered something (R453). -/
def State.setCopy (s : State) (c : CopyCmd) : State :=
  ({ s with copies := s.copies.map fun d => if d.id == c.id then c else d } : State).worked c.die c.core

/-- The commands of a block at an engine, in queue order. -/
def State.copiesOf (s : State) (die : DieId) (core block : Nat) : List CopyCmd :=
  s.copies.filter fun c => c.die == die && c.core == core && c.block == block

/-- Does the WAIT condition of the first unstarted command hold? A reserved value or an index without a
barrier holds nothing back: it is an error of the command. -/
def State.waitHolds (s : State) (b : Block) (c : CopyCmd) (running : List CopyCmd) : Bool :=
  if c.wait == 1 || c.opc == 4 then running.isEmpty
  else if (c.wait == 2 || c.wait == 3) && decide (c.wbar < kdBarriers b.kd) then
    let o := s.barrier b.handle c.spos c.wbar
    o.armed && o.phase != (c.wait == 3)
  else true

/-- Does a FEED wait for room (R222)? Its bytes that have not entered, its next piece among them, must fit into the FIFO
beside what the FIFO holds and the runs ahead of its own (R232). A stopped block's FIFO takes every byte. -/
def State.feedHeld (s : State) (c : CopyCmd) : Bool :=
  c.opc == 2 && decide (c.entered < c.total) && (match s.block? c.block with
    | none => false
    | some b =>
      let f := b.fifo (fifoKey c.spos c.fifo)
      let mine := fun (r : FifoRun) => r.feed && r.id == c.id
      let upto := (f.runs.takeWhile (!mine ·) ++ f.runs.filter mine).map fun r => r.data.length
      let next := if c.moved < c.total then c.pieceAt c.moved else 0
      !b.halted && decide (65536 < f.held + upto.foldl (· + ·) 0 + next))

/-- Is a started command held at a byte: parked, without FIFO room, or for its credits (R215, R220, R222)? -/
def State.copyHeld (s : State) (c : CopyCmd) : Bool := s.copyParked c.id || s.feedHeld c || s.creditHeld c

/-- May the engine start this command of the block now: it has a place among 16, no started command of the
block is held at a byte, the block starts what it issued, and WAIT holds? -/
def State.mayStart (s : State) (b : Block) (c : CopyCmd) : Bool :=
  let running := (s.copiesOf c.die c.core c.block).filter (·.started)
  decide ((s.copies.filter fun d => d.die == c.die && d.core == c.core && d.started).length < 16) &&
    !running.any s.copyHeld && !b.halted && b.cut.isNone && s.waitHolds b c running

/-! ## Overlap (R214) -/

/-- The location of a byte address for an agent; an address that does not translate stands for none. -/
def State.locOf (s : State) (g : Agent) (a : Nat) (p : Perm) : Option Nat :=
  if isLocal a then some (localKey g a)
  else (s.translate g a p).2.map (·.pa)

/-- The destination locations of a position. -/
def State.dstLocs (s : State) (c : CopyCmd) (i : Nat) : List Nat :=
  if c.opc == 2 then []
  else if c.opc == 1 then c.targets.filterMap fun p => s.locOf (s.copyAgent c p) (c.dstAt i) ⟨false, true, false⟩
  else (s.locOf (s.copyAgent c c.spos) (c.dstAt i) ⟨false, true, false⟩).toList

/-- The byte that an affected position delivers: what its source held before, or what the command wrote
there; which is free. `ds` lists the destination locations of each position. -/
def State.overlapByte (s : State) (c : CopyCmd) (ds : List (List Nat)) : Nat → Nat → Byte
  | 0, i => match s.locOf (s.copyAgent c c.spos) (c.srcAt i) ⟨true, false, false⟩ with
    | some l => s.byte l
    | none => 0
  | fuel + 1, i =>
    match s.locOf (s.copyAgent c c.spos) (c.srcAt i) ⟨true, false, false⟩ with
    | none => 0
    | some l =>
      match (ds.zipIdx.filter fun d => d.1.contains l).getLast? with
      | some d => if Config.copyOverlap (s.freeCtr + i) then s.byte l else s.overlapByte c ds fuel d.2
      | none => s.byte l

/-- The bytes of the positions whose source is also a destination of the command. -/
def State.overlap (s : State) (c : CopyCmd) : List (Nat × Byte) :=
  let n := c.total
  let ds := (List.range n).map (s.dstLocs c)
  let all := ds.flatMap id
  (List.range n).filterMap fun i =>
    match s.locOf (s.copyAgent c c.spos) (c.srcAt i) ⟨true, false, false⟩ with
    | some l => if all.contains l then some (i, s.overlapByte c ds n i) else none
    | none => none

/-! ## Moving bytes (R214, R217, R221, R222, R224) -/

/-- Write a piece at every destination. -/
def State.copyPut (s : State) (c : CopyCmd) (d : Nat) (bs : List Byte) : List Nat → State × Got Unit
  | [] => (s, .ok ())
  | p :: ps =>
    match s.save (s.copyAgent c p) d bs with
    | (s, .ok ()) => s.copyPut c d bs ps
    | r => r

/-- Is the next piece of a STORE a remote write: a copy of its destination's page lies on the other die (R433)? Its home,
and whether the page is duplex. -/
def State.copyRemote (s : State) (c : CopyCmd) : Option (DieId × Bool) :=
  if c.opc != 3 then none
  else
    let g := s.copyAgent c c.spos
    match (s.translate g (c.dstAt c.moved) ⟨false, true, false⟩).2 with
    | some x =>
      if (s.homeGone x).isNone && (s.writeCopies x).any (fun pa => homeOf pa == some (!g.die)) then some (!g.die, x.dup) else none
    | none => none

/-- Tag a remote write of the engine (R433); its home keeps the tag when the write has reached it. -/
def State.tagCopy (s : State) (c : CopyCmd) (bs : List Byte) (home : DieId) (dup lost : Bool) : State :=
  let (s, tag) := s.nextTag c.die
  { s with
    remotes := s.remotes ++ [⟨c.die, tag, 0, 0, 0, s.now c.die, home, dup, c.dstAt c.moved, [c.moved], some c.id, bs⟩]
    kept := if lost then s.kept else s.kept ++ [⟨home, c.die, tag, 0, s.now home⟩] }

/-- Append bytes to a FEED's run; its first bytes bring the run to the FIFO's write port, and its last bytes
close it (R232). -/
def Block.feedRun (b : Block) (c : CopyCmd) (bs : List Byte) (last : Bool) : Block :=
  let k := fifoKey c.spos c.fifo
  let f := b.fifo k
  if f.runs.any fun r => r.feed && r.id == c.id then
    b.setFifo k { f with runs := f.runs.map fun (r : FifoRun) =>
      if r.feed && r.id == c.id then { r with data := r.data ++ bs, closed := last } else r }
  else b.queueRun k ⟨true, c.id, c.who, bs, last⟩

/-- Move one piece. `none` when the command is held, has failed, or is gone. A remote write is sent with a tag; a tag in
use, or a home with 65 536 kept results, holds it back (R433, R434). -/
def State.movePiece (s : State) (c : CopyCmd) (lost : Bool) : State × Option CopyCmd :=
  if s.copyHeld c then (s, none) else
  let i := c.moved
  let n := c.pieceAt i
  let g := s.copyAgent c c.spos
  let stop := fun (s : State) (f : Got Unit) => match f with
    | .park p r k => (s.park (.copy c.id) g 2 p r k, none)
    | f => ((s.dropCopy c).accessFault c.block 2 c.core g f, none)
  let r := s.gate g (c.srcAt i) false
  let w := if c.opc == 1 || c.opc == 2 then (r.1, false) else r.1.gate g (c.dstAt i) true
  if r.2 || w.2 then (w.1, none) else
  let s := w.1
  let far := s.copyRemote c
  if far.any fun h => s.tagHeld c.die h.1 then (s, none) else
  match s.load g (c.srcAt i) n with
  | (s, .ok bs) =>
    let bs := bs.zipIdx.map fun p => (alook (i + p.2) c.snap).getD p.1
    let c' : CopyCmd := { c with moved := i + n }
    if c.opc == 2 then
      match s.block? c.block with
      | some b => ((s.setBlock (b.feedRun c bs (c'.moved == c.total))).setCopy c', some c')
      | none => (s, none)
    else
      match far, if lost && far.isSome then (s, .ok ()) else s.copyPut c (c.dstAt i) bs (if c.opc == 1 then c.targets else [c.spos]) with
      | some h, (s, .ok ()) => ((s.tagCopy c bs h.1 h.2 lost).setCopy c', some c')
      | none, (s, .ok ()) => (s.setCopy c', some c')
      | _, (s, f) => stop s f
  | (s, f) => stop s f.cast

/-- Move the rest of a command. -/
def State.moveAll (s : State) (c : CopyCmd) : Nat → State
  | 0 => s
  | fuel + 1 =>
    if c.total ≤ c.moved then s
    else match s.movePiece c false with
      | (s, some c) => s.moveAll c fuel
      | (s, none) => s

/-- Start a command, after checking it in full (R216); it moves nothing yet. A PUBLISH is performed (R225). -/
def State.startCopy (s : State) (b : Block) (j : Job) (c : CopyCmd) : State :=
  match s.copyError b j c with
  | some bit => s.commandError b c 1 bit
  | none =>
    if c.opc == 4 then
      let s := { s with copies := s.copies.filter (·.id != c.id) }
      (s.switchWindow b.job b.inst (c.src % 256)).finishPart c.who c.op 1
    else
      ({ s with freeCtr := s.freeCtr + c.total } : State).setCopy { c with started := true, snap := s.overlap c }

/-- Start the first unstarted command of a block when the engine may. -/
def State.copyStart (s : State) (die : DieId) (core block : Nat) (mine : Nat → Bool) : State :=
  match s.block? block, (s.copiesOf die core block).find? (!·.started) with
  | some b, some c =>
    match s.job? b.job with
    | some j => if !mine c.opc || !s.mayStart b c then s else s.startCopy b j c
    | none => s
  | _, _ => s

/-- A started command of one of the operations moves its bytes as far as nothing holds it. -/
def State.copyMove (s : State) (die : DieId) (core block : Nat) (mine : Nat → Bool) : State :=
  match (s.copiesOf die core block).find? fun c => c.started && mine c.opc && decide (c.moved < c.total) && !s.copyHeld c with
  | some c => s.moveAll c c.total
  | none => s

/-- A started command of the operations goes on; with none, the first unstarted command of the block starts and moves its
bytes. A turn may also start a command, or move one piece, alone (R271). -/
def State.copyEvent (s : State) (die : DieId) (core block : Nat) (mine : Nat → Bool) : State :=
  if (s.copiesOf die core block).any fun c => c.started && mine c.opc && decide (c.moved < c.total) && !s.copyHeld c then
    s.copyMove die core block mine
  else (s.copyStart die core block mine).copyMove die core block mine

/-- One piece of a started command moves (R271). -/
def State.copyPiece (s : State) (cmd : Nat) (lost : Bool) : State :=
  match s.copies.find? (·.id == cmd) with
  | some c => if c.started && decide (c.moved < c.total) then (s.movePiece c lost).1 else s
  | none => s

/-- COPY; a command of a reserved operation is found in error here. -/
def execCopy (die : DieId) (core block : Nat) (s : State) : Host.Outcome State Fault Refusal :=
  .next (s.copyEvent die core block fun o => o == 0 || decide (4 < o))

def execMulticast (die : DieId) (core block : Nat) (s : State) : Host.Outcome State Fault Refusal :=
  .next (s.copyEvent die core block (· == 1))

def execFeed (die : DieId) (core block : Nat) (s : State) : Host.Outcome State Fault Refusal :=
  .next (s.copyEvent die core block (· == 2))

def execStore (die : DieId) (core block : Nat) (s : State) : Host.Outcome State Fault Refusal :=
  .next (s.copyEvent die core block (· == 3))

def execCopyEnginePublish (die : DieId) (core block : Nat) (s : State) : Host.Outcome State Fault Refusal :=
  .next (s.copyEvent die core block (· == 4))

/-! ## Byte credits (R219, R220) -/

/-- The bytes delivered so far: for a FEED, those that have entered the FIFO; a remote write whose response is outstanding
is not delivered yet. -/
def State.delivered (s : State) (c : CopyCmd) : Nat :=
  (if c.opc == 2 then c.entered else c.moved) -
    ((s.remotes.filter (·.cmd == some c.id)).map (·.data.length)).foldl (· + ·) 0

def CopyCmd.creditedAt (c : CopyCmd) (spos : Nat) : Nat := sget 0 c.credited spos

/-- Note a credit as applied or parked. -/
def CopyCmd.paid (c : CopyCmd) (spos n : Nat) : CopyCmd := { c with credited := sset 0 c.credited spos (c.creditedAt spos + n) }

/-- Park a credit of a piece; with the table full the command is held from now on (R220). -/
def State.parkCredit (s : State) (b : Block) (c : CopyCmd) (spos n : Nat) : State :=
  match s.parkEarly b spos c.sig n with
  | .done s => s.setCopy (c.paid spos n)
  | .overflow => s.commandError b c 4 0
  | .full => s.setCopy { c with stuck := some spos }

/-- BYTE_CREDIT: a piece of at most 512 delivered bytes is credited on one receiving core. The credits of a
stopped block count toward nothing (R397). -/
def execByteCredit (cmd spos : Nat) (s : State) : Host.Outcome State Fault Refusal :=
  match s.copies.find? (·.id == cmd) with
  | none => .next s
  | some c =>
    match s.block? c.block with
    | none => .next s
    | some b =>
      let n := min 512 (s.delivered c - c.creditedAt spos)
      if !c.started || !c.sigv || !c.targets.contains spos || n == 0 || (s.creditHeld c && c.stuck != some spos) then .next s
      else if b.halted then .next (s.setCopy (c.paid spos n))
      else
        let l := barrierKey b.handle spos c.sig
        if s.badIn l 16 then .next (s.accessFault b.handle 2 c.core (s.copyAgent c spos) (.bad l))
        else
          let o := s.barrier b.handle spos c.sig
          if !o.armed then .next (s.parkCredit b c spos n)
          else if 2 ^ 32 ≤ o.arrb + n then .next (s.commandError b c 4 0)
          else .next ((s.setBarrier b.handle spos c.sig ({ o with arrb := o.arrb + n } : Barrier).complete).setCopy (c.paid spos n))

/-- COPY_COMMAND_COMPLETE: every byte is written, or has entered the FIFO, and every credit is applied or
parked (R215); the warp's CP counter learns of it. -/
def execCopyCommandComplete (cmd : Nat) (s : State) : Host.Outcome State Fault Refusal :=
  match s.copies.find? (·.id == cmd) with
  | none => .next s
  | some c =>
    if c.started && s.delivered c == c.total && !s.remotes.any (·.cmd == some cmd) && (!c.sigv || c.targets.all fun p => c.creditedAt p == c.total) then
      .next (({ s with copies := s.copies.filter (·.id != cmd) } : State).finishPart c.who c.op 1)
    else .next s

end Sys2Proof.Machine
end

