-- ==== Sys2Proof/Machine/Cuts.lean ====
section
/-! DEFINITION. Consistent cuts and context records (R404 to R413, R426): the end of the drain, the record, the
abandoned drain; the events CUT_DRAIN_END and DRAIN_TIMEOUT. BLOCK_RESUME stands in Place.lean. -/

namespace Sys2Proof.Machine

/-! ## The end of the drain (R406) -/

/-- Are all counters of the drain zero: started commands, started queries, unperformed accesses that are not parked,
operations on their way to a unit, ready stream operations, TAKEs in flight, runs of FPUSH? -/
def State.drained (s : State) (b : Block) : Bool :=
  let mine := fun (w : Issuer) => ofBlocks [b.handle] w
  !s.copies.any (fun c => c.block == b.handle && c.started) && !s.queries.any (fun q => q.block == b.handle) &&
    !s.accs.any (fun a => mine a.who && a.lanes.any fun l => !s.laneParked a.id l.lane) &&
    b.coming.isEmpty && !b.streams.any (fun p => b.headReady p.1) && !s.takes.any (fun t => mine t.who) &&
    !b.fifos.any fun f => !f.2.runs.isEmpty

/-! ## The record (R411 to R413) -/

/-- Pad bytes with zeros to a length. -/
def padTo (n : Nat) (l : List Byte) : List Byte := l ++ List.replicate (n - l.length) 0

/-- A section with its header; its length is a multiple of 16 (R412). -/
def ctxSection (kind spos index : Nat) (content : List Byte) : List Byte :=
  let content := padTo (ceilDiv content.length 16 * 16) content
  toBytes 16 (16 + content.length + kind * 2 ^ 32 + spos * 2 ^ 40 + index * 2 ^ 48) ++ content

/-- A path entry (R147). -/
def PathEntry.bytes (p : PathEntry) : List Byte := toBytes 16 p.code.toNat

/-- A live join record: TARGET as an address, GROUP, ARRIVED, PARENT, registration rank, live (R413). -/
def joinBytes (rank : Nat) (j : JoinRec) : List Byte :=
  toBytes 32 (j.target.toNat * 16 + j.group.toNat * 2 ^ 64 + j.arrived.toNat * 2 ^ 96 + j.parent.toNat * 2 ^ 128 + rank * 2 ^ 136 + 2 ^ 140)

/-- The 15 join records, record j in place j − 1. -/
def joinTable (js : List JoinRec) : List Byte :=
  (rangeFrom 1 15).flatMap fun k => match js.zipIdx.find? fun p => p.1.idx.toNat == k with
    | some p => joinBytes (p.2 + 1) p.1
    | none => List.replicate 32 0

/-- Predicates and condition codes, two bytes a lane. -/
def Warp.pcc (w : Warp) : List Byte :=
  laneList.flatMap fun L =>
    let bit := fun (m : Mask) (k : Nat) => if m.getLsbD L then 2 ^ k else 0
    toBytes 2 (((List.range 7).map fun k => bit (sget 0 w.preds k) k).foldl (· + ·) 0 +
      bit w.ccC 8 + bit w.ccZ 9 + bit w.ccN 10 + bit w.ccV 11)

/-- Bytes 16 to 895 of a warp section: WSW, CNT, FLAGS, PWORD, PMASK, PCC, PATH, JOIN, with the given tables. -/
def Warp.frame (w : Warp) (wsw : Word) (pend : Option Acc) (inh : Bool) (paths : List PathEntry) (joins : List JoinRec) : List Byte :=
  toBytes 8 wsw.toNat ++
    toBytes 4 (w.counter .ld + w.counter .st * 2 ^ 8 + w.counter .cp * 2 ^ 16 + w.counter .tl * 2 ^ 24) ++
    toBytes 4 ((if pend.isSome then 1 else 0) + (if inh then 2 else 0) + w.part / 4 * 4) ++
    toBytes 16 ((pend.map fun a => a.word.toNat).getD 0) ++
    toBytes 16 ((pend.map fun a => (a.all &&& ~~~(maskOf fun L => a.lanes.any fun l => l.lane == L)).toNat).getD 0) ++
    w.pcc ++ padTo 256 ((paths.filter fun p => !p.spilled).flatMap PathEntry.bytes) ++ joinTable joins ++ List.replicate 32 0

/-- The content of a warp section (R413). The frozen state of a warp in its handler is what trap entry saved: no
instruction was parked then, for a parked warp issues nothing. -/
def Warp.section (w : Warp) (parked : Bool) (pend : Option Acc) : List Byte :=
  w.frame (w.wsw parked) pend w.frozen.isSome w.paths w.joins ++ List.replicate 128 0 ++
    ((List.range 128).flatMap fun k => toBytes 4 (sget 0 w.gregs k).toNat) ++
    ((List.range w.budget).flatMap fun r => laneList.flatMap fun L => toBytes 4 (sget 0 w.vregs (32 * r + L)).toNat) ++
    (match w.frozen with
    | none => []
    | some f =>
      let g : Warp := { w with paths := f.paths, joins := f.joins, step := f.step, frozen := none }
      padTo 1024 (List.replicate 16 0 ++ g.frame (g.wsw false) none false f.paths f.joins ++ f.g.flatMap fun x => toBytes 4 x.toNat))

/-- The spill area of a warp: 32 places of 16 bytes (R35, R149). -/
def Warp.spillArea (w : Warp) : List Byte := (List.range 32).flatMap fun k => toBytes 16 (sget 0 w.spill k : BitVec 128).toNat

/-- The offset of a reserved stream position within the FIFO section (R412). -/
def Fifo.offsetOf (f : Fifo) (pos : Nat) : Nat :=
  ((f.bytes.take (pos - f.base)).filter (·.isSome)).length + (pos - (f.base + f.bytes.length))

/-- The register sources that an operation read at issue for a lane, in operand order (R412): those of CREPLAY are A, B,
C and E, and a CINIT with CFG = 1 reads B where it is a register, C and E besides A; a MEPI without clamp reads none. -/
def StreamOp.sources (o : StreamOp) (L : Nat) : List Word :=
  let src := o.srcOf L
  match o.instr with
  | .creplay _ => src.take 1 ++ src.drop 2 ++ (src.drop 1).take 1
  | .cinit x => src ++ (match x.cfg, o.cfg with
    | some y, some c => (match y.b with
      | .reg _ => c
      | .imm _ => c.drop 1)
    | _, _ => [])
  | .mepi x => if x.ce then src else []
  | _ => src

/-- One pending stream operation (R412): its head and the register sources read at issue. -/
def StreamOp.bytes (o : StreamOp) (b : Block) (spos : Nat) : List Byte :=
  let off := fun (k : Nat) (r : Option Nat) => match r, (fifoNeeds o.instr)[k]? with
    | some p, some n => (b.fifo (fifoKey spos n.1)).offsetOf p
    | _, _ => 0xFFFFFFFF
  bytesOfWord o.instr.word ++ toBytes 4 o.lanes.toNat ++ toBytes 4 (off 0 o.resA) ++ toBytes 4 (off 1 o.resB) ++ toBytes 4 0 ++
    (lanesOf o.lanes).flatMap fun L => (o.sources L).flatMap fun x => toBytes 4 x.toNat

/-- The sections of a block, in ascending kind, span position and index (R412). -/
def ctxSections (s : State) (b : Block) (c : CtxRec) : List (List Byte) :=
  let span := List.range (kdSpan b.kd)
  let units := span.flatMap fun p => (List.range 4).map fun m => (p, m)
  let wid := fun (w : Issuer) => match w with
    | .warp _ k => k
    | .seq _ => 0
  let warps := span.flatMap fun p => c.warps.filter fun x => x.2.spos == p && x.2.live != 0
  let tilesOf := (List.range (kdTiles b.kd)).filter fun t => bitAt b.lmask.toNat (t / 4)
  let some_ := fun (k p i : Nat) (l : List Byte) => if l.isEmpty then [] else [ctxSection k p i l]
  (warps.map fun x => ctxSection 1 x.2.spos (wid x.1)
      (x.2.section (s.parkedWarp x.1 x.2) (s.accs.find? fun a => a.who == x.1 && a.parked))) ++
    (span.map fun p => ctxSection 2 p 0 (s.bytes (scratchKey b.handle p 0) (kdScratch b.kd) ++
      if kdDeep b.kd then ((kdSeats b.kd).filter fun q => q.spos == p).flatMap fun q =>
        match c.warps.find? fun x => wid x.1 == q.wid with
        | some x => x.2.spillArea
        | none => List.replicate 512 0
      else [])) ++
    (units.flatMap fun u => some_ 3 u.1 u.2 (tilesOf.flatMap fun t => (List.range 32).flatMap fun r =>
      (b.row (unitKey u.1 u.2) t r 0 64).flatMap fun x => toBytes 4 x.toNat)) ++
    (units.map fun u =>
      let st := b.unit (unitKey u.1 u.2)
      ctxSection 4 u.1 u.2 (toBytes 16 (st.mode.code.toNat + st.thr.toNat * 2 ^ 32 + st.logbase.toNat * 2 ^ 64) ++ toBytes 16 st.lcap.toNat ++
        ((List.range (kdSlots b.kd)).filter fun k => k % 4 == u.2).flatMap fun k => toBytes 128 (b.slot (slotKey u.1 k)).toNat)) ++
    (span.flatMap fun p => (List.range (kdFifos b.kd)).flatMap fun f =>
      some_ 5 p f ((b.fifo (fifoKey p f)).bytes.filterMap id)) ++
    (units.flatMap fun u => some_ 6 u.1 u.2 ((b.stream (unitKey u.1 u.2)).flatMap fun o => o.bytes b u.1)) ++
    (span.flatMap fun p =>
      let cmds := c.copies.filter fun x => x.spos == p
      let creds := c.credits.filter fun x => x.1 == p
      if cmds.isEmpty && creds.isEmpty then []
      else [ctxSection 7 p 0 (toBytes 16 (cmds.length + creds.length * 2 ^ 32) ++ (cmds.flatMap fun x => toBytes 64 x.word.toNat) ++
        creds.flatMap fun x => toBytes 16 (x.2.1 + x.2.2 * 2 ^ 32))]) ++
    [ctxSection 8 0 0 (((List.range 8).flatMap fun k => toBytes 64 ((sget 0 b.ctxs k).toNat / 2 ^ 128 * 2 ^ 128)) ++
      (span.flatMap fun p =>
        let bits := ((List.range (kdSlots b.kd)).filter fun k => sget false b.cull (slotKey p k)).map fun k => 2 ^ k
        toBytes (ceilDiv (kdSlots b.kd) 128 * 16) (bits.foldl (· + ·) 0)) ++
      c.travs.flatMap fun x => toBytes 64 x.word.toNat)]

/-- The bytes of a context record: header and sections (R411). -/
def ctxBytes (s : State) (b : Block) (k : Cut) (j : Job) (c : CtxRec) : List Byte :=
  let secs := ctxSections s b c
  let n := 64 + (secs.map (·.length)).foldl (· + ·) 0
  toBytes 64 (0x4358 + 1 * 2 ^ 16 + (if b.die then 2 ^ 146 else 0) + kdSpan b.kd * 2 ^ 147 + k.reason.toNat * 2 ^ 150 + k.ckno.toNat * 2 ^ 152 +
      secs.length * 2 ^ 160 + j.no % 65536 * 2 ^ 176 + b.no % 2 ^ 32 * 2 ^ 192 + b.inst % 2 ^ 32 * 2 ^ 224 + b.lmask.toNat * 2 ^ 256 +
      n % 2 ^ 32 * 2 ^ 288 + b.kdVa % 2 ^ 64 * 2 ^ 320 + s.now b.die % 2 ^ 64 * 2 ^ 384) ++ secs.flatMap id

/-- A warp as its record holds it: a wait issues again on resume, and a WAITT keeps its t (R405). -/
def Warp.saved (w : Warp) : Warp :=
  { w with hold := match w.hold with
      | .waitt t h => .waitt t h
      | _ => .none }

/-- The lowest place in a die's context arena where `n` bytes fit beside the records that stand there (which place the
firmware takes is the model's choice, entry 82). -/
def State.arenaPlace (s : State) (d : DieId) (n : Nat) : Nat :=
  let base := (s.die d).arena
  let used := (s.ctxRecs.filter fun c => c.owner == d).foldl (fun l c => insertPiece (c.place - base, c.bytes.length) l) []
  let gaps := gapsOf (2 ^ 40) 0 used
  base + ((gaps.find? fun g => decide (n ≤ g.2)).map (·.1)).getD 0

/-- The context record of a drained block, in the arena of its die (R406, R409). -/
def State.recordOf (s : State) (b : Block) (k : Cut) (j : Job) : CtxRec :=
  let mine := fun (w : Issuer) => ofBlocks [b.handle] w
  let core := b.cluster * 4 + b.base
  let c : CtxRec :=
    { job := b.job, inst := b.inst, block := b
      warps := (s.warps.filter fun p => mine p.1).map fun p => (p.1, p.2.saved)
      copies := s.copies.filter fun x => x.block == b.handle
      credits := ((s.early.filter fun e => e.block == b.handle).map fun e => (e.core - core, e.bar, e.bytes)) ++ b.overflow
      travs := s.travQ.filter fun x => x.block == b.handle
      accs := s.accs.filter fun a => mine a.who
      pubs := s.pubs.filter fun p => mine p.who
      bytes := []
      owner := b.die
      place := 0 }
  let bytes := ctxBytes s b k j c
  { c with bytes := bytes, place := s.arenaPlace b.die bytes.length }

/-- The record of a block is written: its resources are released (R408). -/
def State.releaseBlock (s : State) (b : Block) (c : CtxRec) : State :=
  let mine := fun (w : Issuer) => ofBlocks [b.handle] w
  let core := b.cluster * 4 + b.base
  let cores := (s.warps.filter fun p => mine p.1).filterMap s.placeOf
  let s : State := { (s.unpark fun p => match p.who with
      | .lane a _ => !c.accs.any (·.id == a)
      | .fetch w => !mine w
      | _ => true) with
    warps := s.warps.filter fun p => !mine p.1
    cur := if (s.cur.map mine) == some true then none else s.cur
    accs := s.accs.filter fun a => !mine a.who
    copies := s.copies.filter fun x => x.block != b.handle
    travQ := s.travQ.filter fun x => x.block != b.handle
    early := s.early.filter fun e => e.block != b.handle
    pubs := s.pubs.filter fun p => !mine p.who
    rings := s.rings.map fun (r : RingMarks) => { r with waiters := r.waiters.filter fun w => !mine w }
    ctxRecs := s.ctxRecs ++ [c] }
  let s := s.unplace b
  let s := s.holdCores cores
  let s := (rangeFrom core (kdSpan b.kd)).foldl (fun s n => s.refillEarly b.die n 16) s
  (((s.noteGone b.job b.inst).prune b.job).tryCollapse).noteFirst

/-- The Percolator of a die writes the context record of a drained block through tenant 0's tables, and the block's
resources are released (R406, R408, R409). A write that meets a page to be repaired parks, and one whose tag is in use waits:
the block then stays as it is until the record is written (R399). A record that cannot be written for another reason is kept
all the same (entry 82). -/
def State.saveBlock (s : State) (b : Block) (k : Cut) (j : Job) : State :=
  let g := percAgent b.die 0
  let c := s.recordOf b k j
  let wait := fun (s : State) => s.setBlock { b with cut := some { k with writing := true } }
  let gated := s.gateAll g c.place c.bytes.length true
  if s.parks.any fun p => p.who == .record b.handle then s
  else if gated.2 then wait gated.1
  else match s.save g c.place c.bytes with
    | (s, .park p r q) =>
      if r == 1 && s.refused g (p * 65536) ⟨false, true, false⟩ then s.releaseBlock b c
      else (wait s).parkFor j.no (.record b.handle) g 7 p r q
    | (s, _) => s.releaseBlock b c

/-- The drain of a block has not ended in 2 µs: the cut is abandoned. The job is killed and re-queued, or it faults with a
kind 6 record of reason 3 (R407, R443). -/
def State.abandonCut (s : State) (b : Block) (j : Job) : State :=
  if j.mayKill then s.killInst b.job b.inst else s.faultEngine b.job 3 7 0 b.no (b.coreAt 0) 0

/-- The operations on their way to the units of a block arrive. -/
def State.arriveAll (s : State) (b : Block) : Block := (List.range (kdSpan b.kd)).foldl s.arrived b

/-- Has the budget count of a block's instance reached its budget? The watchdog acts then: the cut is abandoned, and no
context record is written (R427). -/
def State.outOfBudget (s : State) (b : Block) (j : Job) : Bool := (j.inst? b.inst).any (s.budgetOut j)

/-- CUT_DRAIN_END: every counter of the drain reads zero, within 2 µs of the cut (R406, R407). -/
def execCutDrainEnd (block : Nat) (s : State) : Host.Outcome State Fault Refusal :=
  match s.block? block with
  | none => .next s
  | some b =>
    match b.cut, s.job? b.job with
    | some k, some j =>
      let b := s.arriveAll b
      let s := s.setBlock b
      .next (if !s.drained b || s.outOfBudget b j then s else if !k.writing && k.since + 2000 < s.now b.die then s.abandonCut b j else s.saveBlock b k j)
    | _, _ => .next s

/-- DRAIN_TIMEOUT: 2 µs after the cut began the drain has not ended (R407). One that has ended, with its record still to be
written, is not abandoned. -/
def execDrainTimeout (block : Nat) (s : State) : Host.Outcome State Fault Refusal :=
  match s.block? block with
  | none => .next s
  | some b =>
    match b.cut, s.job? b.job with
    | some k, some j =>
      .next (if s.outOfBudget b j || k.writing || s.now b.die < k.since + 2000 || (s.now b.die == k.since + 2000 && s.drained b) then s else s.abandonCut b j)
    | _, _ => .next s

end Sys2Proof.Machine
end

