-- ==== Sys2Proof/Machine/Cvt.lean ====
section
/-! DEFINITION. Group 0x5_: CVT (R138 to R140, R100 to R103). A form with a floating source or
destination is checked (R115). -/

namespace Sys2Proof.Machine

/-- The checked format of a destination lane type. -/
def LTy.dest (ty : LTy) : Dest := if ty.isFp then .flt ty.ffmt else .int ty.isSigned ty.width

/-- The checked format of a destination format code. -/
def Fmt.dest (f : Fmt) : Dest :=
  match f.ffmt with
  | some g => .flt g
  | none => .int (f != .uint8) f.width

/-- No condition codes. -/
def noCC (_ : Nat) : CC := ⟨false, false, false, false⟩

/-- A conversion, checked where floating values are concerned. -/
def cvtForm (s : State) (legal : Bool) (h : Hdr) (rd : List Nat) (n : Nat) (d : Reg) (checked : Bool) (c : Checked)
    (f : Warp → Nat → Nat) : Host.Outcome State Fault Refusal :=
  if checked then checkedForm s legal h rd n d false c f noCC else valueForm s legal h rd n d f

/-- The conversions between lane types (R139). Between equal types the value is copied, so that saturation changes
nothing. -/
def cvtLane (s : State) (legal : Bool) (x : CvtOp) :=
  cvtForm s legal x.h (span x.lt.regs x.a) x.ty.regs x.d (x.ty.isFp || x.lt.isFp) ⟨LTy.dest x.ty, 1, 0, x.ty.extend⟩ fun w L =>
    x.ty.encode x.rm (x.sat && x.lt != x.ty) x.lt.intSource (x.lt.decode (w.src x.lt x.a L))

def execCvtI2i (x : CvtOp) (s : State) := cvtLane s (Instr.cvtI2i x).legal x
def execCvtI2f (x : CvtOp) (s : State) := cvtLane s (Instr.cvtI2f x).legal x
def execCvtF2i (x : CvtOp) (s : State) := cvtLane s (Instr.cvtF2i x).legal x
def execCvtF2f (x : CvtOp) (s : State) := cvtLane s (Instr.cvtF2f x).legal x

/-- The packed elements of registers A upward, converted one by one (R140). -/
def packOf (x : PackOp) (w : Warp) (L : Nat) : Nat → Nat
  | 0 => 0
  | k + 1 => packOf x w L k +
      x.fmt.encode x.rm x.sat x.lt.intSource (x.lt.decode (w.word (x.a.toNat + k) L).toNat) % 2 ^ x.fmt.width * 2 ^ (x.fmt.width * k)

def execCvtPack (x : PackOp) (s : State) :=
  cvtForm s (Instr.cvtPack x).legal x.h (span x.fmt.count x.a) 1 x.d (x.lt.isFp || x.fmt.ffmt.isSome) ⟨Fmt.dest x.fmt, x.fmt.count, x.fmt.width, id⟩
    fun w L => packOf x w L x.fmt.count

/-- Element k of a packed register, converted, in register D + k (R140). -/
def unpackOf (x : PackOp) (v : Nat) : Nat → Nat
  | 0 => 0
  | k + 1 => unpackOf x v k +
      x.lt.encode x.rm x.sat false (x.fmt.decode (elemOf x.fmt.width v k)) % 2 ^ 32 * 2 ^ (32 * k)

/-- Each register of UNPACK holds one element. -/
def execCvtUnpack (x : PackOp) (s : State) :=
  cvtForm s (Instr.cvtUnpack x).legal x.h (span 1 x.a) x.fmt.count x.d (x.lt.isFp || x.fmt.ffmt.isSome)
    ⟨LTy.dest x.lt, x.fmt.count, 32, id⟩ fun w L => unpackOf x (w.word x.a.toNat L).toNat x.fmt.count

end Sys2Proof.Machine
end

