-- ==== Sys2Proof/Machine/Exchange.lean ====
section
/-! DEFINITION. Group 0x6_: VPERM, REDUCE, SCAN, VOTE, UMOV (R141 to R146). -/

namespace Sys2Proof.Machine

/-! VPERM (R141, R142) -/

/-- The segment width w (R141). -/
def segWidth (seg : BitVec 3) : Nat := 32 / 2 ^ seg.toNat

/-- The source lane of a VPERM and whether it is valid: w, L, b. -/
abbrev PermFn := Nat → Nat → Nat → Nat × Bool

/-- VPERM: the named lane's A where it is valid and lives, else C; the fill predicate (R142). -/
def vperm (s : State) (legal : Bool) (x : VpermOp) (f : PermFn) : Host.Outcome State Fault Refusal :=
  laneForm s (lane legal x.h (span x.ty.regs x.a ++ spanB 1 x.b ++ span x.ty.regs x.c) (span x.ty.regs x.d)) fun w act =>
    let r := fun L => f (segWidth x.seg) L (w.srcB32 x.b L)
    let hit := fun L => (r L).2 && w.live.getLsbD (r L).1
    let v := w.putD x.ty.regs x.d act fun L => if hit L then w.src x.ty x.a (r L).1 else w.src x.ty x.c L
    if x.pw then v.putPred x.pd.toNat act (maskOf fun L => !hit L) else v

def execVpermIdx (x : VpermOp) (s : State) := vperm s (Instr.vpermIdx x).legal x fun n L b =>
  (L - L % n + b, decide (b < n))

def execVpermUp (x : VpermOp) (s : State) := vperm s (Instr.vpermUp x).legal x fun n L b =>
  (L - b, decide (b ≤ L % n))

def execVpermDown (x : VpermOp) (s : State) := vperm s (Instr.vpermDown x).legal x fun n L b =>
  (L + b, decide (L + b < L - L % n + n))

def execVpermXor (x : VpermOp) (s : State) := vperm s (Instr.vpermXor x).legal x fun n L b =>
  (L ^^^ b, decide (b < n))

/-! REDUCE and SCAN (R143, R144) -/

/-- The six reductions. -/
inductive RedFn where
  | add | min | max | and | or | xor
  deriving DecidableEq, Repr

/-- The exact f32 sum of a list of words, rounded once; an exact zero takes its sign as R143 says. -/
def sumF32 (rm : Rm) (l : List Nat) : Nat :=
  let vs := l.map fun x => f32v (BitVec.ofNat 32 x)
  match groupSum vs with
  | .fin _ 0 _ =>
    let neg := vs.all fun v => v.isZero && v.isNeg
    let pos := vs.all fun v => v.isZero && !v.isNeg
    FFmt.f32.encode rm false (.fin (if neg then true else if pos then false else rm == .downward) 0 0)
  | v => FFmt.f32.encode rm false v

/-- A reduction of a nonempty list of values of the type (R143). -/
def reduceList (f : RedFn) (ty : LTy) (rm : Rm) (nanp : Bool) (l : List Nat) : Nat :=
  let fold := fun (g : Nat → Nat → Nat) => (l.drop 1).foldl g (l.headD 0)
  let pick := fun (a b : Nat) (lt : Bool) => if lt then a else b
  match f with
  | .add => if ty == .f32 then sumF32 rm l else l.foldl (fun a b => (a + b) % 2 ^ 32) 0
  | .min =>
    if ty == .f32 then
      fold fun a b => FFmt.f32.encode .nearestEven false ((FFmt.f32.decode a).min nanp (FFmt.f32.decode b))
    else fold fun a b => pick a b (decide (LTy.int ty a ≤ LTy.int ty b))
  | .max =>
    if ty == .f32 then
      fold fun a b => FFmt.f32.encode .nearestEven false ((FFmt.f32.decode a).max nanp (FFmt.f32.decode b))
    else fold fun a b => pick a b (decide (LTy.int ty b ≤ LTy.int ty a))
  | .and => fold fun a b => a &&& b
  | .or => fold fun a b => a ||| b
  | .xor => fold fun a b => a ^^^ b

/-- A one-value MIN or MAX still gives the canonical NaN. -/
def canonF32 (ty : LTy) (x : Nat) : Nat :=
  if ty == .f32 then FFmt.f32.encode .nearestEven false (FFmt.f32.decode x) else x

/-- REDUCE: one value for the warp (R143). -/
def reduce (s : State) (legal : Bool) (h : Hdr) (ty : LTy) (rm : Rm) (nanp : Bool) (d a : Reg) (f : RedFn) :
    Host.Outcome State Fault Refusal :=
  laneForm s (lane legal h (span 1 a) (span 1 d)) fun w act =>
    w.putD 1 d act fun _ =>
      canonF32 ty (reduceList f ty rm nanp ((lanesOf act).map fun L => (w.word a.toNat L).toNat))

def execReduceAdd (x : ReduceOp) (s : State) := reduce s (Instr.reduceAdd x).legal x.h x.ty x.rm x.nanp x.d x.a .add
def execReduceMin (x : ReduceOp) (s : State) := reduce s (Instr.reduceMin x).legal x.h x.ty x.rm x.nanp x.d x.a .min
def execReduceMax (x : ReduceOp) (s : State) := reduce s (Instr.reduceMax x).legal x.h x.ty x.rm x.nanp x.d x.a .max
def execReduceAnd (x : Typed1) (s : State) := reduce s (Instr.reduceAnd x).legal x.h x.ty .nearestEven false x.d x.a .and
def execReduceOr (x : Typed1) (s : State) := reduce s (Instr.reduceOr x).legal x.h x.ty .nearestEven false x.d x.a .or
def execReduceXor (x : Typed1) (s : State) := reduce s (Instr.reduceXor x).legal x.h x.ty .nearestEven false x.d x.a .xor

/-- The operation of SCAN (R144). -/
def scanFn (op : BitVec 3) : RedFn :=
  match op.toNat with
  | 0 => .add
  | 1 => .min
  | 2 => .max
  | 3 => .and
  | 4 => .or
  | _ => .xor

/-- The value of an EXCL lane that no lane precedes (R144). -/
def scanIdentity (f : RedFn) (ty : LTy) : Nat :=
  match f with
  | .min => if ty == .f32 then 0x7F800000 else wrapInt 32 (LTy.hi ty)
  | .max => if ty == .f32 then 0xFF800000 else wrapInt 32 (LTy.lo ty)
  | .and => 0xFFFFFFFF
  | _ => 0

/-- SCAN over the lanes of `active` up to L, or below L (R144). -/
def scan (s : State) (legal : Bool) (x : ScanOp) (incl : Bool) : Host.Outcome State Fault Refusal :=
  valueFormAct s legal x.h (span 1 x.a) 1 x.d fun w act L =>
    let ms := (lanesOf act).filter fun m => if incl then decide (m ≤ L) else decide (m < L)
    if ms.isEmpty then scanIdentity (scanFn x.op) x.ty
    else canonF32 x.ty (reduceList (scanFn x.op) x.ty x.rm x.nanp (ms.map fun m => (w.word x.a.toNat m).toNat))
where
  valueFormAct (s : State) (legal : Bool) (h : Hdr) (rd : List Nat) (n : Nat) (d : Reg) (f : Warp → Mask → Nat → Nat) :=
    laneForm s (lane legal h rd (span n d)) fun w act => w.putD n d act (f w act)

def execScanIncl (x : ScanOp) (s : State) := scan s (Instr.scanIncl x).legal x true
def execScanExcl (x : ScanOp) (s : State) := scan s (Instr.scanExcl x).legal x false

/-! VOTE (R145) -/

/-- The lanes of `active` in which p[PS] xor PSN holds. -/
def Warp.holds (w : Warp) (ps : BitVec 3) (psn : Bool) (act : Mask) : Mask :=
  act &&& (if psn then ~~~(w.pred ps.toNat) else w.pred ps.toNat)

def execVoteBallot (x : BallotOp) (s : State) :=
  laneForm s (lane (Instr.voteBallot x).legal x.h [] (span 1 x.d)) fun w act =>
    w.putD 1 x.d act fun _ => (w.holds x.ps x.psn act).toNat

def execVoteAny (x : VoteOp) (s : State) :=
  laneForm s (lane (Instr.voteAny x).legal x.h [] []) fun w act =>
    w.putPred x.pd.toNat act (if w.holds x.ps x.psn act ≠ 0 then BitVec.allOnes 32 else 0)

def execVoteAll (x : VoteOp) (s : State) :=
  laneForm s (lane (Instr.voteAll x).legal x.h [] []) fun w act =>
    w.putPred x.pd.toNat act (if w.holds x.ps x.psn act = act then BitVec.allOnes 32 else 0)

def execVoteMatch (x : Typed1) (s : State) :=
  laneForm s (lane (Instr.voteMatch x).legal x.h (span x.ty.regs x.a) (span 1 x.d)) fun w act =>
    w.putD 1 x.d act fun L => (maskOf fun m => act.getLsbD m && w.src x.ty x.a m == w.src x.ty x.a L).toNat

/-! UMOV (R146) -/

def execUmovFirst (x : Typed1) (s : State) :=
  laneForm s (lane (Instr.umovFirst x).legal x.h (span x.ty.regs x.a) (span x.ty.regs x.d)) fun w act =>
    w.putD x.ty.regs x.d act fun _ => w.src x.ty x.a ((lowLane act).getD 0)

def execUmovLane (x : UmovLane) (s : State) :=
  laneForm s (lane (Instr.umovLane x).legal x.h (span x.ty.regs x.a ++ spanB x.ty.regs x.b ++ span x.ty.regs x.c)
      (span x.ty.regs x.d)) fun w act =>
    w.putD x.ty.regs x.d act fun L =>
      let b := w.srcB x.ty x.b L
      if decide (b < 32) && w.live.getLsbD b then w.src x.ty x.a b else w.src x.ty x.c L

end Sys2Proof.Machine
end

