-- ==== Sys2Proof/Machine/Supervise.lean ====
section
/-! DEFINITION. Sequencers and their supervision (R165, R166, R456 to R459, R463): starting a sequencer,
heartbeats, hangs, the live update of firmware; the events DTIMELO, IRQACK, HBEAT, INTERRUPT_LINE, FWCMD_STAGE,
FWCMD_COMMIT, FIRMWARE_FIRST_HEARTBEAT, FIRMWARE_ROLLBACK, SEQUENCER_HANG, POWER_SEQUENCER_HANG and
LOCKSTEP_MISMATCH. -/

namespace Sys2Proof.Machine

/-! ## Registers that every sequencer holds (R165) -/

/-- IRQACK: each 1 bit clears that IRQPEND bit. -/
def State.irqAck (s : State) (q : SeqId) (v : Word) : State :=
  let x := s.seq q
  s.setSeq q { x with irqPend := x.irqPend &&& ~~~v }

/-- IRQACK; the write of a sequencer that is hung, or has halted, is discarded (R456, R396). -/
def execIrqack (seq : SeqId) (v : Word) (s : State) : Host.Outcome State Fault Refusal :=
  .next (if (s.seq seq).halted || s.cutOff (.seq seq) then s else s.irqAck seq v)

/-- A read of DTIMELO latches bits [63:32] for DTIMEHI. -/
def State.latchTime (s : State) (q : SeqId) : State :=
  let x := s.seq q
  s.setSeq q { x with dtimeHi := BitVec.ofNat 32 (s.now q.die / 2 ^ 32) }

def execDtimelo (seq : SeqId) (s : State) : Host.Outcome State Fault Refusal := .next (s.latchTime seq)

/-- INTERRUPT_LINE: a line becomes pending (R166). -/
def execInterruptLine (seq : SeqId) (line : BitVec 5) (s : State) : Host.Outcome State Fault Refusal :=
  let x := s.seq seq
  .next (s.setSeq seq { x with irqPend := x.irqPend ||| (1#32 <<< line.toNat) })

/-! ## Heartbeats (R456) -/

/-- Is the power sequencer hung: no heartbeat for 1 ms (R456)? -/
def Die.powerHung (x : Die) : Bool := x.serving && decide (x.powerBeat + 1000000 ≤ x.dtime)

/-- Do the grants stand still: the power sequencer is being updated, has hung before, or is hung (R459)? -/
def Die.frozen (x : Die) : Bool := x.frozenGrants || x.powerHung

/-- What a heartbeat of the power sequencer does: frozen grants may move again from the next boundary, and a
write of PWRLIM that waited takes effect (R459). A heartbeat during an update is the first one of its image. -/
def Die.powerAlive (x : Die) : Die :=
  { x with
    powerBeat := x.dtime
    frozenGrants := false
    powerAt := if x.frozen then x.dtime / 20000 else x.powerAt
    tcsr := match x.pwrPending with
      | some v => sset (tcsrDefault 0x100) x.tcsr 0x100 v
      | none => x.tcsr
    pwrPending := none
    fw := if x.fw == .quiescing && x.fwImage then .running else x.fw }

/-- Does a front-end sequencer still owe its first heartbeat? -/
def State.awaiting (s : State) (d : DieId) : Bool := s.seqs.any fun q => q.1.die == d && !q.1.trivet && q.2.awaitBeat

/-- The new Percolator image has posted its first heartbeats: it runs (step 5 of the update). -/
def State.updated (s : State) (d : DieId) : State :=
  let x := s.die d
  if x.fw == .quiescing && !x.fwImage && !s.awaiting d then s.setDie d { x with fw := .running } else s

/-- Has the first heartbeat of a new power-sequencer image been missed: 1 ms has passed (R463)? -/
def Die.powerMissed (x : Die) : Bool := x.fw == .quiescing && x.fwImage && decide (x.powerBeat + 1000000 < x.dtime)

/-- A sequencer posts a heartbeat, unless it is hung. Number 4 is the power sequencer, which has a port of its own; a new
image that has missed its first heartbeat runs no more. -/
def State.beat (s : State) (q : SeqId) : State :=
  if !q.trivet && q.num == 4 then (if (s.die q.die).powerMissed then s else s.setDie q.die (s.die q.die).powerAlive)
  else
    let x := s.seq q
    if x.halted || x.isolated || s.cutOff (.seq q) then s
    else ((s.setSeq q { x with lastBeat := s.now q.die, awaitBeat := false }).updated q.die).retest q.die

/-- HBEAT: any value posts one heartbeat. -/
def execHbeat (seq : SeqId) (_v : Word) (s : State) : Host.Outcome State Fault Refusal := .next (s.beat seq)

/-! ## SEQUENCER_HANG (R457) -/

/-- May the Trivet act on a hang: the sequencer is hung, its Percolator is not halted, and no update awaits its
first heartbeat? -/
def State.hangs (s : State) (d : DieId) (num : Nat) : Bool :=
  let x := s.die d
  decide (num < 4) && x.serving && !x.halted && !(x.fw == .quiescing && !x.fwImage) && s.hung ⟨d, false, num⟩

/-- A second hang within 10 ms: the Percolator stays halted, and the other die asks for the single-die
transition. -/
def State.secondHang (s : State) (d : DieId) (num : Nat) : State :=
  let q : SeqId := ⟨d, false, num⟩
  let x := s.die d
  let s := (s.setDie d { x with halted := true }).haltSeqs d true
  (s.setSeq q { s.seq q with isolated := true }).goSingle (!d)

def execSequencerHang (die : DieId) (num : Nat) (s : State) : Host.Outcome State Fault Refusal :=
  let x := s.die die
  .next (if !s.hangs die num then s
    else if x.hangs.any fun t => decide (x.dtime ≤ t + 10000000) then s.secondHang die num
    else (s.setDie die { x with hangs := x.hangs ++ [x.dtime] }).startSeqs die true)

/-! ## POWER_SEQUENCER_HANG (R459) -/

/-- Every level above 2 falls to 2. -/
def lowerLevels (l : List (Nat × Nat)) : List (Nat × Nat) := l.map fun p => (p.1, min 2 p.2)

/-- The power sequencer's heartbeat has been missing for 1 ms. -/
def execPowerSequencerHang (die : DieId) (s : State) : Host.Outcome State Fault Refusal :=
  let x := s.die die
  .next (if x.powerHung then s.setDie die { x with frozenGrants := true, levels := lowerLevels x.levels } else s)

/-! ## LOCKSTEP_MISMATCH (R458) -/

/-- The Trivet resets itself from its boot ROM: its sequencer starts over, its thresholds take their reset
values, and the heartbeats are counted from now on. -/
def State.resetTrivet (s : State) (d : DieId) : State :=
  let x := s.die d
  let s := s.setDie d { x with tcsr := x.tcsr.filter fun e => decide (e.1 < 0x110), powerBeat := x.dtime }
  let s : State := { s with seqs := s.seqs.map fun q =>
      if q.1.die == d && !q.1.trivet then (q.1, { q.2 with lastBeat := x.dtime }) else q }
  s.startSeq ⟨d, true, 0⟩ false

def execLockstepMismatch (die : DieId) (s : State) : Host.Outcome State Fault Refusal := .next (s.resetTrivet die)

/-! ## The live update (R463 and the steps before it) -/

/-- An image of some bytes, as a number: the bytes, little-endian, below a leading 1. -/
def imageOf (b : List Byte) : Nat := ofBytes b + 2 ^ (8 * b.length)

/-- The image that FWSRC and FWLEN name in tenant 0's memory (R455). -/
def State.fwSource (s : State) (d : DieId) : Nat :=
  let x := s.die d
  imageOf (s.bytes (x.tcsrAt 0x104 + x.tcsrAt 0x105 * 2 ^ 32) (x.tcsrAt 0x106))

/-- Is an image of a version new enough for a die (R381)? -/
def newEnough (d : DieId) (version : Nat) : Bool := decide (Config.rollbackCount d ≤ version)

/-- Stage an image: it is copied into the inactive slot and verified under R381, its signature (`verifies`) and its version;
a failure changes nothing else. A Percolator image then starts on the four front-end sequencers; a power-sequencer image
freezes the grants. -/
def State.stageFw (s : State) (d : DieId) (image verifies : Bool) (version : Nat) : State :=
  let x := s.die d
  let k := if image then 2 + (if x.slotP then 0 else 1) else 4 + if x.slotA then 0 else 1
  if x.fw == .quiescing then s
  else if !verifies || !newEnough d version then s.setDie d { x with fw := .rejected }
  else
    let x : Die := { x with fw := .quiescing, fwImage := image, fwVersion := version, fwNew := s.fwSource d, slots := aput k (s.fwSource d) x.slots }
    if image then s.setDie d { x with frozenGrants := true, powerBeat := x.dtime }
    else (s.setDie d x).startSeqs d true

/-- FWCMD_STAGE. `passes` tells whether the signature of the image verifies, `version` the version that it carries. -/
def execFwcmdStage (die : DieId) (powerImage passes : Bool) (version : Nat) (s : State) : Host.Outcome State Fault Refusal :=
  .next (s.stageFw die powerImage passes version)

/-- Commit: the new slot is the active slot from now on, and measurements report its image. -/
def State.commitFw (s : State) (d : DieId) (image : Bool) : State :=
  let x := s.die d
  if x.fw != .running || x.fwImage != image then s
  else
    let m := x.measured.zipIdx.map fun p => if p.2 == (if image then 1 else 2) then Config.sha256 x.fwNew else p.1
    let x : Die := { x with fw := .committed, version := x.fwVersion, measured := m }
    s.setDie d (if image then { x with slotP := !x.slotP } else { x with slotA := !x.slotA })

def execFwcmdCommit (die : DieId) (powerImage : Bool) (s : State) : Host.Outcome State Fault Refusal :=
  .next (s.commitFw die powerImage)

/-- When the image under test was started. -/
def State.fwStart (s : State) (d : DieId) : Nat :=
  if (s.die d).fwImage then (s.die d).powerBeat
  else match s.seqs.find? fun q => q.1.die == d && !q.1.trivet && q.2.awaitBeat with
    | some q => q.2.lastBeat
    | none => s.now d

/-- FIRMWARE_FIRST_HEARTBEAT: it arrives within 1 ms; placement and admission, or grants, resume. A sequencer that a trap
has halted posts none (R396). -/
def execFirmwareFirstHeartbeat (die : DieId) (s : State) : Host.Outcome State Fault Refusal :=
  let x := s.die die
  .next (if x.fw != .quiescing || s.fwStart die + 1000000 < x.dtime then s
    else if x.fwImage then s.setDie die x.powerAlive
    else
      let s : State := { s with seqs := s.seqs.map fun q =>
          if q.1.die == die && !q.1.trivet && !q.2.halted then (q.1, { q.2 with lastBeat := x.dtime, awaitBeat := false }) else q }
      (s.updated die).retest die)

/-- FIRMWARE_ROLLBACK: the first heartbeat is missed; the old slot is loaded again and resumes. Grants stay frozen until the
old power image posts a heartbeat, and those above level 2 fall to it (R459). -/
def execFirmwareRollback (die : DieId) (s : State) : Host.Outcome State Fault Refusal :=
  let x := s.die die
  .next (if x.fw != .quiescing || x.dtime < s.fwStart die + 1000000 then s
    else if x.fwImage then s.setDie die { x with fw := .rolledBack, powerBeat := x.dtime, levels := lowerLevels x.levels }
    else ((s.setDie die { x with fw := .rolledBack }).startSeqs die false).retest die)

end Sys2Proof.Machine
end

