-- ==== Sys2Proof/Machine/Registers.lean ====
section
/-! DEFINITION. The control registers (R165, R335 to R340, R347, R348, R357, R366, R399, R442, R455, R466): which
are assigned, what each value means, reading and writing them; CSR.RD and CSR.WR, and the register events SRCMT,
SRCTL, QMCTL, TLBINV, TLB_INVALIDATION_COMPLETE, TWAYS, CARVE_OUT_CHANGE_COMPLETE, TDROP, EVCOUNT, EVCTL_RESET,
EVCTL_FREE, PWRLIM, REGISTER_WRITE and ERROR_RECORD_DEFERRED_WRITE. -/

namespace Sys2Proof.Machine

/-! ## Assigned numbers -/

/-- How a register may be accessed. -/
inductive RegAccess where
  | none | read | write | both
  deriving DecidableEq, Repr

/-- The registers that every sequencer holds (R165). -/
def seqAccess (n : Nat) : RegAccess :=
  match n with
  | 0x000 | 0x001 | 0x002 | 0x010 => .read
  | 0x011 => .both
  | 0x012 | 0x020 => .write
  | _ => .none

/-- The Percolator's registers (R335). -/
def percAccess (n : Nat) : RegAccess :=
  if n < 0x100 then .none
  else if n < 0x200 then (if n % 16 < 8 then .both else if n % 16 == 8 then .read else .none)
  else if n < 0x300 then (if n % 4 == 3 then .write else .both)
  else if n < 0x330 then .both
  else if 0x380 ≤ n && n < 0x400 then .both
  else match n with
    | 0x340 | 0x362 => .write
    | 0x341 | 0x363 => .read
    | 0x350 | 0x360 | 0x361 => .both
    | _ => .none

/-- The Trivet's registers (R455). -/
def trivAccess (n : Nat) : RegAccess :=
  match n with
  | 0x100 | 0x104 | 0x105 | 0x106 | 0x110 | 0x111 | 0x112 => .both
  | 0x101 | 0x103 => .read
  | 0x102 => .write
  | _ => .none

/-- The access of a number on a sequencer (R165). -/
def csrAccess (trivet : Bool) (n : Nat) : RegAccess :=
  if n < 0x100 then seqAccess n else if trivet then trivAccess n else percAccess n

def RegAccess.reads : RegAccess → Bool
  | .read | .both => true
  | _ => false

def RegAccess.writes : RegAccess → Bool
  | .write | .both => true
  | _ => false

/-! ## Reserved values -/

/-- Bits [hi:lo] of a value are zero. -/
def zeroIn (v hi lo : Nat) : Bool := bits v hi lo == 0

/-- Is a value free of reserved bits and values of a Percolator register (R335 to R339, R357)? -/
def percValid (n v : Nat) : Bool :=
  if n < 0x200 then
    match n % 16 with
    | 0 => zeroIn v 31 24 && zeroIn v 5 4
    | 1 => zeroIn v 14 0
    | 2 => zeroIn v 31 12
    | _ => true
  else if n < 0x300 then n % 4 != 2 || zeroIn v 31 6
  else if n < 0x330 then decide (v ≤ 16)
  else if 0x380 ≤ n then n % 4 != 2 || (zeroIn v 31 16 && zeroIn v 7 5 && !zeroIn v 15 8)
  else match n with
    | 0x340 => zeroIn v 31 5
    | 0x350 => zeroIn v 31 9 && zeroIn v 7 2 && bits v 1 0 != 3
    | 0x360 => zeroIn v 31 16
    | 0x362 => decide (v ≤ 1)
    | _ => true

/-- Is a value free of reserved bits and values of a Trivet register (R455)? -/
def trivValid (n v : Nat) : Bool :=
  match n with
  | 0x100 => decide (120 ≤ v) && decide (v ≤ 450)
  | 0x102 => zeroIn v 31 3 && (bits v 1 0 == 1 || bits v 1 0 == 2)
  | 0x104 => zeroIn v 3 0
  | 0x105 => zeroIn v 31 12
  | 0x106 => decide (1 ≤ v) && decide (v ≤ 2 ^ 20)
  | 0x110 => zeroIn v 31 16
  | 0x111 => zeroIn v 31 8
  | 0x112 => zeroIn v 31 4
  | _ => true

/-- A write of a reserved value leaves the register unchanged and posts a kind 11 record of reason 1 to tenant 0
(R335, R466). -/
def State.reservedWrite (s : State) (d : DieId) (trivet : Bool) (n v : Nat) : State :=
  s.post11 d 0 0xFFFF 1 0 (n + (if trivet then 2 ^ 12 else 0) + if d then 2 ^ 13 else 0) v

/-! ## Items that wait for a repair (R399) -/

/-- Earlier held writes of a ring control register give way to a later write. -/
def State.dropItems (s : State) (d : DieId) (old : PercItem → Bool) : State :=
  let x := s.die d
  let gone := (x.percQ.filter fun p => old p.2).map (·.1)
  if gone.isEmpty then s
  else (s.setDie d { x with percQ := x.percQ.filter fun p => !old p.2 }).unpark fun p => match p.who with
    | .percolator n => !(p.die == d && gone.contains n)
    | _ => true

/-! ## TCTL (R336, R344) -/

/-- A write of TCTL: when a tenant is disabled, its periodic jobs leave the Percolator. -/
def State.setTctl (s : State) (d : DieId) (t : Nat) (v : Word) : State :=
  let was := s.enabled d t
  let s := s.setCsr d (0x100 + 16 * t) v
  if !was || v.getLsbD 0 then s.noteFirst
  else
    let mine := fun (j : Job) => j.die == d && j.tenant == t && j.period != 0 && j.batch.isNone
    let ids := (s.jobs.filter mine).map (·.id)
    let s : State := { s with jobs := s.jobs.map fun j => if mine j then { j with cancelled := true } else j }
    (ids.foldl (fun s i => s.prune i) s).noteFirst

/-! ## SRCTL (R339) -/

/-- A ring control value with EN clear. -/
def offWord (v : Word) : Word := v &&& ~~~16#32

/-- A write of SRCTL(r): when EN goes from 0 to 1 the descriptor is checked, its shape under R81 with its scope and size.
The descriptor is read where SRD names it, aligned or not (entry 84). -/
def State.writeSrctl (s : State) (d : DieId) (r : Nat) (v : Word) : State :=
  let n := 0x202 + 4 * r
  let t := v.toNat % 16
  let was := bitAt (s.srctl d r) 4
  let s := s.dropItems d fun i => match i with
    | .srctl k _ => k == r
    | _ => false
  if was || !v.getLsbD 4 then s.setCsr d n v
  else
    let g := percAgent d t
    let va := s.srd d r
    match s.percLoad g va 64 with
    | (s, .waits) => (s.setCsr d n (offWord v)).queueItem d (.srctl r v)
    | (s, .ok b) =>
      let x := Ring.ofBytes b
      if x.scope < 2 || x.log2cap < 2 || !x.wellShaped then (s.setCsr d n (offWord v)).post11 d t 0xFFFF 2 1 r va
      else s.setCsr d n v
    | (s, .failed) => (s.setCsr d n (offWord v)).post11 d t 0xFFFF 2 3 r va
    | (s, .stuck p k c) => (s.setCsr d n (offWord v)).holdItem d g (.srctl r v) p k c

def execSrctl (die : DieId) (ring : Nat) (v : Word) (s : State) : Host.Outcome State Fault Refusal :=
  .next (if 64 ≤ ring then s
    else if percValid (0x202 + 4 * ring) v.toNat then s.writeSrctl die ring v
    else s.reservedWrite die false (0x202 + 4 * ring) v.toNat)

/-! ## QMCTL (R357) -/

/-- A ring is served from now on: the committed positions that it holds are stamped with the present time. -/
def State.serveRing (s : State) (d : DieId) (q : Nat) (v : Word) (commit : Nat) : State :=
  let s := s.setCsr d (0x382 + 4 * q) v
  let x := s.die d
  s.setDie d { x with stamps := (x.stamps.filter fun e => e.1 != q) ++ [(q, commit, x.dtime)] }

/-- A write of QMCTL(q): when EN goes from 0 to 1 the descriptor and the node kernel's descriptor are read, each where
it is named, aligned or not; a descriptor of scope BLOCK or that breaks R81 fails as one without NODEKD does (entry 84). -/
def State.writeQmctl (s : State) (d : DieId) (q : Nat) (v : Word) : State :=
  let n := 0x382 + 4 * q
  let t := v.toNat % 16
  let was := bitAt (s.qmctl d q) 4
  let s := s.dropItems d fun i => match i with
    | .qmctl k _ => k == q
    | _ => false
  if was && v.getLsbD 4 then s.setCsr d n v
  else if !v.getLsbD 4 then
    let s := s.setCsr d n v
    let x := s.die d
    s.setDie d { x with stamps := x.stamps.filter fun e => e.1 != q }
  else
    let g := percAgent d t
    let va := s.qmd d q
    let item := 100 + q
    let off := fun (s : State) (code : Nat) => ((s.ungrant d item).setCsr d n (offWord v)).post11 d t 0xFFFF 2 code (q + 256) va
    let later := fun (s : State) => (s.setCsr d n (offWord v)).queueItem d (.qmctl q v)
    match s.percStep g item va 64 with
    | (s, .failed) => off s 3
    | (s, .waits) => later s
    | (s, .stuck p k c) => (s.setCsr d n (offWord v)).holdItem d g (.qmctl q v) p k c
    | (s, .ok b) =>
      let x := Ring.ofBytes b
      if x.nodekd == 0 || x.scope == 0 || !x.wellShaped then off s 2
      else
        match s.percStep g item x.nodekd 256 with
        | (s, .failed) => off s 3
        | (s, .waits) => later s
        | (s, .stuck p k c) => (s.setCsr d n (offWord v)).holdItem d g (.qmctl q v) p k c
        | (s, .ok k) =>
          if kdOk (word2048 k) && kdBarriersOk (word2048 k) then (s.ungrant d item).serveRing d q v x.commit else off s 2

def execQmctl (die : DieId) (ring : Nat) (v : Word) (s : State) : Host.Outcome State Fault Refusal :=
  .next (if 32 ≤ ring then s
    else if percValid (0x382 + 4 * ring) v.toNat then s.writeQmctl die ring v
    else s.reservedWrite die false (0x382 + 4 * ring) v.toNat)

/-! ## SRCMT (R340) -/

/-- The tenant to which the record of an ignored commit write goes. -/
def writerTenant : RegWriter → Nat
  | .host t => t
  | .firmware => 0

/-- May a writer commit to a ring of a tenant? System firmware acts for every tenant. -/
def actsFor (w : RegWriter) (ten : Nat) : Bool :=
  match w with
  | .host t => t == ten
  | .firmware => true

/-- Handle a commit write of `v`: advance COMMIT, or ignore it with a kind 11 record of reason 3. A ring whose descriptor
no longer obeys R81 loses its enable bit (entry 84). A write behind one of the same ring that is held waits for it. -/
def State.writeSrcmt (s : State) (d : DieId) (by_ : RegWriter) (r : Nat) (v : Word) : State :=
  let ctl := s.srctl d r
  let bad := fun (s : State) (code : Nat) => s.post11 d (writerTenant by_) 0xFFFF 3 code r v.toNat
  let waits := (s.die d).percQ.any fun p => match p.2 with
    | .srcmt _ k _ => k == r
    | _ => false
  if !actsFor by_ (ctl % 16) then bad s 1
  else if bitAt ctl 5 then bad s 2
  else if waits then s.queueItem d (.srcmt by_ r v)
  else
    let g := percAgent d (ctl % 16)
    let va := s.srd d r
    let gated := s.gate g va true
    if gated.2 then gated.1.queueItem d (.srcmt by_ r v) else
    match s.percLoad g va 64 with
    | (s, .waits) => s.queueItem d (.srcmt by_ r v)
    | (s, .failed) => s.disableRing d false r (ctl % 16) 3 va
    | (s, .stuck p k c) => s.holdItem d g (.srcmt by_ r v) p k c
    | (s, .ok b) =>
      let x := Ring.ofBytes b
      let inc := (v.toNat + 2 ^ 32 - x.commit % 2 ^ 32) % 2 ^ 32
      if !x.wellShaped then s.disableRing d false r (ctl % 16) 1 va
      else if inc % 4 != 0 then bad s 3
      else if x.cap - (x.commit - x.retire) < inc then bad s 4
      else
        match s.putRing g va { x with commit := x.commit + inc } x.system with
        | (s, .ok ()) => s.setMarks (s.marks (s.ringKey g va)) (x.commit + inc)
        | (s, .park p k c) =>
          if s.refused g va ⟨false, true, false⟩ then s.disableRing d false r (ctl % 16) 3 va
          else s.holdItem d g (.srcmt by_ r v) p k c
        | (s, _) => s.disableRing d false r (ctl % 16) 3 va

def execSrcmt (die : DieId) (by_ : RegWriter) (ring : Nat) (v : Word) (s : State) : Host.Outcome State Fault Refusal :=
  .next (if 64 ≤ ring then s else s.writeSrcmt die by_ ring v)

/-- The Percolator tries again what no longer waits for a repair (R399). -/
def State.retryPerc (s : State) (d : DieId) : State :=
  let go := (s.die d).percQ.filter fun p => !s.percParked d p.1
  let s := s.setDie d { s.die d with percQ := (s.die d).percQ.filter fun p => s.percParked d p.1 }
  go.foldl (fun s p => match p.2 with
    | .done r => s.writeDone d r
    | .pub t no desc b => s.putPub d t no desc b
    | .retire t b => s.retireBatch t { b with on := d }
    | .srctl r v => s.writeSrctl d r v
    | .qmctl q v => s.writeQmctl d q v
    | .srcmt w r v => s.writeSrcmt d w r v) s

/-- ERROR_RECORD_DEFERRED_WRITE: held records of a tenant are written as room returns (R398), and the
Percolator's own held accesses go on. -/
def execErrorRecordDeferredWrite (die : DieId) (tenant : Nat) (s : State) : Host.Outcome State Fault Refusal :=
  .next ((s.flush die tenant 65).retryPerc die)

/-! ## TLBINV (R337, R400) -/

/-- A write of TLBINV starts an invalidation. -/
def State.writeTlbinv (s : State) (d : DieId) (v : Nat) : State :=
  let x := s.die d
  s.setDie d { x with tlbBusy := x.tlbBusy ++ [(v % 16, bitAt v 4, x.dtime)] }

def execTlbinv (die : DieId) (v : Word) (s : State) : Host.Outcome State Fault Refusal :=
  .next (if percValid 0x340 v.toNat then s.writeTlbinv die v.toNat else s.reservedWrite die false 0x340 v.toNat)

/-- An invalidation is done: the cached translations go, the pending entries of translation faults clear, and
what is parked on them replays. -/
def State.invalidated (s : State) (d : DieId) (all : Bool) (t : Nat) : State :=
  let mine := fun (k : Nat) => all || k == t
  let s : State := { s with
    tlb := s.tlb.filter fun e => !(e.die == d && mine e.tenant)
    pendq := s.pendq.filter fun e => !(e.1 == d && mine e.2.1 && e.2.2.2 == 1) }
  (s.unpark fun p => !(p.die == d && mine p.tenant && p.reason == 1)).retryPerc d

def execTlbInvalidationComplete (die : DieId) (s : State) : Host.Outcome State Fault Refusal :=
  let x := s.die die
  .next (match x.tlbBusy with
    | [] => s
    | e :: l => (s.setDie die { x with tlbBusy := l }).invalidated die e.2.1 e.1)

/-! ## TWAYS (R366, R442) -/

/-- A write of TWAYS(t) is a carve-out change, queued behind earlier ones. -/
def State.writeTways (s : State) (d : DieId) (t : Nat) (v : Word) : State :=
  let s := s.setCsr d (0x103 + 16 * t) v
  let x := s.die d
  s.setDie d { x with twaysQ := x.twaysQ ++ [(t, v)] }

def execTways (die : DieId) (tenant : Nat) (v : Word) (s : State) : Host.Outcome State Fault Refusal :=
  .next (if 16 ≤ tenant then s else s.writeTways die tenant v)

/-- Does a line of tenant `k` in a way leave when the mask of tenant `t` becomes `m`: in a way that `t` loses its own,
in a way that `t` gains those of every other tenant? -/
def Die.moving (x : Die) (t : Nat) (m : BitVec 16) (k way : Nat) : Bool :=
  let old : BitVec 16 := sget 0 x.ways t
  if k == t then old.getLsbD way && !m.getLsbD way else m.getLsbD way && !old.getLsbD way

/-- A change completes: the moving ways' lines are written back and invalidated, then the mask holds. -/
def State.moveWays (s : State) (d : DieId) (t : Nat) (m : BitVec 16) : State :=
  let x := s.die d
  let s := s.mscEvict fun l => l.die == d && x.moving t m l.tenant l.way
  let x := s.die d
  s.setDie d { x with ways := sset 0 x.ways t m }

def execCarveOutChangeComplete (die : DieId) (s : State) : Host.Outcome State Fault Refusal :=
  let x := s.die die
  .next (match x.twaysQ with
    | [] => s
    | e :: l =>
      let s := (s.setDie die { x with twaysQ := l }).moveWays die e.1 (e.2.setWidth 16)
      let ev : BitVec 16 := e.2.extractLsb' 16 16
      match s.signal ev 1 with
      | some t => t
      | none => s.post11 die 0 0xFFFF 6 3 ev.toNat 0)

/-! ## TDROP (R335) -/

/-- A read of TDROP(t) returns the count and clears it. -/
def State.takeTdrop (s : State) (d : DieId) (t : Nat) : State :=
  let x := s.die d
  s.setDie d { x with tdrop := sset 0 x.tdrop t 0 }

def execTdrop (die : DieId) (tenant : Nat) (s : State) : Host.Outcome State Fault Refusal := .next (s.takeTdrop die tenant)

/-! ## Events (R335, R347, R348) -/

/-- The event that EVSEL names. -/
def State.evsel (s : State) (d : DieId) : BitVec 16 := BitVec.ofNat 16 (s.csr d 0x360)

/-- The live entry that EVSEL names. -/
def State.selected (s : State) (d : DieId) : Option EvEntry :=
  let e := s.evsel d
  (s.die (s.evHome e)).event? e

/-- Replace a live entry. -/
def State.setEvent (s : State) (c : EvEntry) : State :=
  let d := s.evHome c.name
  let x := s.die d
  s.setDie d { x with events := x.events.map fun e => if e.name == c.name then c else e }

/-- A write of EVCOUNT sets the selected event's count and tests its waits; with a full table it is ignored. -/
def State.writeEvcount (s : State) (d : DieId) (v : Word) : State :=
  let e := s.evsel d
  match s.liven e with
  | none => s.post11 d 0 0xFFFF 6 4 e.toNat 0
  | some s => match s.selected d with
    | some c => (s.setEvent { c with count := v }).testWaits e
    | none => s

def execEvcount (die : DieId) (v : Word) (s : State) : Host.Outcome State Fault Refusal := .next (s.writeEvcount die v)

/-- EVCTL op 0: the count becomes 0. -/
def State.evReset (s : State) (d : DieId) : State :=
  match s.selected d with
  | some c => s.setEvent { c with count := 0 }
  | none => s

def execEvctlReset (die : DieId) (s : State) : Host.Outcome State Fault Refusal := .next (s.evReset die)

/-- EVCTL op 1: the entry is freed when no wait is listed on it; otherwise a kind 11 record of reason 7. -/
def State.evFree (s : State) (d : DieId) : State :=
  match s.selected d with
  | none => s
  | some c =>
    if c.waits.isEmpty && c.chained.isEmpty then
      let h := s.evHome c.name
      let x := s.die h
      s.setDie h { x with events := x.events.filter fun e => e.name != c.name }
    else s.post11 d 0 0xFFFF 7 0 c.name.toNat c.waits.length

def execEvctlFree (die : DieId) (s : State) : Host.Outcome State Fault Refusal := .next (s.evFree die)

/-! ## PWRLIM (R455, R459) -/

/-- A write to either die sets the limit on both; while a die's grants are frozen it waits there for the power
sequencer's next heartbeat. -/
def State.writePwrlim (s : State) (v : Word) : State :=
  [false, true].foldl (fun s d =>
    let x := s.die d
    s.setDie d (if x.frozen then { x with pwrPending := some v } else { x with tcsr := sset (tcsrDefault 0x100) x.tcsr 0x100 v })) s

def execPwrlim (die : DieId) (v : Word) (s : State) : Host.Outcome State Fault Refusal :=
  .next (if trivValid 0x100 v.toNat then s.writePwrlim v else s.reservedWrite die true 0x100 v.toNat)

/-! ## Writing any register -/

/-- A write of DIEMODE: ignored while BUSY reads 1 (R360, R362). -/
def State.writeDiemode (s : State) (v : Nat) : State :=
  match v % 4 with
  | 0 => s.goBoth
  | 1 => s.goSingle false
  | _ => s.goSingle true

/-- Write a Percolator register with a value that is not reserved. -/
def State.writePerc (s : State) (d : DieId) (n : Nat) (v : Word) (by_ : RegWriter) : State :=
  if n < 0x200 && n % 16 == 0 then s.setTctl d ((n - 0x100) / 16) v
  else if n < 0x200 && n % 16 == 3 then s.writeTways d ((n - 0x100) / 16) v
  else if n < 0x200 then s.setCsr d n v
  else if n < 0x300 && n % 4 == 2 then s.writeSrctl d ((n - 0x200) / 4) v
  else if n < 0x300 && n % 4 == 3 then s.writeSrcmt d by_ ((n - 0x200) / 4) v
  else if 0x380 ≤ n && n % 4 == 2 then s.writeQmctl d ((n - 0x380) / 4) v
  else match n with
    | 0x340 => s.writeTlbinv d v.toNat
    | 0x350 => s.writeDiemode v.toNat
    | 0x361 => s.writeEvcount d v
    | 0x362 => if v == 0 then s.evReset d else s.evFree d
    | _ => s.setCsr d n v

/-- Write a Trivet register with a value that is not reserved. Whether the signature of a staged image verifies, and its
version, are the image's own: free values of its bytes. -/
def State.writeTriv (s : State) (d : DieId) (n : Nat) (v : Word) : State :=
  match n with
  | 0x100 => s.writePwrlim v
  | 0x102 =>
    if v.toNat % 4 == 1 then s.stageFw d (v.getLsbD 2) (Config.imageVerifies (s.fwSource d)) (Config.imageVersion (s.fwSource d))
    else s.commitFw d (v.getLsbD 2)
  | _ =>
    let x := s.die d
    s.setDie d { x with tcsr := sset (tcsrDefault n) x.tcsr n v }

/-- Write a Percolator or Trivet register, with the check of reserved values. An unassigned or read-only
register is not written. -/
def State.regWrite (s : State) (d : DieId) (trivet : Bool) (n : Nat) (v : Word) (by_ : RegWriter) : State :=
  if trivet then
    if !(trivAccess n).writes then s
    else if trivValid n v.toNat then s.writeTriv d n v
    else s.reservedWrite d true n v.toNat
  else
    if !(percAccess n).writes then s
    else if percValid n v.toNat then s.writePerc d n v by_
    else s.reservedWrite d false n v.toNat

/-- A word of an ingest descriptor (R387). The manual gives these words no number: the model numbers word w of
descriptor k as 0x1000 + 8k + w. -/
def State.writeIngest (s : State) (d : DieId) (n : Nat) (v : Word) : State :=
  let k := n / 8
  let w := n % 8
  let x := s.die d
  let i := sget ⟨0, 0, false⟩ x.ingest k
  let keep := i.desc.toNat - bits i.desc.toNat (32 * w + 31) (32 * w) * 2 ^ (32 * w)
  s.setDie d { x with ingest := sset ⟨0, 0, false⟩ x.ingest k { i with desc := BitVec.ofNat 256 (keep + v.toNat * 2 ^ (32 * w)) } }

/-- REGISTER_WRITE: a write through the system function, or by a front-end or Trivet sequencer. -/
def execRegisterWrite (die : DieId) (trivet : Bool) (csr : Nat) (v : Word) (s : State) : Host.Outcome State Fault Refusal :=
  .next (if 0x1000 ≤ csr && csr < 0x1000 + 8 * 24 && !trivet then s.writeIngest die (csr - 0x1000) v
    else s.regWrite die trivet csr v (.host 0))

/-! ## Reading any register -/

/-- The value of a Percolator register. -/
def State.readPerc (s : State) (d : DieId) (n : Nat) : Nat :=
  if n < 0x200 && n % 16 == 8 then (sget 0 (s.die d).tdrop ((n - 0x100) / 16)).toNat
  else match n with
    | 0x341 => if (s.die d).tlbBusy.isEmpty then 0 else 1
    | 0x350 => s.csr d 0x350 % 4 + if (s.die d).busy then 256 else 0
    | 0x361 => match s.selected d with
      | some c => c.count.toNat
      | none => 0
    | 0x363 => match s.selected d with
      | some c => 1 + (if c.chained.isEmpty then 0 else 2) + 4 * c.waits.length
      | none => 0
    | _ => s.csr d n

def FwPhase.code : FwPhase → Nat
  | .idle => 0
  | .verifying => 1
  | .quiescing => 2
  | .running => 3
  | .committed => 4
  | .rejected => 5
  | .rolledBack => 6

/-- HBSTAT (R455). -/
def State.hbstat (s : State) (d : DieId) : Nat :=
  let x := s.die d
  ((List.range 4).map fun n => if s.hung ⟨d, false, n⟩ then 2 ^ n else 0).foldl (· + ·) 0 +
    (if x.powerHung then 16 else 0) + if x.frozen then 32 else 0

/-- The value of a Trivet register. -/
def State.readTriv (s : State) (d : DieId) (n : Nat) : Nat :=
  let x := s.die d
  match n with
  | 0x100 => match x.pwrPending with
    | some v => v.toNat
    | none => x.tcsrAt 0x100
  | 0x101 => s.hbstat d
  | 0x103 => x.fw.code + if x.slotA then 16 else 0
  | _ => x.tcsrAt n

/-- The value of a register that every sequencer holds. -/
def State.readOwn (s : State) (q : SeqId) (n : Nat) : Nat :=
  let x := s.seq q
  match n with
  | 0x000 => (if q.trivet then 1 else 0) + q.num % 4 * 4 + if q.die then 16 else 0
  | 0x001 => s.now q.die % 2 ^ 32
  | 0x002 => x.dtimeHi.toNat
  | 0x010 => x.irqPend.toNat
  | 0x011 => x.irqMask.toNat
  | _ => 0

/-- A read by a sequencer: the value, and what the read does beside it. -/
def State.csrRead (s : State) (q : SeqId) (n : Nat) : State × Nat :=
  if n < 0x100 then ((if n == 1 then s.latchTime q else s), s.readOwn q n)
  else if q.trivet then (s, s.readTriv q.die n)
  else ((if n < 0x200 && n % 16 == 8 then s.takeTdrop q.die ((n - 0x100) / 16) else s), s.readPerc q.die n)

/-- A write by a sequencer; its firmware acts for every tenant (R340), and a hung one's is discarded (R456). -/
def State.csrWrite (s : State) (q : SeqId) (n : Nat) (v : Word) : State :=
  if s.cutOff (.seq q) then s else
  match n with
  | 0x011 => s.setSeq q { s.seq q with irqMask := v }
  | 0x012 => s.irqAck q v
  | 0x020 => s.beat q
  | _ => s.regWrite q.die q.trivet n v .firmware

/-! ## CSR.RD and CSR.WR (R165) -/

/-- CSR.RD: only lane 0 acts; an unassigned or write-only number traps at issue. -/
def execCsrRd (x : CsrRd) (s : State) :=
  issue s ⟨(Instr.csrRd x).legal, .privileged, x.h, [], span 1 x.d, none, false⟩ fun s who w p act =>
    match who with
    | .warp .. => .done s
    | .seq q =>
      if !(csrAccess q.trivet x.csr.toNat).reads then .trap 0x01 p.mask 0
      else if !act.getLsbD 0 then .done s
      else
        let r := s.csrRead q x.csr.toNat
        .done (r.1.setWarp who (w.putD 1 x.d (act &&& 1) fun _ => r.2))

/-- Is a register write a release: a commit write (R340), or one that tests the waits of an event (R348)? -/
def csrReleases (trivet : Bool) (n : Nat) : Bool := !trivet && (n == 0x361 || (decide (0x200 ≤ n) && decide (n < 0x300) && n % 4 == 3))

/-- CSR.WR: only lane 0 acts; an unassigned or read-only number traps at issue. -/
def execCsrWr (x : CsrWr) (s : State) :=
  issue s ⟨(Instr.csrWr x).legal, .privileged, x.h, span 1 x.a, [], none, false⟩ fun s who w p act =>
    match who with
    | .warp .. => .done s
    | .seq q =>
      if !(csrAccess q.trivet x.csr.toNat).writes then .trap 0x01 p.mask 0
      else if !act.getLsbD 0 then .done s
      else if csrReleases q.trivet x.csr.toNat && !s.quiet who (act &&& 1) then .hold s
      else .done (s.csrWrite q x.csr.toNat (w.word x.a.toNat 0))

end Sys2Proof.Machine
end

