-- ==== Sys2Proof/Machine/TimePower.lean ====
section
/-! DEFINITION. Group 0xD_ (R372 to R377): TIME, WAITT, PCLS, SWPT and CKPT, and the event
WAITT_TARGET_REACHED. -/

namespace Sys2Proof.Machine

/-- TIME: DTIME sampled once at issue (R373). -/
def execTime (x : DOnly) (s : State) :=
  issue s (lane (Instr.time x).legal x.h [] (span 2 x.d)) fun s who w _ act =>
    .done (s.setWarp who (w.putD 2 x.d act fun _ => s.now (s.dieOf who)))

/-- WAITT: t is fixed at the first issue and kept while the warp is held (R374). -/
def execWaitt (x : WaittOp) (s : State) :=
  warpForm s (lane (Instr.waitt x).legal x.h (span 2 x.a) []) fun s who w _ _ =>
    let now := s.now (s.dieOf who)
    let t := match w.hold with
      | .waitt t _ => t
      | _ => if x.rel then (now + w.group 2 x.a.toNat 0) % 2 ^ 64 else w.group 2 x.a.toNat 0
    if t ≤ now then .done s else .hold (s.setWarp who { w.waiting s.cycle with hold := .waitt t x.h })

/-- WAITT_TARGET_REACHED: the held WAITT retires. -/
def execWaittTargetReached (who : Issuer) (s : State) : Host.Outcome State Fault Refusal :=
  match s.warp? who with
  | none => .next s
  | some w =>
    match w.hold, w.active with
    | .waitt t h, some p =>
      if s.now (s.dieOf who) < t || s.barred who w then .next s
      else
        let u := s.onClock (s.clockKey who)
        .next ((u.finish who w p (lane true h [] []) (p.mask &&& w.laneGuard h &&& w.live) (.done u)).onClock s.clockOf)
    | _, _ => .next s

/-- PCLS: the class of the block; a value above 3 counts as 3 (R375). -/
def execPcls (x : PclsOp) (s : State) :=
  warpForm s ⟨(Instr.pcls x).legal, .compute, x.h, spanB 1 x.b, [], none, false⟩ fun s who w _ _ =>
    match who with
    | .seq _ => .done s
    | .warp h _ => match s.block? h with
      | some b => .done (s.setBlock { b with cls := min 3 (w.srcB32 x.b 0) })
      | none => .done s

/-- The level last posted to a cluster (R368). -/
def State.posted (s : State) (d : DieId) (cluster : Nat) : Nat := sget 0 (s.die d).levels cluster

/-- SWPT (R376). The table is read as data with PRD; a read that faults, or an address in a local aperture,
parks the warp as an instruction fetch does. -/
def execSwpt (x : SwptOp) (s : State) :=
  warpForm s ⟨(Instr.swpt x).legal, .compute, x.h, [], [], none, false⟩ fun s who w p act =>
    match who with
    | .seq _ => .done s
    | .warp h _ =>
      match s.block? h with
      | none => .done s
      | some b =>
        if kdSwcount b.kd ≤ x.sw.toNat then .trap 0x03 act x.sw.toNat
        else
          let va := kdSwt b.kd (kdVmap b.kd (s.posted b.die b.cluster)) + 4 * x.sw.toNat
          let g := s.agentOf who w
          let gated := s.gate g va false
          if isLocal va then s.formFault who w 1 g (.park (va / 65536) 1 0)
          else if gated.2 then .hold gated.1
          else
            match s.loadNat g va 4 with
            | (s, .ok off) =>
              let tgt := (kdCode b.kd + off + 16) % 2 ^ 64
              if badTarget tgt then .trapIn s 0x02 act tgt else s.branch who w p act (fun _ => tgt) id
            | (s, e) => s.formFault who w 1 g e.cast

/-- What CKPT does to its block (R377): the live mask; with CKPTNS nonzero, the overdue timer restarts and a
pending request starts the cut. -/
def Block.ckpt (b : Block) (now : Nat) (mask : Word) (ck : BitVec 8) : Block :=
  let b : Block := { b with lmask := mask, ckno := some ck }
  if kdCkptns b.kd == 0 then b
  else
    let b : Block := { b with ckptSince := now }
    match b.stopReq with
    | some r => { b with stopReq := none, cut := some ⟨now, r, ck, false⟩ }
    | none => b

def execCkpt (x : CkptOp) (s : State) :=
  warpForm s ⟨(Instr.ckpt x).legal, .compute, x.h, span 1 x.a ++ span 1 x.b, [], none, false⟩ fun s who w _ _ =>
    match who with
    | .seq _ => .done s
    | .warp h _ =>
      match s.block? h with
      | none => .done s
      | some b =>
        let s := s.setBlock (b.ckpt (s.now b.die) (w.word x.b.toNat 0) x.ck)
        match s.job? b.job with
        | none => .done s
        | some j => match j.inst? b.inst with
          | some i => .done (s.setJob (j.setInst { i with estimate := (w.word x.a.toNat 0).toNat }))
          | none => .done s

end Sys2Proof.Machine
end

