-- ==== Sys2Proof/Machine/Power.lean ====
section
/-! DEFINITION. Power (R11, R12, R367 to R371, R459, R460): the events POWER_REQUEST, LEVEL_CHANGE,
CORE_POWER_GATE, CORE_WAKE, POWER_LIMIT_TRANSITION and THERMAL_TRIP. -/

namespace Sys2Proof.Machine

/-! ## Levels (R367) -/

/-- The highest clock ratio of a level. -/
def levelRatio (l : Nat) : Nat := [6, 8, 9, 10, 12, 13, 14, 16].getD l 16

/-- The rail of a level, in mV. -/
def levelRail (l : Nat) : Nat := [600, 620, 640, 660, 700, 740, 780, 850].getD l 850

/-- The level that a class requests (R368). -/
def classLevel (c : Nat) : Nat := [2, 4, 6, 7].getD c 7

/-- The performance-class ceiling of a tenant (R336). -/
def State.pceil (s : State) (d : DieId) (t : Nat) : Nat := bits (s.csr d (0x100 + 16 * t)) 7 6

/-- What a cluster requests: from the highest capped class over its blocks; level 0 with no block (R368). -/
def State.requestOf (s : State) (d : DieId) (cluster : Nat) : Nat :=
  let bs := s.blocks.filter fun b => b.die == d && b.cluster == cluster
  if bs.isEmpty then 0 else classLevel ((bs.map fun b => min b.cls (s.pceil d b.tenant)).foldl max 0)

/-! ## Grants (R11, R368) -/

/-- The module power limit: at most 230 W with one die in operation. -/
def State.powerLimit (s : State) (d : DieId) : Nat :=
  let l := (s.die d).tcsrAt 0x100
  if s.dieA.serving && s.dieB.serving then l else min 230 l

/-- The cluster with the highest grant; a tie goes to the highest number. -/
def highest (l : List Nat) : Nat :=
  (l.zipIdx.foldl (fun (b : Nat × Nat) p => if b.1 ≤ p.1 then p else b) (0, 0)).2

/-- Lower grants one level at a time until the estimate fits. -/
def lowerUntil (fits : List Nat → Bool) : Nat → List Nat → List Nat
  | 0, l => l
  | fuel + 1, l =>
    if fits l || l.all (· == 0) then l
    else
      let k := highest l
      lowerUntil fits fuel (listSet l k (l.getD k 0 - 1))

/-- The posted levels of a die's clusters. -/
def Die.levelList (x : Die) : List Nat := (List.range 12).map (sget 0 x.levels)

/-- The grants of a die's power sequencer for its clusters' requests. -/
def State.grants (s : State) (d : DieId) (req : List Nat) : List Nat :=
  let fits := fun (l : List Nat) =>
    decide (Config.estimatedPower (if d then s.dieA.levelList ++ l else l ++ s.dieB.levelList) ≤ s.powerLimit d)
  lowerUntil fits 84 req

/-- POWER_REQUEST: at a 20 µs boundary each cluster posts its request, and the grants are posted. While grants are
frozen no new request is granted (R459). -/
def execPowerRequest (die : DieId) (s : State) : Host.Outcome State Fault Refusal :=
  let x := s.die die
  let k := x.dtime / 20000
  if !x.serving || k ≤ x.powerAt then .next s
  else
    let req := (List.range 12).map (s.requestOf die)
    let put := fun (l : List Nat) => putAll 0 [] (l.zipIdx.map fun p => (p.2, p.1))
    let x : Die := { x with powerAt := k, requests := put req }
    .next (s.setDie die (if x.frozen then x else { x with levels := put (s.grants die req) }))

/-- LEVEL_CHANGE: a cluster goes on to its posted level (R369). A rail below the level's rises first; else a ratio that is
not the level's takes its value; else the rail falls. Each is a step of its own, and nothing else changes. -/
def execLevelChange (die : DieId) (cluster : Nat) (s : State) : Host.Outcome State Fault Refusal :=
  let x := s.die die
  let l := s.posted die cluster
  let rail := s.setDie die { x with rails := sset (levelRail 0) x.rails cluster (levelRail l) }
  .next (if 12 ≤ cluster then s
    else if sget (levelRail 0) x.rails cluster < levelRail l then rail
    else if sget (levelRatio 0) x.ratios cluster != levelRatio l then
      s.setDie die { x with ratios := sset (levelRatio 0) x.ratios cluster (levelRatio l) }
    else rail)

/-! ## Core power (R370, R460) -/

/-- CORE_POWER_GATE: a core without a warp has stood through the hold of 20 µs. -/
def execCorePowerGate (die : DieId) (core : Nat) (s : State) : Host.Outcome State Fault Refusal :=
  let x := s.die die
  .next (match x.corePower core with
    | .holding t => if x.dtime < t + 20000 || s.warps.any (fun p => s.placeOf p == some (die, core)) then s
      else s.setDie die { x with power := aput core .gated x.power }
    | _ => s)

/-- CORE_WAKE: the in-rush arbiter admits the core, at most four in any 400 ns, and it is awake. It holds no warp
yet, so a hold begins. -/
def execCoreWake (die : DieId) (core : Nat) (s : State) : Host.Outcome State Fault Refusal :=
  let x := s.die die
  let recent := x.wakes.filter fun t => decide (x.dtime < t + 400)
  .next (match x.corePower core with
    | .waking _ => if 4 ≤ recent.length then s
      else s.setDie die { x with power := aput core (.holding x.dtime) x.power, wakes := recent ++ [x.dtime] }
    | _ => s)

/-! ## POWER_LIMIT_TRANSITION (R371) -/

/-- When the limit falls below 160 W the power sequencer asks for the single-die transition, with die A surviving unless
its Trivet reports it unfit (its Percolator is halted); when it rises to 200 W or more, for two dies. Frozen grants ask for
none, and neither does a limit on which the sequencer has acted before; while a transition is busy it waits. -/
def execPowerLimitTransition (die : DieId) (s : State) : Host.Outcome State Fault Refusal :=
  let x := s.die die
  let l := x.tcsrAt 0x100
  let t := s.setDie die { x with limitSeen := l }
  .next (if x.frozen || !x.serving || s.dieA.busy || s.dieB.busy then s
    else if l < 160 && 160 ≤ x.limitSeen && s.dieA.serving && s.dieB.serving then t.goSingle s.dieA.halted
    else if 200 ≤ l && x.limitSeen < 200 && !(s.dieA.serving && s.dieB.serving) then t.goBoth
    else t)

/-! ## THERMAL_TRIP (R459) -/

/-- THERMAL_TRIP: the hardware limit acts on the die's clocks and rails. The manual does not say how far, so each
cluster's ratio and rail become free values, the rails between the fused floor and ceiling; grants, jobs and memory stay
(entry 13). -/
def execThermalTrip (die : DieId) (s : State) : Host.Outcome State Fault Refusal :=
  let x := s.die die
  let at_ := fun (k : Nat) => Config.free (s.freeCtr + k)
  .next (({ s with freeCtr := s.freeCtr + 24 } : State).setDie die { x with
    ratios := putAll (levelRatio 0) [] ((List.range 12).map fun k => (k, at_ k))
    rails := putAll (levelRail 0) [] ((List.range 12).map fun k =>
      (k, max (Config.voltageFloor die) (min (Config.voltageCeiling die) (at_ (12 + k))))) })

end Sys2Proof.Machine
end

