-- ==== Sys2Proof/Machine/Outside.lean ====
section
/-! DEFINITION. Boot, the host and the sensors (R269, R379 to R388, R438): the events POWER_ON,
CONFIGURATION_REQUEST, PTP_MESSAGE, QBV_GATE_EVENT, INGEST_FRAME, HOST_WRITE, HOST_READ and the seven SPDM
requests. -/

namespace Sys2Proof.Machine

/-! ## Boot (R378, R380, R381) -/

/-- An image passes on a die: its signature verifies under the fused key, and its version is at least the fused rollback
count (R381). -/
def imagePasses (d : DieId) (img : Nat) : Bool := Config.imageVerifies img && newEnough d (Config.imageVersion img)

/-- The slot whose image runs: the passing one of higher version, slot 0 in a tie; `none` when neither passes (R381). -/
def bootSlot (d : DieId) (a b : Nat) : Option Nat :=
  if imagePasses d a then
    (if imagePasses d b && decide (Config.imageVersion a < Config.imageVersion b) then some 1 else some 0)
  else if imagePasses d b then some 1 else none

/-- The image k (0 Trivet, 1 power sequencer, 2 Percolator) of slot n in the bundle of a die. -/
def imageAt (bundle : List Nat) (k n : Nat) : Nat := bundle.getD (2 * k + n) 0

/-- The slots that run, for the three images in order; `none` for one of which neither slot passes. -/
def bootSlots (d : DieId) (bundle : List Nat) : List (Option Nat) :=
  [0, 1, 2].map fun k => bootSlot d (imageAt bundle k 0) (imageAt bundle k 1)

/-- A die at the end of boot. Its ROM verifies the images of its bundle and measures each (step 2 of R380): the slot that
runs, or slot 0 of an image of which neither passes (the model's choice, entry 104); with such an image the die keeps only
its Trivet and the system function. `tests` tells whether step 3 succeeds. A die that passes serves, its cores hold no warp,
and its firmware has allocated the context arena (R409). -/
def bootDie (d : DieId) (tests : Bool) (bundle : List Nat) : Die :=
  let l := bootSlots d bundle
  let pass := l.all (·.isSome)
  let on := fun (k : Nat) => (l.getD k none).getD 0
  let x : Die := { Die.reset with
    slots := bundle.zipIdx.map fun p => (p.2, p.1)
    measured := [0, 1, 2].map fun k => Config.sha256 (imageAt bundle k (on k)) }
  if !pass then { x with lost := true }
  else
    { x with
      up := tests
      serving := tests
      lost := !tests
      slotT := on 0 == 1
      slotP := on 1 == 1
      slotA := on 2 == 1
      version := Config.imageVersion (imageAt bundle 2 (on 2))
      arena := Config.arenaBase d
      power := (List.range 48).map fun c => (c, .holding 0) }

/-- The sequencers of a die start: its Trivet's, and the front-end ones when it passed. -/
def State.bootSeqs (s : State) (d : DieId) (pass : Bool) : State :=
  let s := s.startSeq ⟨d, true, 0⟩ false
  if pass then s.startSeqs d false else s

/-- POWER_ON: supply is present and the boot sequence runs, the four steps of R380 in order on each die. `passA` and
`passB` tell which dies come through step 3; `images` is the boot flash, six images of die A and then six of die B. DIEMODE
names the one die that passed. A module that is up already stays as it is. -/
def execPowerOn (passA passB : Bool) (images : List Nat) (s : State) : Host.Outcome State Fault Refusal :=
  if s.dieA.up || s.dieB.up then .next s
  else
    let a := bootDie false passA (images.take 6)
    let b := bootDie true passB (images.drop 6)
    let mode : Word := if a.up && b.up then 0 else if a.up then 1 else if b.up then 2 else 0
    let s : State := { s with dieA := a, dieB := b }
    .next (((s.setMode mode).bootSeqs false a.up).bootSeqs true b.up)

/-- CONFIGURATION_REQUEST: answered (true), or with Configuration Request Retry Status (false) until boot ends, whether a die
has passed or none. -/
def execConfigurationRequest (die : DieId) (s : State) : Host.Outcome State Fault Refusal :=
  let x := s.die die
  .next (s.setDie die { x with config := x.config ++ [s.dieA.up || s.dieA.lost || s.dieB.up || s.dieB.lost] })

/-! ## Time (R379) and gates (R386) -/

/-- Before the first job is admitted the servo may step device time forward; afterwards it only slews the rate,
by at most 500 ppm, which device time itself does not show. -/
def execPtpMessage (_die : DieId) (offset : Int) (s : State) : Host.Outcome State Fault Refusal :=
  .next (if s.dieA.admitted || s.dieB.admitted || offset ≤ 0 then s
    else { s with
      dieA := { s.dieA with dtime := s.dieA.dtime + offset.toNat }
      dieB := { s.dieB with dtime := s.dieB.dtime + offset.toNat } })

/-- The gates of a port's 8 traffic classes that are open, bit c for class c. -/
def Die.openGates (x : Die) (p : Nat) : Nat := sget 0 x.gateList (256 * p + sget 0 x.gates p) % 256

/-- QBV_GATE_EVENT: the next of a port's 256 gate control list entries takes effect once the interval of the present one
has passed on DTIME. -/
def execQbvGateEvent (die : DieId) (port : Bool) (s : State) : Host.Outcome State Fault Refusal :=
  let x := s.die die
  let p := if port then 1 else 0
  let i := sget 0 x.gates p
  .next (if x.dtime < sget 0 x.gateSince p + sget 0 x.gateList (256 * p + i) / 256 then s
    else s.setDie die { x with gates := sset 0 x.gates p ((i + 1) % 256), gateSince := sset 0 x.gateSince p x.dtime })

/-! ## Ingest (R387, R388) -/

/-- Fields of an ingest descriptor. -/
def ingestEv (x : BitVec 256) : BitVec 16 := x.extractLsb' 184 16
def ingestTen (x : BitVec 256) : Nat := bits x.toNat 183 180
def ingestBufsz (x : BitVec 256) : Nat := bits x.toNat 175 128
def ingestBuf (x : BitVec 256) : Nat := bits x.toNat 127 64
def ingestRing (x : BitVec 256) : Nat := bits x.toNat 63 0

/-- An enabled descriptor that obeys its table. -/
def ingestOk (x : BitVec 256) : Bool :=
  x.getLsbD 176 && bits x.toNat 255 200 == 0 && bits x.toNat 179 177 == 0 && ingestTen x != 0 && ingestBufsz x % 128 == 0 &&
    ingestBufsz x != 0 && ingestBuf x % 128 == 0 && ingestRing x % 64 == 0

/-- The ingest engine of a die acting for a tenant. -/
def ingestAgent (d : DieId) (t : Nat) : Agent := ⟨d, unitIngest, t, none, none, 0, none⟩

/-- What a frame met. -/
inductive Framed where
  /-- It is written whole. -/
  | whole (s : State)
  /-- The ring is full or broken. -/
  | noRoom
  /-- It met a page that refuses it: the page and the reason of its record. -/
  | refused (va reason : Nat)
  /-- It waits at a memory controller (R364). -/
  | waits (s : State)

/-- What refused an ingest access: the address and the reason (R398). -/
def Got.why {α : Type} (va : Nat) : Got α → Nat × Nat
  | .park p r _ => (p * 65536, r)
  | .offline v _ => (v / 65536 * 65536, 3)
  | _ => (va / 65536 * 65536, 3)

/-- The granule of a frame: its length in bits [31:0], its truncation bit in bit 32 and the DTIME of its first byte
in bits [127:64]; the manual gives no layout (entry 14). -/
def frameGranule (len : Nat) (cut : Bool) (now : Nat) : List Byte :=
  toBytes 64 (len % 2 ^ 32 + (if cut then 2 ^ 32 else 0) + now % 2 ^ 64 * 2 ^ 64)

/-- Write a frame: claim a position, write its buffer and its granule, commit, as one step. -/
def State.writeFrame (s : State) (d : DieId) (x : BitVec 256) (data : List Byte) : Framed :=
  let g := ingestAgent d (ingestTen x)
  let va := ingestRing x
  let gated := s.gate g va true
  if gated.2 then .waits gated.1 else
  match s.ringAt g va with
  | (s, .ok r) =>
    if !r.wellShaped || !r.orderOk || r.cap ≤ r.claim - r.retire then .noRoom
    else
      let p := r.claim
      let buf := ingestBuf x + p % r.cap * ingestBufsz x
      let first := s.gateAll g buf (min data.length (ingestBufsz x)) true
      let then_ := first.1.gate g (r.slot p) true
      if first.2 || then_.2 then .waits then_.1 else
      match s.save g buf (data.take (ingestBufsz x)) with
      | (s, .ok ()) =>
        match s.save g (r.slot p) (frameGranule data.length (decide (ingestBufsz x < data.length)) (s.now d)) with
        | (s, .ok ()) =>
          let q := commitMarks { r with claim := p + 1 } (s.marks (s.ringKey g va)) [p]
          match s.putRing g va q.1 r.system with
          | (s, .ok ()) =>
            let s := s.setMarks q.2 q.1.commit
            .whole ((s.signal (ingestEv x) 1).getD s)
          | (_, e) => let w := e.why va; .refused w.1 w.2
        | (_, e) => let w := e.why (r.slot p); .refused w.1 w.2
      | (_, e) => let w := e.why buf; .refused w.1 w.2
  | (_, e) => let w := e.why va; .refused w.1 w.2

/-- Replace a stream's record. -/
def State.setIngest (s : State) (d : DieId) (k : Nat) (i : Ingest) : State :=
  let x := s.die d
  s.setDie d { x with ingest := sset ⟨0, 0, false⟩ x.ingest k i }

/-- Does a die have the source: four CSI-2 receivers of 4 virtual channels, two Ethernet ports of 8 traffic classes
(R1, R385, R386)? -/
def sourcePresent : FrameSource → Bool
  | .csi r c _ => decide (r < 4) && decide (c < 4)
  | .ethernet _ c => decide (c < 8)

/-- The receiver that discards the frame: its data type is none that R385 accepts. -/
def sourceDiscards : FrameSource → Option Nat
  | .csi r _ (.other _) => some r
  | _ => none

/-- A frame is written to a buffer, or dropped and counted; the flag tells that it waits at a controller. -/
def State.takeFrame (s : State) (die : DieId) (stream : Nat) (data : List Byte) : State × Bool :=
  let i := sget ⟨0, 0, false⟩ (s.die die).ingest stream
  match s.writeFrame die i.desc data with
  | .whole t =>
    let i := sget ⟨0, 0, false⟩ (t.die die).ingest stream
    (t.setIngest die stream { i with posted := false }, false)
  | .noRoom => (s.setIngest die stream { i with dropped := i.dropped + 1 }, false)
  | .waits t => (t, true)
  | .refused va reason =>
    let n := i.dropped + 1
    let t := ingestTen i.desc
    let u := s.setIngest die stream { i with dropped := n, posted := true }
    (if i.posted then u
    else u.post die t [word0 1 t die 0xFFFF (reason * 2 ^ 24 + 6 * 2 ^ 16 + min n 0xFFFF), va, s.now die] 0 0, false)

/-- Does a stream accept frames: its die serves, and its descriptor is enabled and obeys its table (R387)? -/
def State.accepts (s : State) (die : DieId) (stream : Nat) : Bool :=
  decide (stream < 24) && (s.die die).serving && ingestOk (sget ⟨0, 0, false⟩ (s.die die).ingest stream).desc

/-- A frame of a stream is taken, or waits behind the stream's earlier ones. -/
def State.ingest (s : State) (die : DieId) (stream : Nat) (data : List Byte) : State :=
  let later := fun (s : State) => ({ s with frames := s.frames ++ [(die, stream, data)] } : State)
  if !s.accepts die stream then s
  else if s.frames.any fun e => e.1 == die && e.2.1 == stream then later s
  else
    let r := s.takeFrame die stream data
    if r.2 then later r.1 else r.1

/-- The oldest frame of a stream that waited at a controller is tried again (R364). -/
def State.retryFrame (s : State) (die : DieId) (stream : Nat) : State :=
  match s.frames.find? fun e => e.1 == die && e.2.1 == stream with
  | none => s
  | some e =>
    let gone := fun (s : State) => ({ s with frames := s.frames.erase e } : State)
    if !s.accepts die stream then gone s
    else
      let r := s.takeFrame die stream e.2.2
      if r.2 then r.1 else gone r.1

/-- INGEST_FRAME: a frame reaches a die from a source, which descriptor `stream` binds (entry 85). A CSI-2 receiver discards
and counts a frame of a type that it does not accept. -/
def execIngestFrame (die : DieId) (stream : Nat) (data : Frame) (s : State) : Host.Outcome State Fault Refusal :=
  .next (if !sourcePresent data.src then s
    else match sourceDiscards data.src with
      | some r =>
        let x := s.die die
        if x.serving then s.setDie die { x with discarded := sset 0 x.discarded r (sget 0 x.discarded r + 1) } else s
      | none => s.ingest die stream data.bytes)

/-! ## The host (R269, R438) -/

/-- What the host writes on duplex pages while the other die is away is noted, so that the copies are made identical as it
returns (R362). -/
def State.keepApart (s : State) (h : DieId) (pa n : Nat) : State :=
  if !s.absent (!h) then s
  else { s with apart := s.apart ++ (linesOf pa n).filterMap fun l =>
    if s.mapsDuplex (l.1 * 128) then some (max pa (l.1 * 128), l.2) else none }

/-- HOST_WRITE: a posted write of device memory is performed; one to an absent die is dropped and counted. -/
def execHostWrite (pa : Nat) (data : List Byte) (s : State) : Host.Outcome State Fault Refusal :=
  .next (match homeOf pa with
    | none => s
    | some h =>
      if data.isEmpty || homeOf (pa + data.length - 1) != some h then s
      else if s.absent h then
        let x := s.die (!h)
        s.setDie (!h) { x with hostDropped := x.hostDropped + 1 }
      else
        let s := (s.keepApart h pa data.length).mscTouch h pa 0 data.length true true false
        ((s.store pa data).rewritten pa data.length).ringsSee pa data.length)

/-- What a host read returns: the bytes, with free values for those of a poisoned sector. -/
def State.hostBytes (s : State) (pa n : Nat) : List Byte :=
  (rangeFrom pa n).zipIdx.map fun p =>
    if (alook (p.1 / 64) s.poison).isSome then BitVec.ofNat 8 (Config.free (s.freeCtr + p.2)) else s.byte p.1

/-- HOST_READ: it completes with the bytes, or with Unsupported Request status where no present die's memory
answers. -/
def execHostRead (pa len : Nat) (s : State) : Host.Outcome State Fault Refusal :=
  .next (match homeOf pa with
    | some h =>
      if s.absent h || homeOf (pa + len - 1) != some h then { s with hostIn := s.hostIn ++ [(pa, [], false)] }
      else { s with hostIn := s.hostIn ++ [(pa, s.hostBytes pa len, true)], freeCtr := s.freeCtr + len }
    | none => { s with hostIn := s.hostIn ++ [(pa, [], false)] })

/-! ## SPDM (R384) -/

/-- A request over the DOE mailbox of a die's physical function is answered once the die is up. Requests are
numbered 0 GET_VERSION to 6 GET_MEASUREMENTS; a body that the manual does not give is free. -/
def State.answer (s : State) (d : DieId) (code : Nat) (body : List Byte) : State :=
  let x := s.die d
  if !x.up then s else s.bumpFree.setDie d { x with spdm := x.spdm ++ [(code, body)] }

/-- GET_VERSION: the one version is SPDM 1.3, 0x1300 in the version entry; the rest is free (entry 86). -/
def execGetVersion (die : DieId) (s : State) : Host.Outcome State Fault Refusal :=
  .next (s.answer die 0 (toBytes 2 0x1300 ++ Config.spdmBody 0 s.freeCtr))

def execGetCapabilities (die : DieId) (s : State) : Host.Outcome State Fault Refusal := .next (s.answer die 1 (Config.spdmBody 1 s.freeCtr))

/-- NEGOTIATE_ALGORITHMS: the selected signature algorithm is ECDSA on P-256, bit 4, and the selected hash SHA-256, bit 0;
the rest is free (entry 86). -/
def execNegotiateAlgorithms (die : DieId) (s : State) : Host.Outcome State Fault Refusal :=
  .next (s.answer die 2 (toBytes 4 0x10 ++ toBytes 4 1 ++ Config.spdmBody 2 s.freeCtr))

def execGetDigests (die : DieId) (s : State) : Host.Outcome State Fault Refusal := .next (s.answer die 3 (Config.spdmBody 3 s.freeCtr))
def execGetCertificate (die : DieId) (s : State) : Host.Outcome State Fault Refusal := .next (s.answer die 4 (Config.spdmBody 4 s.freeCtr))
def execChallenge (die : DieId) (s : State) : Host.Outcome State Fault Refusal := .next (s.answer die 5 (Config.spdmBody 5 s.freeCtr))

/-- GET_MEASUREMENTS returns the SHA-256 measurements of R380, in the order Trivet, power sequencer, Percolator. -/
def execGetMeasurements (die : DieId) (s : State) : Host.Outcome State Fault Refusal :=
  .next (s.answer die 6 ((s.die die).measured.flatMap fun m => toBytes 32 m.toNat))

end Sys2Proof.Machine
end

