-- ==== Sys2Proof/Machine/Geometry.lean ====
section
/-! DEFINITION. The geometry of beams and cones (R304 to R314): exact extended real numbers, their rounding to
FP32, classification of boxes, splitting, the ray and triangle test, and mapping through an instance node. -/

namespace Sys2Proof.Machine

/-! ## Exact extended reals (R307) -/

/-- A real number as a fraction of positive denominator, an infinity, or an expression without a value. -/
inductive Ex where
  | fin (n : Int) (d : Nat)
  | inf (neg : Bool)
  | none
  deriving DecidableEq, Repr

def Ex.zero : Ex := .fin 0 1

/-- The exact value of an FP32 word. -/
def exOf (w : Word) : Ex :=
  match f32v w with
  | .nan => .none
  | .inf s => .inf s
  | .fin s m e =>
    let n : Int := if s then -(m : Int) else m
    if 0 ≤ e then .fin (n * 2 ^ e.toNat) 1 else .fin n (2 ^ (-e).toNat)

def Ex.neg : Ex → Ex
  | .fin n d => .fin (-n) d
  | .inf s => .inf (!s)
  | .none => .none

/-- A sum with opposite infinities has no value. -/
def Ex.add : Ex → Ex → Ex
  | .none, _ => .none
  | _, .none => .none
  | .inf s, .inf t => if s == t then .inf s else .none
  | .inf s, .fin .. => .inf s
  | .fin .., .inf t => .inf t
  | .fin n d, .fin m e => .fin (n * e + m * d) (d * e)

def Ex.sub (a b : Ex) : Ex := a.add b.neg

def Ex.isNeg : Ex → Bool
  | .fin n _ => decide (n < 0)
  | .inf s => s
  | .none => false

/-- A product of zero and an infinity is zero. -/
def Ex.mul : Ex → Ex → Ex
  | .none, _ => .none
  | _, .none => .none
  | .inf s, .inf t => .inf (s != t)
  | .inf s, .fin n _ => if n == 0 then .zero else .inf (s != decide (n < 0))
  | .fin n _, .inf t => if n == 0 then .zero else .inf (t != decide (n < 0))
  | .fin n d, .fin m e => .fin (n * m) (d * e)

/-- A quotient; one by zero or of two infinities has no value. -/
def Ex.div : Ex → Ex → Ex
  | .fin n d, .fin m e => if m == 0 then .none else .fin (if m < 0 then -(n * e) else n * e) (d * m.natAbs)
  | .fin .., .inf _ => .zero
  | .inf s, .fin m _ => if m == 0 then .none else .inf (s != decide (m < 0))
  | _, _ => .none

/-- Compare two values. -/
def Ex.cmp : Ex → Ex → Option Ordering
  | .none, _ => Option.none
  | _, .none => Option.none
  | .inf s, .inf t => some (compare (if s then 0 else 1) (if t then 0 else 1))
  | .inf s, .fin .. => some (if s then .lt else .gt)
  | .fin .., .inf t => some (if t then .gt else .lt)
  | .fin n d, .fin m e => some (compare (n * e) (m * d))

/-- Is it known that a < b, or a ≤ b? -/
def Ex.lt (a b : Ex) : Bool := a.cmp b == some .lt
def Ex.le (a b : Ex) : Bool := a.cmp b == some .lt || a.cmp b == some .eq

/-- The smaller and the greater of two values. -/
def Ex.min (a b : Ex) : Ex := match a.cmp b with
  | some .gt => b
  | some _ => a
  | Option.none => .none
def Ex.max (a b : Ex) : Ex := match a.cmp b with
  | some .lt => b
  | some _ => a
  | Option.none => .none

/-- A positive fraction as a magnitude with a sticky part. -/
def fracMag (n d : Nat) : Mag :=
  let k := 72 + d.log2 - n.log2
  ⟨n * 2 ^ k / d, -(k : Int), n * 2 ^ k % d != 0⟩

/-- rnd_f32 of a value; an infinity stays, and an expression without a value gives NaN. -/
def Ex.rnd (rm : Rm) : Ex → Word
  | .none => BitVec.ofNat 32 FFmt.f32.nanCode
  | .inf s => BitVec.ofNat 32 (FFmt.f32.infCode s)
  | .fin n d => BitVec.ofNat 32 (FFmt.f32.round rm false (n < 0) (fracMag n.natAbs d))

/-- The rounded value as a value again. -/
def Ex.rnded (rm : Rm) (x : Ex) : Ex := exOf (x.rnd rm)

/-- Is `p + s * √r ≥ q`, for fractions with r = rn/rd not negative? -/
def rootGe (pn : Int) (pd : Nat) (neg : Bool) (rn rd : Nat) (qn : Int) (qd : Nat) : Bool :=
  -- s * √r ≥ q - p = tn/td
  let tn := qn * pd - pn * qd
  let td := pd * qd
  let sq := compare ((rn : Int) * td * td) (tn * tn * rd)
  if neg then decide (tn ≤ 0) && sq != .gt else decide (tn ≤ 0) || sq != .lt

/-- rnd_f32 of p + √r, or of p − √r when `neg`, exactly (R306, R308). -/
def Ex.rndRoot (rm : Rm) (p : Ex) (neg : Bool) (r : Ex) : Word :=
  match p, r with
  | .fin pn pd, .fin rn rd =>
    if rn ≤ 0 then p.rnd rm
    else
      let rn := rn.natAbs
      let t := isqrt (rn * rd)
      if t * t == rn * rd then (p.add (.fin (if neg then -(t : Int) else t) rd)).rnd rm
      else
        let sign := !rootGe pn pd neg rn rd 0 1
        -- the magnitude is (p' ± √r) with p' = p or −p
        let mn := if sign then -pn else pn
        let mneg := if sign then !neg else neg
        let k := 256 + 2 * (pn.natAbs.log2 + pd.log2 + rn.log2 + rd.log2)
        let root := isqrt (rn * 4 ^ k / rd)
        let m := (mn * 2 ^ k / pd + (if mneg then -(root : Int) - 3 else root)).toNat
        let up := fun (m : Nat) => if rootGe mn pd mneg rn rd (m + 1) (2 ^ k) then m + 1 else m
        BitVec.ofNat 32 (FFmt.f32.round rm false sign ⟨up (up (up (up (up m)))), -(k : Int), true⟩)
  | p, r => (if neg then p.sub r else p.add r).rnd rm

/-! ## Signed zeros (R464) -/

/-- A value with the sign that it has where it is zero. -/
structure Sx where
  v : Ex
  neg : Bool
  deriving DecidableEq, Repr

def Ex.isZero (x : Ex) : Bool := x.cmp .zero == some .eq

def Sx.ofWord (w : Word) : Sx := ⟨exOf w, w.getLsbD 31⟩
def Sx.sign (x : Sx) : Bool := if x.v.isZero then x.neg else x.v.isNeg
def Sx.opp (x : Sx) : Sx := ⟨x.v.neg, !x.neg⟩
def Sx.mul (a b : Sx) : Sx := ⟨a.v.mul b.v, a.sign != b.sign⟩
def Sx.div (a b : Sx) : Sx := ⟨a.v.div b.v, a.sign != b.sign⟩

/-- A sum; `dn` says that the expression is rounded downward. Zeros of one sign keep it; any other zero sum is +0, or −0
in downward. -/
def Sx.add (dn : Bool) (a b : Sx) : Sx :=
  ⟨a.v.add b.v, if a.v.isZero && b.v.isZero && a.neg == b.neg then a.neg else dn⟩

def Sx.sub (dn : Bool) (a b : Sx) : Sx := a.add dn b.opp

/-- The smaller and the greater of two values. Of zeros of both signs the smaller is −0 and the greater +0 (the model's
choice, entry 43: the manual orders no zeros). -/
def Sx.min (a b : Sx) : Sx := ⟨a.v.min b.v, match a.v.cmp b.v with
  | some .eq => a.neg || b.neg
  | some .gt => b.neg
  | _ => a.neg⟩
def Sx.max (a b : Sx) : Sx := ⟨a.v.max b.v, match a.v.cmp b.v with
  | some .eq => a.neg && b.neg
  | some .lt => b.neg
  | _ => a.neg⟩

def Sx.rnd (rm : Rm) (x : Sx) : Word := if x.v.isZero then (if x.neg then 0x80000000 else 0) else x.v.rnd rm

/-- A value as a word; without a value the word given. -/
def Sx.wordOr (d : Word) (x : Sx) : Word := if x.v == .none then d else x.rnd .nearestEven

/-- Scalar and vector products, the terms in their order. -/
def Sx.dot (dn : Bool) (a b : List Sx) : Sx :=
  match (a.zip b).map fun p => p.1.mul p.2 with
  | [] => ⟨.zero, false⟩
  | t :: ts => ts.foldl (Sx.add dn) t
def Sx.cross (dn : Bool) : List Sx → List Sx → List Sx
  | [a, b, c], [x, y, z] => [(b.mul z).sub dn (c.mul y), (c.mul x).sub dn (a.mul z), (a.mul y).sub dn (b.mul x)]
  | _, _ => []

/-! ## Vectors -/

/-- Three components. -/
structure V3 where
  x : Ex
  y : Ex
  z : Ex
  deriving DecidableEq, Repr

def V3.ofWords (l : List Word) : V3 := ⟨exOf (l.getD 0 0), exOf (l.getD 1 0), exOf (l.getD 2 0)⟩
def V3.list (a : V3) : List Ex := [a.x, a.y, a.z]
def V3.add (a b : V3) : V3 := ⟨a.x.add b.x, a.y.add b.y, a.z.add b.z⟩
def V3.sub (a b : V3) : V3 := ⟨a.x.sub b.x, a.y.sub b.y, a.z.sub b.z⟩
def V3.scale (k : Ex) (a : V3) : V3 := ⟨k.mul a.x, k.mul a.y, k.mul a.z⟩
def V3.dot (a b : V3) : Ex := ((a.x.mul b.x).add (a.y.mul b.y)).add (a.z.mul b.z)
def V3.cross (a b : V3) : V3 :=
  ⟨(a.y.mul b.z).sub (a.z.mul b.y), (a.z.mul b.x).sub (a.x.mul b.z), (a.x.mul b.y).sub (a.y.mul b.x)⟩
def V3.neg (a : V3) : V3 := ⟨a.x.neg, a.y.neg, a.z.neg⟩

/-- A box: its minimum and maximum (R295). -/
structure Box where
  lo : V3
  hi : V3
  deriving DecidableEq, Repr

def Box.ofWords (l : List Word) : Box := ⟨V3.ofWords l, V3.ofWords (l.drop 3)⟩

/-- A bound is NaN (R298). -/
def boxNan (l : List Word) : Bool := l.any fun w => f32v w == .nan

/-- Minimum above maximum on some axis (R298). -/
def Box.empty (b : Box) : Bool := (b.hi.list.zip b.lo.list).any fun p => p.1.lt p.2

/-- The eight corners. -/
def Box.corners (b : Box) : List V3 :=
  [b.lo.z, b.hi.z].flatMap fun z => [b.lo.y, b.hi.y].flatMap fun y => [b.lo.x, b.hi.x].map fun x => ⟨x, y, z⟩

/-- The class of a box (R307). -/
inductive BoxClass where
  | all | none | some
  deriving DecidableEq, Repr

/-! ## Beams (R305, R307, R310) -/

/-- A beam as exact values: its centre direction, half-extents and h. -/
structure BeamVal where
  apex : V3
  d : V3
  u : V3
  v : V3
  near : Ex
  far : Ex
  g : Nat
  h : Ex
  deriving DecidableEq, Repr

/-- The fraction n / d. -/
def frac (n : Int) (d : Nat) : Ex := .fin n d

/-- The beam of grid size 2^lg and origin (i0, j0) in a query grid of size `G` (R310). -/
def beamVal (apex d u v : List Word) (near far : Word) (G lg i0 j0 : Nat) : BeamVal :=
  let g : Nat := 2 ^ lg
  let U := V3.ofWords u
  let V := V3.ofWords v
  let a := frac (((2 * i0 + g : Nat) : Int) - (G : Nat)) G
  let b := frac (((2 * j0 + g : Nat) : Int) - (G : Nat)) G
  { apex := V3.ofWords apex
    d := ((V3.ofWords d).add (U.scale a)).add (V.scale b)
    u := U.scale (frac g G)
    v := V.scale (frac g G)
    near := exOf near
    far := exOf far
    g := g
    h := frac ((g : Int) - 1) g }

/-- meets(w, way) of R307: whether the ray meets the box, when that has a value, and tl. -/
def BeamVal.meets (b : BeamVal) (w : V3) (x : Box) (outward : Bool) : Option Bool × Ex :=
  let axis := fun (p : Ex × Ex × Ex × Ex) =>
    let wk := p.1
    let ak := p.2.1
    let lk := p.2.2.1
    let hk := p.2.2.2
    if wk == Ex.none then (Ex.none, Ex.none)
    else if wk.cmp .zero == some .eq then
      if lk.le ak && ak.le hk then (Ex.inf true, Ex.inf false) else (Ex.inf false, Ex.inf true)
    else
      let s := (lk.sub ak).div wk
      let t := (hk.sub ak).div wk
      (s.min t, s.max t)
  let r := (w.list.zip (b.apex.list.zip (x.lo.list.zip x.hi.list))).map axis
  let up := if outward then Rm.downward else .upward
  let dn := if outward then Rm.upward else .downward
  let tl := r.foldl (fun t p => t.max (p.1.rnded up)) b.near
  let th := r.foldl (fun t p => t.min (p.2.rnded dn)) b.far
  ((tl.cmp th).map (· != .gt), tl)

/-- The four corner directions. -/
def BeamVal.cornerDirs (b : BeamVal) : List V3 :=
  [b.h.neg, b.h].flatMap fun s => [b.h.neg, b.h].map fun t => (b.d.add (b.u.scale s)).add (b.v.scale t)

/-- The extent of a beam along an axis leaves the box out. -/
def BeamVal.apart (b : BeamVal) (x : Box) : Bool :=
  let ends := b.cornerDirs.flatMap fun w => [b.apex.add (w.scale b.near), b.apex.add (w.scale b.far)]
  let test := fun (f : V3 → Ex) =>
    let l := ends.map f
    let lo := (l.foldl Ex.min (l.headD .none)).rnded .downward
    let hi := (l.foldl Ex.max (l.headD .none)).rnded .upward
    (f x.hi).lt lo || hi.lt (f x.lo)
  test (·.x) || test (·.y) || test (·.z)

/-- An edge plane of a beam separates the box (R307). -/
def BeamVal.cut (b : BeamVal) (x : Box) : Bool :=
  let planes := [b.h.neg, b.h].flatMap fun s =>
    [(b.d.add (b.u.scale s)).cross b.v, (b.d.add (b.v.scale s)).cross b.u]
  planes.any fun n =>
    match (n.dot b.d).cmp .zero with
    | some .eq => false
    | some o =>
      let n := if o == .gt then n.neg else n
      x.corners.all fun c => Ex.zero.lt ((n.dot (c.sub b.apex)).rnded .downward)
    | none => false

/-- The class of a box without a NaN bound. -/
def BeamVal.classify (b : BeamVal) (x : Box) : BoxClass :=
  if x.empty then .none
  else if b.apart x then .none
  else if b.g > 1 && b.cut x then .none
  else if b.g == 1 && (b.meets b.d x true).1 == some false then .none
  else if b.cornerDirs.all fun w => (b.meets w x false).1 == some true then .all
  else .some

/-- The entry key of a box (R307): tl of meets(d, outward), with the sign of a zero. `apex` and `l` are the words of the
apex and of the box. -/
def BeamVal.key (b : BeamVal) (apex : List Word) (near : Word) (l : List Word) : Word :=
  let axis := fun (p : Ex × Word × Word × Word) =>
    let wk := p.1
    let q := fun (x : Word) => ((Sx.ofWord x).sub true (.ofWord p.2.1)).div ⟨wk, false⟩
    if wk == Ex.none then (⟨.none, false⟩ : Sx)
    else if wk.isZero then ⟨.inf ((exOf p.2.2.1).le (exOf p.2.1) && (exOf p.2.1).le (exOf p.2.2.2)), false⟩
    else .ofWord (((q p.2.2.1).min (q p.2.2.2)).rnd .downward)
  let r := (b.d.list.zip (apex.zip (l.zip (l.drop 3)))).map axis
  (r.foldl Sx.max (.ofWord near)).wordOr near

/-! ## Cones (R306, R308, R310, R314) -/

/-- rnd_f32 in nearest_even of a component given as s times the square root of a fraction. -/
def rootWord (neg : Bool) (r : Ex) : Word := Ex.rndRoot .nearestEven .zero neg r

/-- e1 and e2 of an axis w (R306): e1 is n·|w|/|n| with n = w × x̂_k, and e2 is (w × n)/|n|. -/
def coneFrame (w : List Word) : List Word × List Word :=
  let W := V3.ofWords w
  let abs := fun (x : Ex) => if x.isNeg then x.neg else x
  let k := if (abs W.x).le (abs W.y) && (abs W.x).le (abs W.z) then 0
    else if (abs W.y).le (abs W.z) then 1 else 2
  let one := frac 1 1
  let axis : V3 := ⟨if k == 0 then one else .zero, if k == 1 then one else .zero, if k == 2 then one else .zero⟩
  let ws := w.map Sx.ofWord
  let n := Sx.cross false ws (axis.list.map fun x => ⟨x, false⟩)
  let m := Sx.cross false ws n
  let nn := (Sx.dot false n n).v
  let root := fun (c : Sx) (r : Ex) => if c.v.isZero then c.rnd .nearestEven else rootWord c.v.isNeg r
  (n.map fun c => root c (((c.v.mul c.v).mul (W.dot W)).div nn), m.map fun c => root c ((c.v.mul c.v).div nn))

/-- T of a query (R306). -/
def coneT (tan : Word) : Word := ((Sx.ofWord tan).mul ⟨frac (2 ^ 16 + 1) (2 ^ 16), false⟩).rnd .upward

/-- T' of a sub-cone, T × √2/2 (R310). -/
def coneNarrow (t : Word) : Word :=
  let T := exOf t
  if T.isZero then (Sx.ofWord t).rnd .upward else Ex.rndRoot .upward .zero T.isNeg ((T.mul T).mul (frac 1 2))

/-- The rounded extent of a cone along an axis (R308). -/
def coneExtent (a w e1 e2 t near far : Ex) : Ex × Ex :=
  let q := ((e1.mul e1).add (e2.mul e2)).mul (t.mul t)
  let at_ := fun (d : Ex) (neg : Bool) (rm : Rm) =>
    exOf (Ex.rndRoot rm (a.add (d.mul w)) neg ((d.mul d).mul q))
  ((at_ near true .downward).min (at_ far true .downward), (at_ near false .upward).max (at_ far false .upward))

/-- DIST of a box (R314): near when a corner has no value. -/
def coneDist (apex w e1 e2 : List Word) (near : Word) (box : List Word) : Word :=
  let s := fun (l : List Word) => l.map Sx.ofWord
  let n := Sx.cross true (s e1) (s e2)
  let nw := Sx.dot true n (s w)
  let at_ := fun (k : Nat) => Sx.ofWord (box.getD k 0)
  let corners := [2, 5].flatMap fun z => [1, 4].flatMap fun y => [0, 3].map fun x => [at_ x, at_ y, at_ z]
  let l := corners.map fun c => (Sx.dot true n ((c.zip (s apex)).map fun p => p.1.sub true p.2)).div nw
  let m := l.foldl Sx.min (l.headD ⟨.none, false⟩)
  if m.v == .none then near else ((Sx.ofWord near).max (.ofWord (m.rnd .downward))).wordOr near

/-- The class of a box without a NaN bound for a cone (R308). -/
def coneClassify (apex w e1 e2 : List Word) (t near far : Word) (x : Box) : BoxClass :=
  if x.empty then .none
  else
    let A := V3.ofWords apex
    let W := V3.ofWords w
    let E := V3.ofWords e1
    let F := V3.ofWords e2
    let ext := fun (f : V3 → Ex) => coneExtent (f A) (f W) (f E) (f F) (exOf t) (exOf near) (exOf far)
    let apart := fun (f : V3 → Ex) => (f x.hi).lt (ext f).1 || (ext f).2.lt (f x.lo)
    let inside := fun (f : V3 → Ex) => (f x.lo).le (ext f).1 && (ext f).2.le (f x.hi)
    if apart (·.x) || apart (·.y) || apart (·.z) then .none
    else if inside (·.x) && inside (·.y) && inside (·.z) then .all
    else .some

/-! ## Shapes -/

/-- Class and entry key of a box for a shape; `G` is the query's grid size (R307, R308, R298). -/
def Shape.classify (G : Nat) (l : List Word) : Shape → BoxClass × Word
  | .beam apex d u v near far lg i0 j0 _ =>
    if boxNan l then (.some, near)
    else
      let b := beamVal apex d u v near far G lg i0 j0
      (b.classify (.ofWords l), b.key apex near l)
  | .cone apex w e1 e2 t near far _ _ =>
    if boxNan l then (.some, near)
    else (coneClassify apex w e1 e2 t near far (.ofWords l), coneDist apex w e1 e2 near l)

def Shape.near : Shape → Word
  | .beam _ _ _ _ near .. => near
  | .cone _ _ _ _ _ near .. => near

/-- May it split, the 1024 limit aside (R309)? -/
def Shape.splittable : Shape → Bool
  | .beam _ _ _ _ _ _ lg _ _ depth => lg != 0 && decide (depth < 6)
  | .cone _ _ _ _ _ _ _ _ depth => decide (depth < 6)

/-- Quadrant q of a split (R310). -/
def Shape.part (q : Nat) : Shape → Shape
  | .beam apex d u v near far lg i0 j0 depth =>
    let half := 2 ^ (lg - 1)
    .beam apex d u v near far (lg - 1) (i0 + q % 2 * half) (j0 + q / 2 * half) (depth + 1)
  | .cone apex w e1 e2 t near far path depth =>
    let sx : Sx := ⟨frac (if q % 2 == 0 then -1 else 1) 1, false⟩
    let sy : Sx := ⟨frac (if q < 2 then -1 else 1) 1, false⟩
    let half : Sx := (Sx.ofWord t).mul ⟨frac 1 2, false⟩
    let w' := (w.zip (e1.zip e2)).map fun p =>
      ((Sx.ofWord p.1).add false (half.mul ((sx.mul (.ofWord p.2.1)).add false (sy.mul (.ofWord p.2.2))))).rnd .nearestEven
    .cone apex w' e1 e2 (coneNarrow t) near far (path + q * 4 ^ depth) (depth + 1)

/-- Map through an instance node's transform, twelve words row-major (R312). A component without an exact value, such as zero
times an infinity, is NaN (the model's choice, entry 100). -/
def Shape.transform (m : List Word) : Shape → Shape :=
  let row := fun (i : Nat) (p : List Word) (point : Bool) =>
    let t := fun (j : Nat) => (f32v (m.getD (4 * i + j) 0)).mul (f32v (p.getD j 0))
    let s := ((t 0).add .nearestEven (t 1)).add .nearestEven (t 2)
    rndF32 .nearestEven (if point then s.add .nearestEven (f32v (m.getD (4 * i + 3) 0)) else s)
  let pt := fun (p : List Word) => (List.range 3).map fun i => row i p true
  let dir := fun (p : List Word) => (List.range 3).map fun i => row i p false
  fun
  | .beam apex d u v near far lg i0 j0 depth => .beam (pt apex) (dir d) (dir u) (dir v) near far lg i0 j0 depth
  | .cone apex w e1 e2 t near far path depth => .cone (pt apex) (dir w) (dir e1) (dir e2) t near far path depth

/-! ## Rays and triangles (R305, R313) -/

/-- The direction of pixel (i, j) of a query grid of size G. -/
def pixelDir (d u v : List Word) (G i j : Nat) : V3 :=
  ((V3.ofWords d).add ((V3.ofWords u).scale (frac (((2 * i + 1 : Nat) : Int) - (G : Nat)) G))).add ((V3.ofWords v).scale (frac (((2 * j + 1 : Nat) : Int) - (G : Nat)) G))

/-- The exact meeting of a ray with a closed triangle: t and the weights of p1 and p2. -/
def rayTriangle (apex w : V3) (near far : Ex) (p0 p1 p2 : V3) : Option (Ex × Ex × Ex) :=
  let e := p1.sub p0
  let f := p2.sub p0
  let pv := w.cross f
  let det := e.dot pv
  if det.cmp .zero == some .eq || det == .none then none
  else
    let tv := apex.sub p0
    let b1 := (tv.dot pv).div det
    let qv := tv.cross e
    let b2 := (w.dot qv).div det
    let t := (f.dot qv).div det
    if Ex.zero.le b1 && Ex.zero.le b2 && (b1.add b2).le (frac 1 1) && near.le t && t.le far then some (t, b1, b2)
    else none

/-- A vertex coordinate is NaN or infinite (R298). -/
def badVertex (l : List Word) : Bool := l.any fun w => match f32v w with
  | .fin .. => false
  | _ => true

end Sys2Proof.Machine
end

