-- ==== Sys2Proof/Machine/Traversal.lean ====
section
/-! DEFINITION. The traversal unit (R292 to R322): starting commands and continuations, node visits, committing
records, and DONE. -/

namespace Sys2Proof.Machine

/-! ## Fields (R299, R301, R302) -/

/-- The fields of a command's word 0. -/
structure TravWord where
  qid : Nat
  slotb : Nat
  culle : Bool
  lg : Nat
  wbar : Nat
  ctx : Nat
  sigv : Bool
  opc : Nat
  sig : Nat
  wait : Nat
  deriving DecidableEq, Repr

def TravWord.ofBits (x : BitVec 512) : TravWord :=
  let n := x.toNat
  { qid := bits n 11 0, slotb := bits n 26 12, culle := bitAt n 28, lg := bits n 31 29, wbar := bits n 39 32
    ctx := bits n 42 40, sigv := bitAt n 43, opc := bits n 47 44, sig := bits n 55 48, wait := bits n 63 56 }

/-- Field Qn. -/
def geoField (x : BitVec 512) (n : Nat) : Word := x.extractLsb' (64 + 32 * n) 32

def geoFields (x : BitVec 512) (n k : Nat) : List Word := (rangeFrom n k).map (geoField x)

/-- The fields of a traversal context. -/
def ctxMap (c : BitVec 512) : Nat := bits c.toNat 127 64
def ctxRoot (c : BitVec 512) : Word := c.extractLsb' 128 32
def ctxSpilln (c : BitVec 512) : Nat := bits c.toNat 191 160
def ctxSpill (c : BitVec 512) : Nat := bits c.toNat 255 192
def ctxRing (c : BitVec 512) : Nat := bits c.toNat 319 256

def Query.w (q : Query) : TravWord := .ofBits q.word

/-- The query's grid size G (R305). -/
def Query.grid (q : Query) : Nat := 2 ^ q.w.lg

/-! ## References (R294) -/

def refType (r : Word) : Nat := r.toNat / 2 ^ 30
def refOffs (r : Word) : Nat := r.toNat % 2 ^ 30

/-- Does a reference break the alignment of its type (R294)? -/
def refBroken (r : Word) : Bool :=
  (refType r == 1 && refOffs r % 8 != 0) || (refType r == 2 && refOffs r % 2 != 0)

/-! ## The check of a command (R303) -/

/-- The fields of a command with the low bit of each and whether it fails, in ascending position. -/
def travFails (b : Block) (x : BitVec 512) : List (Nat × Bool) :=
  let n := x.toNat
  let w := TravWord.ofBits x
  let bars := kdBarriers b.kd
  let beam := w.opc == 1 || w.opc == 3
  let query := w.opc == 1 || w.opc == 2 || w.opc == 3
  let g := if w.opc == 3 then 2 ^ w.lg else 1
  [(0, w.opc == 0 && w.qid != 0),
   (12, if beam then decide (32767 < w.slotb + g * g - 1) else w.slotb != 0),
   (27, bitAt n 27),
   (28, !beam && w.culle),
   (29, if w.opc == 3 then w.lg == 7 else w.lg != 0),
   (32, if w.wait == 2 || w.wait == 3 then decide (bars ≤ w.wbar) else w.wbar != 0),
   (40, query && (sget 0 b.ctxs w.ctx) == (0 : BitVec 512)),
   (43, w.opc == 0 && w.sigv),
   (44, decide (3 < w.opc)),
   (48, if w.sigv then decide (bars ≤ w.sig) else w.sig != 0),
   (56, decide (3 < w.wait))] ++
  (if w.opc == 0 then
    [(64, ctxMap x % 256 != 0 || decide (2 ^ 52 ≤ ctxMap x)),
     (128, refBroken (ctxRoot x)),
     (160, decide (2 ^ 24 < ctxSpilln x)),
     (192, ctxSpill x % 64 != 0 || (ctxSpilln x == 0 && ctxSpill x != 0)),
     (256, ctxRing x % 64 != 0 || ctxRing x == 0),
     (320, bits n 511 320 != 0)]
  else if w.opc == 1 then (rangeFrom 8 6).map fun k => (64 + 32 * k, geoField x k != 0)
  else if w.opc == 2 then (rangeFrom 9 5).map fun k => (64 + 32 * k, geoField x k != 0)
  else [])

def travError (b : Block) (x : BitVec 512) : Option Nat := ((travFails b x).find? (·.2)).map (·.1)

/-! ## The shape of a query (R304 to R306) -/

/-- Is a vector zero in all components? -/
def zeroVec (l : List Word) : Bool := l.all fun w => (f32v w).isZero

/-- The shape at the start of a query; `none` for an invalid one (R304). -/
def startShape (x : BitVec 512) : Option Shape :=
  let w := TravWord.ofBits x
  let n := if w.opc == 1 then 8 else if w.opc == 2 then 9 else 14
  let all := geoFields x 0 n
  let apex := geoFields x 0 3
  let dir := geoFields x 3 3
  let near := if w.opc == 1 then geoField x 6 else if w.opc == 2 then geoField x 7 else geoField x 12
  let far := if w.opc == 1 then geoField x 7 else if w.opc == 2 then geoField x 8 else geoField x 13
  let zero : Fv := .fin false 0 0
  if badVertex all || zeroVec dir || (f32v near).lt zero || (f32v far).lt (f32v near) ||
      (w.opc == 2 && (f32v (geoField x 6)).lt zero) then none
  else if w.opc == 1 then some (.beam apex dir [0, 0, 0] [0, 0, 0] near far 0 0 0 0)
  else if w.opc == 2 then
    let e := coneFrame dir
    some (.cone apex dir e.1 e.2 (coneT (geoField x 6)) near far 0 0)
  else some (.beam apex dir (geoFields x 6 3) (geoFields x 9 3) near far w.lg 0 0 0)

/-! ## Queries in State -/

def State.query? (s : State) (id : Nat) : Option Query := s.queries.find? (·.id == id)

/-- A query goes on: its unit has delivered something (R453). -/
def State.setQuery (s : State) (q : Query) : State :=
  ({ s with queries := s.queries.map fun r => if r.id == q.id then q else r } : State).worked q.die (100 + q.cluster)

def Query.path? (q : Query) (id : Nat) : Option TravPath := q.paths.find? (·.id == id)

def Query.setPath (q : Query) (p : TravPath) : Query :=
  { q with paths := q.paths.map fun r => if r.id == p.id then p else r }

/-- The queries of a unit; the query entries in use, and the beam contexts held, which a committed DONE record frees
(R292). -/
def State.unitQueries (s : State) (d : DieId) (cluster : Nat) : List Query :=
  s.queries.filter fun q => q.die == d && q.cluster == cluster

def State.entriesUsed (s : State) (d : DieId) (cluster : Nat) : Nat :=
  ((s.unitQueries d cluster).filter (!·.closed)).length

def State.contextsUsed (s : State) (d : DieId) (cluster : Nat) : Nat :=
  (((s.unitQueries d cluster).filter (!·.closed)).map (·.paths.length)).foldl (· + ·) 0

/-- The pending continuations of a unit, oldest first (R317). -/
def State.unitConts (s : State) (d : DieId) (cluster : Nat) : List Cont :=
  s.conts.filter fun c => (s.query? c.query).any fun q => q.die == d && q.cluster == cluster

/-- The agent of a unit for a query. -/
def State.travAgent (s : State) (q : Query) : Agent := s.agentFor q.block (unitTrav q.cluster) q.spos

/-- The logical core that pushed a query. -/
def State.queryCore (s : State) (q : Query) : Nat :=
  q.cluster * 4 + (((s.block? q.block).map (·.base)).getD 0) + q.spos

def State.pathParked (s : State) (q p : Nat) : Bool := s.parks.any fun k => k.who == .path q p

/-- A query ends with a failure: it goes with its continuations, and its job faults. -/
def State.dropQuery (s : State) (q : Query) : State :=
  { ((s.countGone [q]).unpark fun p => match p.who with
      | .path k _ => k != q.id
      | _ => true) with
    queries := s.queries.filter (·.id != q.id), conts := s.conts.filter (·.query != q.id) }

/-- An access of a query's path that is not performed: it waits and holds the path, or the query fails. -/
def State.travMiss (s : State) (q : Query) (path : Nat) (f : Got Unit) : State :=
  let g := s.travAgent q
  match f with
  | .park p r c => s.park (.path q.id path) g 3 p r c
  | f => (s.dropQuery q).accessFault q.block 3 (s.queryCore q) g f

/-! ## Starting (R293, R300, R302) -/

/-- A path that holds one item. -/
def newPath (id : Nat) (i : Option Item) : TravPath := ⟨id, i, [], [], [], [], []⟩

/-- A command error: the command and every later one of the block in the ring go, and the job faults. -/
def State.travCommandError (s : State) (b : Block) (c : TravCmd) (reason bit : Nat) : State :=
  let s := { s with travQ := s.travQ.filter fun d => !(d.die == c.die && d.cluster == c.cluster && d.block == c.block) }
  s.faultEngine b.job reason 3 (c.word.toNat % 2 ^ 64) b.no (b.cluster * 4 + b.base + c.spos) bit

/-- Does the WAIT condition hold? A reserved value or index holds nothing back. -/
def State.travWait (s : State) (b : Block) (c : TravCmd) : Bool :=
  let w := TravWord.ofBits c.word
  if w.wait == 1 then !((s.unitQueries c.die c.cluster).any fun q => q.block == c.block && !q.closed)
  else if (w.wait == 2 || w.wait == 3) && decide (w.wbar < kdBarriers b.kd) then
    let o := s.barrier b.handle c.spos w.wbar
    o.armed && o.phase != (w.wait == 3)
  else true

/-- A query starts: it captures its context; an invalid one has nothing to visit (R304). -/
def State.startQuery (s : State) (b : Block) (c : TravCmd) : State :=
  let w := TravWord.ofBits c.word
  let ctx := sget 0 b.ctxs w.ctx
  let item := (startShape c.word).map fun sh => (⟨ctxRoot ctx, sh, [], sh.near, 0⟩ : Item)
  let q : Query :=
    { id := s.nextId, die := c.die, cluster := c.cluster, block := c.block, spos := c.spos, who := c.who, op := c.op
      word := c.word, ctx := ctx, paths := [newPath 0 item], invalid := item.isNone, spillF := false, contF := false
      deepF := false, mapF := false, limF := false, nrec := 0, ncont := 0, nextPath := 1, closed := false }
  ({ s.bump with queries := s.queries ++ [q] } : State).worked c.die (100 + c.cluster)

/-- May the unit start the command at the head of its block's: WAIT holds, a query entry and a beam context are free, and
no continuation goes first (R293)? -/
def State.travReady (s : State) (c : TravCmd) : Bool :=
  match s.block? c.block with
  | none => false
  | some b => !b.halted && b.cut.isNone && s.travWait b c && decide (s.entriesUsed c.die c.cluster < 256) &&
      decide (s.contextsUsed c.die c.cluster < 256) && (s.unitConts c.die c.cluster).isEmpty

/-- The command that a unit takes next: the first in ring order that no earlier command of its block and no condition
holds (R293). -/
def State.nextTrav (s : State) (d : DieId) (cluster : Nat) : Option TravCmd :=
  let ring := s.travQ.filter fun c => c.die == d && c.cluster == cluster
  (ring.zipIdx.find? fun p => !(ring.take p.2).any (fun c => c.block == p.1.block) && s.travReady p.1).map (·.1)

/-- Start the next command of a unit's ring, when it is one of the block. -/
def State.travEvent (s : State) (d : DieId) (cluster block : Nat) (mine : Nat → Bool) : State :=
  match s.block? block, s.nextTrav d cluster with
  | some b, some c =>
    let w := TravWord.ofBits c.word
    if c.block != block || !mine w.opc then s
    else
      match travError b c.word with
      | some bit => s.travCommandError b c 1 bit
      | none =>
        let go := { s with travQ := s.travQ.erase c }
        if w.opc == 0 then
          (go.setBlock { b with ctxs := sset 0 b.ctxs w.ctx c.word }).finishPart c.who c.op 1
        else go.startQuery b c
  | _, _ => s

/-- CTXSET; a command of a reserved operation is found in error here. -/
def execCtxset (d : DieId) (cluster block : Nat) (s : State) : Host.Outcome State Fault Refusal :=
  .next (s.travEvent d cluster block fun o => o == 0 || decide (3 < o))

def execRay (d : DieId) (cluster block : Nat) (s : State) : Host.Outcome State Fault Refusal :=
  .next (s.travEvent d cluster block (· == 1))

def execCone (d : DieId) (cluster block : Nat) (s : State) : Host.Outcome State Fault Refusal :=
  .next (s.travEvent d cluster block (· == 2))

def execFrustum (d : DieId) (cluster block : Nat) (s : State) : Host.Outcome State Fault Refusal :=
  .next (s.travEvent d cluster block (· == 3))

/-- CONTINUATION_START: the oldest pending continuation starts a new path of its query when a beam context is
free (R293, R317). -/
def execContinuationStart (d : DieId) (cluster : Nat) (s : State) : Host.Outcome State Fault Refusal :=
  match s.unitConts d cluster with
  | [] => .next s
  | c :: _ =>
    if s.contextsUsed d cluster < 256 then
      match s.query? c.query with
      | none => .next s
      | some q =>
        .next (({ s with conts := s.conts.erase c } : State).setQuery
          { q with paths := q.paths ++ [newPath q.nextPath (some c.item)], nextPath := q.nextPath + 1 })
    else .next s

/-! ## Records (R318) -/

/-- A record: kind, PART, bits [255:64], and the instance chain. -/
def Query.record (q : Query) (kind part extra : Nat) (chain : List Word) : BitVec 512 :=
  let w := q.w
  BitVec.ofNat 512 (part + w.qid * 2 ^ 40 + chain.length * 2 ^ 52 + w.ctx * 2 ^ 55 + q.spos * 2 ^ 58 + kind * 2 ^ 60 +
    extra * 2 ^ 64 + (chain.zipIdx.map fun p => p.1.toNat * 2 ^ (256 + 32 * p.2)).foldl (· + ·) 0)

/-- PART of a LEAF, CONE or CONT record. -/
def Shape.recPart : Shape → Nat
  | .beam _ _ _ _ _ _ lg i0 j0 _ => i0 + j0 * 2 ^ 8 + lg * 2 ^ 16
  | .cone _ _ _ _ _ _ _ path depth => path + depth * 2 ^ 12

/-! ## Items of a path (R311, R315 to R317) -/

/-- How many beams or cones of a query are outstanding (R309). One whose leaf has been read counts no more, though its records
are still to be committed (the model's choice, entry 97). -/
def State.outstanding (s : State) (q : Query) : Nat :=
  (q.paths.map fun p => (if p.cur.isSome then 1 else 0) + p.stack.length + p.spill.length + p.waiting.length).foldl (· + ·) 0 +
    (s.conts.filter (·.query == q.id)).length

/-- Is the ray of a pixel culled (R315)? -/
def cullBit (b : Block) (spos slot : Nat) : Bool := sget false b.cull (slotKey spos slot)

/-- The pixels of a beam, in ascending (j, i). -/
def Shape.pixels : Shape → List (Nat × Nat)
  | .beam _ _ _ _ _ _ lg i0 j0 _ =>
    (List.range (2 ^ lg)).flatMap fun y => (List.range (2 ^ lg)).map fun x => (i0 + x, j0 + y)
  | .cone .. => []

/-- Is a pixel of a query live? -/
def State.pixelLive (s : State) (q : Query) (p : Nat × Nat) : Bool :=
  !q.w.culle || (match s.block? q.block with
    | some b => !cullBit b q.spos (q.w.slotb + p.2 * q.grid + p.1)
    | none => true)

/-- Is every pixel ray of a beam culled? -/
def State.allCulled (s : State) (q : Query) (sh : Shape) : Bool :=
  match sh with
  | .beam .. => sh.pixels.all fun p => !s.pixelLive q p
  | .cone .. => false

/-- The places of the spill area in use by other paths (R316): the area is shared by every query of the block
that uses the context. -/
def State.spillUsed (s : State) (q : Query) (path : Nat) : List Nat :=
  (s.queries.filter fun r => r.block == q.block && r.die == q.die && ctxSpill r.ctx == ctxSpill q.ctx).flatMap fun r =>
    (r.paths.filter fun p => !(r.id == q.id && p.id == path)).flatMap fun p => p.spill.map (·.1)

/-- The lowest free place. -/
def freeSpill (used : List Nat) (n : Nat) : Option Nat :=
  (List.range (min n (used.length + 1))).find? fun k => !used.contains k

/-- Keep an item pending: on the stack, with the oldest entry moved to the spill area when the stack is full;
with both full it waits for the continuation reserve. -/
def TravPath.keep (p : TravPath) (others : List Nat) (spilln : Nat) (i : Item) : TravPath :=
  if p.stack.length < 32 then { p with stack := i :: p.stack }
  else
    match freeSpill (others ++ p.spill.map (·.1)) spilln, p.stack.getLast? with
    | some k, some old => { p with stack := i :: p.stack.dropLast, spill := (k, true, old) :: p.spill }
    | _, _ => { p with waiting := p.waiting ++ [i] }

/-- Keep items pending, to be taken in the order of the list. -/
def State.keepAll (s : State) (q : Query) (p : TravPath) (l : List Item) : TravPath :=
  l.foldr (fun i p => p.keep (s.spillUsed q p.id) (ctxSpilln q.ctx) i) p

/-- Store a path, and note in its query that it uses its spill area. -/
def State.putPath (s : State) (q : Query) (p : TravPath) : State :=
  s.setQuery { (q.setPath p) with spillF := q.spillF || !p.spill.isEmpty }

/-- The address of a place in the spill area. -/
def Query.spillAt (q : Query) (k : Nat) : Nat := (ctxSpill q.ctx + 64 * k) % 2 ^ 64

/-- Write the spilled entries that are still to be written. What an entry holds is the unit's own (R316): free
bytes. -/
def State.spillWrites (s : State) (q : Query) (p : TravPath) : Nat → State × Option TravPath
  | 0 => (s, some p)
  | fuel + 1 =>
    match p.spill.find? (·.2.1) with
    | none => (s, some p)
    | some e =>
      if (s.gate (s.travAgent q) (q.spillAt e.1) true).2 then ((s.gate (s.travAgent q) (q.spillAt e.1) true).1, none) else
      match (s.bumpFree).save (s.travAgent q) (q.spillAt e.1) (toBytes 64 (Config.free s.freeCtr)) with
      | (s, .ok ()) =>
        let p : TravPath := { p with spill := p.spill.map fun x => if x.1 == e.1 then (x.1, false, x.2.2) else x }
        (s.putPath q p).spillWrites q p fuel
      | (s, f) => (s.travMiss q p.id f, none)

/-- Take the next pending item of a path: from the stack, or from the spill area through the stack. A beam
whose every pixel ray is culled is dropped. The item is `none` when nothing is left; the path is `none`
when it is held or gone. -/
def State.takeItem (s : State) (q : Query) (p : TravPath) : Nat → State × Option TravPath
  | 0 => (s, some p)
  | fuel + 1 =>
    match p.stack, p.spill with
    | i :: l, _ =>
      let p : TravPath := { p with stack := l }
      if q.w.culle && s.allCulled q i.shape then (s.putPath q p).takeItem q p fuel
      else (s, some { p with cur := some i })
    | [], e :: l =>
      if (s.gate (s.travAgent q) (q.spillAt e.1) false).2 then ((s.gate (s.travAgent q) (q.spillAt e.1) false).1, none) else
      match s.load (s.travAgent q) (q.spillAt e.1) 64 with
      | (s, .ok _) =>
        let p : TravPath := { p with stack := [e.2.2], spill := l }
        (s.putPath q p).takeItem q p fuel
      | (s, f) => (s.travMiss q p.id f.cast, none)
    | [], [] => (s, some p)

/-- A path has nothing left: it frees its beam context, unless it is the last of its query (R292). -/
def State.endPath (s : State) (q : Query) (p : TravPath) : State :=
  if q.paths.length > 1 then s.setQuery { q with paths := q.paths.filter (·.id != p.id) }
  else s.setQuery (q.setPath { p with cur := none })

/-! ## Visits (R294 to R298, R309 to R314) -/

/-- The 32-bit words of a node from a byte offset. -/
def nodeWords (bs : List Byte) (off n : Nat) : List Word :=
  (List.range n).map fun k => BitVec.ofNat 32 (ofBytes ((bs.drop (off + 4 * k)).take 4))

/-- A child that survives classification: key, index, reference, class. -/
structure Child where
  key : Word
  idx : Nat
  ref : Word
  cls : BoxClass
  deriving DecidableEq, Repr

/-- Insert by ascending key; the children come in ascending index (R311). -/
def insertChild (c : Child) : List Child → List Child
  | [] => [c]
  | d :: l => if (f32v c.key).lt (f32v d.key) then c :: d :: l else d :: insertChild c l

/-- The surviving children of an inner node in the order of R311, and whether a map error occurred. -/
def survivors (G : Nat) (sh : Shape) (bs : List Byte) : List Child × Bool :=
  (List.range 8).foldl (fun (r : List Child × Bool) j =>
    let ref := (nodeWords bs (192 + 4 * j) 1).headD 0
    if refType ref == 0 then r
    else if refBroken ref then (r.1, true)
    else
      let box := nodeWords bs (24 * j) 6
      let c := sh.classify G box
      let r := (r.1, r.2 || boxNan box)
      if c.1 == .none then r else (insertChild ⟨c.2, j, ref, c.1⟩ r.1, r.2)) ([], false)

/-- Split at an inner node: the path keeps quadrant 0; the others start paths while contexts are free, and
the rest become pending (R310, R311). -/
def State.splitItem (s : State) (q : Query) (p : TravPath) (i : Item) : State :=
  let free := 256 - s.contextsUsed q.die q.cluster
  let part := fun k => ({ i with shape := i.shape.part k } : Item)
  let rest := [part 1, part 2, part 3]
  let started := rest.take free
  let q : Query := { q with
    paths := q.paths ++ started.zipIdx.map fun x => newPath (q.nextPath + x.2) (some x.1)
    nextPath := q.nextPath + started.length }
  s.putPath q (s.keepAll q { p with cur := some (part 0) } (rest.drop free))

/-- An inner node has been read (R295, R309). -/
def State.innerNode (s : State) (q : Query) (p : TravPath) (i : Item) (bs : List Byte) : State :=
  let r := survivors q.grid i.shape bs
  let q : Query := { q with mapF := q.mapF || r.2 }
  match r.1 with
  | [] => s.setQuery (q.setPath { p with cur := none })
  | c :: cs =>
    let some_ := r.1.any (·.cls == .some)
    let room := decide (s.outstanding q + 3 ≤ 1024)
    if some_ && i.shape.splittable && room then s.splitItem q p i
    else
      let q : Query := { q with limF := q.limF || (some_ && i.shape.splittable && !room) }
      let item := fun (c : Child) => ({ i with ref := c.ref, key := c.key, nest := i.nest + 1 } : Item)
      s.putPath q (s.keepAll q { p with cur := some (item c) } (cs.map item))

/-- An instance node has been read: descend into CHILD with the shape mapped (R312, R296). A leaf as
CHILD has no parent box: its records take TENT or DIST at near, as a leaf that is the root does (the model's choice, entry
98). -/
def State.instanceNode (s : State) (q : Query) (p : TravPath) (i : Item) (bs : List Byte) : State :=
  let ref := (nodeWords bs 48 1).headD 0
  if refType ref == 0 then s.setQuery (q.setPath { p with cur := none })
  else if refBroken ref then s.setQuery { (q.setPath { p with cur := none }) with mapF := true }
  else
    let sh := i.shape.transform (nodeWords bs 0 12)
    s.setQuery (q.setPath { p with cur := some { i with ref := ref, shape := sh, chain := i.chain ++ [i.ref], key := sh.near } })

/-- The HIT records of a triangle leaf, rays in ascending (j, i) and triangles in ascending n, and whether a
vertex is NaN or infinite (R313). R313 writes no expression for T, B1 and B2, so that R464 gives a zero of theirs no sign:
the model writes +0 (its choice, entry 43). A vertex that is NaN or infinite counts where some ray of the beam is tested
against it (the model's choice, entry 99). -/
def State.hits (s : State) (q : Query) (i : Item) (bs : List Byte) (n : Nat) : List (BitVec 512) × Bool :=
  match i.shape with
  | .cone .. => ([], false)
  | .beam apex d u v near far .. =>
    (i.shape.pixels.filter (s.pixelLive q)).foldl (fun (r : List (BitVec 512) × Bool) px =>
      let w := pixelDir d u v q.grid px.1 px.2
      (List.range n).foldl (fun (r : List (BitVec 512) × Bool) k =>
        let t := nodeWords bs (32 + 48 * k) 10
        if badVertex (t.take 9) then (r.1, true)
        else
          match rayTriangle (V3.ofWords apex) w (exOf near) (exOf far) (V3.ofWords t) (V3.ofWords (t.drop 3)) (V3.ofWords (t.drop 6)) with
          | none => r
          | some m =>
            let e := fun (x : Ex) => (x.rnd .nearestEven).toNat
            (r.1 ++ [q.record 0 (px.2 * q.grid + px.1)
              (e m.1 + e m.2.1 * 2 ^ 32 + e m.2.2 * 2 ^ 64 + (t.getD 9 0).toNat * 2 ^ 96 + i.ref.toNat * 2 ^ 128) i.chain], r.2)) r) ([], false)

/-- A leaf has been read (R297, R313, R314). -/
def State.leafNode (s : State) (q : Query) (p : TravPath) (i : Item) (bs : List Byte) (kind n : Nat) : State :=
  let user := ((nodeWords bs 4 1).headD 0).toNat
  let sub := ofBytes ((bs.drop 2).take 2)
  let p : TravPath := { p with cur := none }
  let base := i.key.toNat + i.ref.toNat * 2 ^ 32 + user * 2 ^ 64
  match i.shape with
  | .cone .. => s.setQuery (q.setPath { p with out := [q.record 2 i.shape.recPart base i.chain] })
  | .beam .. =>
    if kind == 2 then
      if q.w.culle && s.allCulled q i.shape then s.setQuery (q.setPath p)
      else s.setQuery (q.setPath { p with out := [q.record 1 i.shape.recPart (base + sub * 2 ^ 96) i.chain] })
    else
      let r := s.hits q i bs n
      s.setQuery { (q.setPath { p with out := r.1 }) with mapF := q.mapF || r.2 }

/-! ### Reading a node (R295 to R297, R320)

A node is read in pieces of at most 16 bytes, each single-copy atomic; what the rules do not read is not read. -/

/-- The address of an item's node. -/
def Query.nodeAt (q : Query) (i : Item) : Nat := (ctxMap q.ctx + 32 * refOffs i.ref) % 2 ^ 64

/-- The aligned 16-byte pieces that hold box j, the 24 bytes from 24 j on; boxes 2m and 2m + 1 share one. -/
def boxPieces (j : Nat) : List (Nat × Nat) :=
  if j % 2 == 0 then [(24 * j, 16), (24 * j + 16, 16)] else [(24 * j - 8, 16), (24 * j + 8, 16)]

/-- Does a visit read the item's node? Not under an empty or broken reference, not below 4096 inner nodes, and not in a
fifth instance (R294, R298, R312). -/
def Item.reads (i : Item) : Bool :=
  refType i.ref != 0 && !refBroken i.ref && !(refType i.ref == 1 && decide (4096 ≤ i.nest)) &&
    !(refType i.ref == 2 && decide (4 ≤ i.chain.length))

/-- What has been read of a node, other bytes zero. -/
def TravPath.node (p : TravPath) (n : Nat) : List Byte :=
  p.seen.foldl (fun l e => l.take e.1 ++ e.2 ++ l.drop (e.1 + e.2.length)) (List.replicate n 0)

/-- The pieces (offset, length) of a node that an item needs, as far as what has been read tells: the references of an
inner node and then the boxes of its children; an instance node's transform and child; a leaf's KIND, N, SUB and USER and
then, for a beam, its triangles. -/
def Item.needs (i : Item) (p : TravPath) : List (Nat × Nat) :=
  if refType i.ref == 1 then
    [(192, 16), (208, 16)] ++
      if (alook 192 p.seen).isSome && (alook 208 p.seen).isSome then
        (List.range 8).flatMap fun j =>
          let ref := (nodeWords (p.node 256) (192 + 4 * j) 1).headD 0
          if refType ref == 0 || refBroken ref then [] else boxPieces j
      else []
  else if refType i.ref == 2 then [(0, 16), (16, 16), (32, 16), (48, 4)]
  else
    (0, 8) :: (match i.shape with
      | .cone .. => []
      | .beam .. =>
        let hd := p.node 8
        let n := ofBytes ((hd.drop 1).take 1)
        if (alook 0 p.seen).isSome && ofBytes (hd.take 1) == 1 && decide (1 ≤ n) && decide (n ≤ 8) then
          (List.range n).flatMap fun k => [(32 + 48 * k, 16), (48 + 48 * k, 16), (64 + 48 * k, 8)]
        else [])

/-- Read one piece of the node of a path's item; `none` when the path waits, is held or has failed. -/
def State.readPiece (s : State) (q : Query) (p : TravPath) (i : Item) (o n : Nat) : State × Option TravPath :=
  let g := s.travAgent q
  let va := (q.nodeAt i + o) % 2 ^ 64
  match s.gate g va false with
  | (s, true) => (s, none)
  | (s, false) =>
    match s.load g va n with
    | (s, .ok bs) =>
      let p : TravPath := { p with seen := p.seen ++ [(o, bs)] }
      (s.setQuery (q.setPath p), some p)
    | (s, f) => (s.travMiss q p.id f.cast, none)

/-- Read what an item still needs of its node, in ascending order. -/
def State.readNode (s : State) (q : Query) (p : TravPath) (i : Item) : Nat → State × Option TravPath
  | 0 => (s, some p)
  | fuel + 1 =>
    match (i.needs p).find? fun x => (alook x.1 p.seen).isNone with
    | none => (s, some p)
    | some x => match s.readPiece q p i x.1 x.2 with
      | (s, some p) => s.readNode q p i fuel
      | r => r

/-- Visit the node of a path's item: read it and act on it. -/
def State.visit (s : State) (q : Query) (p : TravPath) (i : Item) : State :=
  let ended := fun (q : Query) => s.setQuery (q.setPath { p with cur := none, seen := [] })
  if refType i.ref == 0 then ended q
  else if refBroken i.ref || (refType i.ref == 1 && decide (4096 ≤ i.nest)) then ended { q with mapF := true }
  else if refType i.ref == 2 && decide (4 ≤ i.chain.length) then ended { q with deepF := true }
  else
    match (s.setQuery (q.setPath { p with cur := some i })).readNode q { p with cur := some i } i 64 with
    | (s, none) => s
    | (s, some r) =>
      let p : TravPath := { p with seen := [] }
      if refType i.ref == 1 then s.innerNode q p i (r.node 256)
      else if refType i.ref == 2 then s.instanceNode q p i (r.node 64)
      else
        let hd := r.node 8
        let kind := ofBytes (hd.take 1)
        let n := ofBytes ((hd.drop 1).take 1)
        if kind == 2 || (kind == 1 && decide (1 ≤ n) && decide (n ≤ 8)) then s.leafNode q p i (r.node 416) kind n
        else s.setQuery { (q.setPath { p with cur := none }) with mapF := true }

/-- One piece of the node that a path visits is read ahead of the others (R320). -/
def State.nodePiece (s : State) (query path off : Nat) : State :=
  match s.query? query with
  | none => s
  | some q => match q.path? path with
    | none => s
    | some p => match p.cur with
      | none => s
      | some i =>
        if q.closed || s.pathParked query path || !p.out.isEmpty || !p.waiting.isEmpty || p.spill.any (·.2.1) || !i.reads then s
        else match (i.needs p).find? fun x => x.1 == off && (alook x.1 p.seen).isNone with
          | some x => (s.readPiece q p i x.1 x.2).1
          | none => s

/-- An item that found stack and spill area full goes to the continuation reserve, with a CONT record, when
the reserve has room (R317). -/
def State.placeCont (s : State) (q : Query) (p : TravPath) (i : Item) (rest : List Item) : State :=
  if (s.unitConts q.die q.cluster).length < 64 then
    let r := q.record 4 i.shape.recPart i.ref.toNat i.chain
    let s : State := { s with conts := s.conts ++ [⟨q.id, i⟩] }
    s.setQuery { (q.setPath { p with waiting := rest, out := p.out ++ [r] }) with contF := true, ncont := q.ncont + 1 }
  else s

/-- NODE_VISIT: a path does what it has next to do, once its records are committed: write a spilled entry,
place a continuation, or take its next item and visit the node. -/
def execNodeVisit (query path : Nat) (s : State) : Host.Outcome State Fault Refusal :=
  match s.query? query with
  | none => .next s
  | some q =>
    match q.path? path with
    | none => .next s
    | some p =>
      if q.closed || s.pathParked query path || !p.out.isEmpty then .next s
      else
        match s.spillWrites q p (p.spill.length + 1) with
        | (s, none) => .next s
        | (s, some p) =>
          match p.waiting with
          | i :: rest => .next (s.placeCont q p i rest)
          | [] =>
            match p.cur with
            | some i => .next (s.visit q p i)
            | none =>
              match s.takeItem q p (2 * (p.stack.length + p.spill.length) + 2) with
              | (s, none) => .next s
              | (s, some p) =>
                let q := (s.query? query).getD q
                match p.cur with
                | some i => .next (s.visit q p i)
                | none => .next (s.endPath (q.setPath p) p)

/-! ## Committing records (R319) -/

/-- Commit one granule at a query's result ring. A missing permission or a reserved address is a failure, and no fault to
repair (R319). An access that a controller holds waits (R364), and its path with it, as for a full ring. -/
def State.commitRecord (s : State) (q : Query) (r : BitVec 512) : State × Posted :=
  let g := s.travAgent q
  let va := ctxRing q.ctx
  let rw : Perm := ⟨true, true, false⟩
  if !isLocal va && s.refused g va rw then (s, .failed va)
  else
    match s.gate g va true with
    | (s, true) => (s, .full)
    | (s, false) =>
      let slot := match (s.ringAt g va).2 with
        | .ok d => some (d.slot d.claim)
        | _ => none
      let gated := match slot with
        | some a => s.gate g a true
        | none => (s, false)
      if gated.2 then (gated.1, .full)
      else
        match gated.1.appendGranule g va (toBytes 64 r.toNat) with
        | (t, .park p k c) =>
          match slot with
          | some a => if !isLocal a && s.refused g a ⟨false, true, false⟩ then (s, .failed a) else (t, .park p k c)
          | none => (t, .park p k c)
        | x => x

/-- What follows a commit that is not done. -/
def State.commitMiss (s : State) (q : Query) (path : Nat) (r : Posted) : State :=
  match r with
  | .broken code => match s.block? q.block with
    | some b => (s.dropQuery q).faultRing b.job code (ctxRing q.ctx) 0
    | none => s
  | .park p k c => s.travMiss q path (.park p k c)
  | .failed va => s.travMiss q path (.fail va)
  | _ => s

/-- RECORD_COMMIT: the oldest record of a path is claimed, written and committed; with a full ring the path
waits. -/
def execRecordCommit (query path : Nat) (s : State) : Host.Outcome State Fault Refusal :=
  match s.query? query with
  | none => .next s
  | some q =>
    match q.path? path with
    | none => .next s
    | some p =>
      match p.out with
      | [] => .next s
      | r :: rest =>
        if s.pathParked query path then .next s
        else
          match s.commitRecord q r with
          | (s, .done) => .next (s.setQuery { (q.setPath { p with out := rest }) with nrec := q.nrec + 1 })
          | (s, x) => .next (s.commitMiss q path x)

/-! ## DONE (R300, R304, R318, R319) -/

/-- Nothing of a query is left but DONE. -/
def State.queryOver (s : State) (q : Query) : Bool :=
  (q.paths.all fun p => p.cur.isNone && p.stack.isEmpty && p.spill.isEmpty && p.out.isEmpty && p.waiting.isEmpty) &&
    !s.conts.any (·.query == q.id)

/-- The DONE record. -/
def Query.doneRecord (q : Query) : BitVec 512 :=
  let f := fun (b : Bool) (k : Nat) => if b then 2 ^ k else 0
  q.record 3 (f q.invalid 0 + f q.spillF 2 + f q.contF 3 + f q.deepF 4 + f q.mapF 5 + f q.limF 6)
    (q.nrec % 2 ^ 32 + q.ncont % 2 ^ 16 * 2 ^ 32) []

/-- A query and its credit are complete: the PUSH learns of it. -/
def State.closeQuery (s : State) (q : Query) : State := (s.dropQuery q).finishPart q.who q.op 1

/-- Credit SIG with 64 bytes on the pushing core, or park the credit (R300, R219, R220). -/
def State.doneCredit (s : State) (q : Query) : State :=
  match s.block? q.block with
  | none => s
  | some b =>
    let w := q.w
    if !w.sigv || b.halted then s.closeQuery q
    else
      let l := barrierKey b.handle q.spos w.sig
      let core := b.cluster * 4 + b.base + q.spos
      let overflow := fun (s : State) =>
        ((s.dropQuery q).travCommandError b ⟨q.die, q.cluster, q.block, q.spos, q.who, q.op, q.word⟩ 4 0)
      if s.badIn l 16 then (s.dropQuery q).accessFault b.handle 3 core (s.travAgent q) (.bad l)
      else
        let o := s.barrier b.handle q.spos w.sig
        if o.armed then
          if 2 ^ 32 ≤ o.arrb + 64 then overflow s
          else (s.setBarrier b.handle q.spos w.sig ({ o with arrb := o.arrb + 64 } : Barrier).complete).closeQuery q
        else
          match s.parkEarly b q.spos w.sig 64 with
          | .done s => s.closeQuery q
          | .overflow => overflow s
          | .full => s

/-- DONE: the DONE record is committed after every other record of the query; then SIG is credited. -/
def execDone (query : Nat) (s : State) : Host.Outcome State Fault Refusal :=
  match s.query? query with
  | none => .next s
  | some q =>
    if q.closed then .next (s.doneCredit q)
    else if !s.queryOver q || s.pathParked query q.nextPath then .next s
    else
      match s.commitRecord q q.doneRecord with
      | (s, .done) =>
        let s := match s.block? q.block with
          | some b => s.setBlock (b.countQuery q)
          | none => s
        let q : Query := { q with closed := true }
        .next ((s.setQuery q).doneCredit q)
      | (s, x) => .next (s.commitMiss q q.nextPath x)

end Sys2Proof.Machine
end

