-- ==== Sys2Proof/Machine/Failures.lean ====
section
/-! DEFINITION. Memory errors, hung engines and spares (R428 to R432, R443, R448 to R450, R453, R454, R461, R462):
the events PATROL, UNCORRECTABLE_ERROR_FOUND, UNCORRECTABLE_ERROR_CONSUMED, ENGINE_HUNG, VAULT_ROW_SPARE and
CORE_SPARE. -/

namespace Sys2Proof.Machine

/-! ## Arrays (R428, R430, R431) -/

/-- An array of a die corrects `n` single-bit errors, in the patrol or as an access meets them: the count of the array
and die rises (R428). Arrays are 1 (LPDDR) to 5 (accumulator store). -/
def State.correct (s : State) (d : DieId) (array n : Nat) : State :=
  let x := s.die d
  if array == 0 || 5 < array then s
  else s.setDie d { x with corrected := sset 0 x.corrected array (sget 0 x.corrected array + n) }

/-- Row errors of the last hour, and those that are added now (R455, R461). -/
def Die.countRows (x : Die) (rows : List (Nat × Nat)) : Die :=
  { x with rowErrs := (x.rowErrs.filter fun e => decide (x.dtime < e.2.2 + 3600000000000)) ++ rows.map fun r => (r.1, r.2, x.dtime) }

/-- The array corrects errors, in a vault at the rows given: vault and row of each (R428, R461). -/
def State.correctAt (s : State) (d : DieId) (array : Nat) (rows : List (Nat × Nat)) : State :=
  let s := s.correct d array rows.length
  if array == 3 then s.setDie d ((s.die d).countRows rows) else s

/-- PATROL: the LPDDR-6 or the vaults of a die are scrubbed; what was correctable is corrected in place and counted
per array (1 LPDDR-6, 3 vault); `fixed` names the vault and row of each. No record is posted. -/
def execPatrol (die : DieId) (vaults : Bool) (fixed : List (Nat × Nat)) (s : State) : Host.Outcome State Fault Refusal :=
  let s := s.correctAt die (if vaults then 3 else 1) fixed
  let x := s.die die
  .next (s.setDie die (if vaults then { x with patrolVaults := x.dtime } else { x with patrolMem := x.dtime }))

/-- An access meets an uncorrectable error of LPDDR-6 or of a memory-side cache: the sector is poisoned, and the access parks
on it as it is performed, with its record of kind 1 (R428, R429). -/
def State.poisonAt (s : State) (pa : Nat) : State :=
  match homeOf pa with
  | none => s
  | some h => if s.absent h then s else { s with poison := poisonSector s.poison (pa / 64) }

/-- UNCORRECTABLE_ERROR_FOUND: no access consumes it; the sector is poisoned and a kind 4 record of event 2 goes to
tenant 0 (R430). -/
def execUncorrectableErrorFound (pa : Nat) (inCache : Bool) (s : State) : Host.Outcome State Fault Refusal :=
  .next (match homeOf pa with
    | none => s
    | some h =>
      if s.absent h then s
      else
        let s := s.poisonAt pa
        s.post h 0 [word0 4 0 h 0xFFFF ((if inCache then 2 else 1) * 2 ^ 24 + 2 * 2 ^ 16), pa / 64 * 64, s.now h] 0 0)

/-- The block of a job whose access, engine or operation meets an error of a local array: one on the core for the
scratchpad and the accumulator store, any for a vault. -/
def State.meets (s : State) (job array core : Nat) : Option Block :=
  s.blocks.find? fun b => b.job == job && !b.halted &&
    (array == 3 || (decide (b.cluster * 4 + b.base ≤ core) && decide (core < b.cluster * 4 + b.base + kdSpan b.kd)))

/-- The physical place of an array's byte (R431, R432). -/
def arrayPlace (d : DieId) (array core offset : Nat) : Nat :=
  if array == 3 then vaultKey d core offset else if array == 4 then scratchPhys d core offset else storePhys d core offset

/-- UNCORRECTABLE_ERROR_CONSUMED: a job reads an error of LPDDR-6 (array 1) or a memory-side cache (2), at the physical
address `offset`, or of a vault (3), a scratchpad (4) or an accumulator store (5). The 64 bits of the last three stay
uncorrectable until they are written (R431). -/
def execUncorrectableErrorConsumed (job array core offset : Nat) (s : State) : Host.Outcome State Fault Refusal :=
  .next (if array == 1 || array == 2 then s.poisonAt offset
    else if array < 3 || 5 < array || 48 ≤ core then s
    else match s.meets job array core with
      | none => s
      | some b =>
        let l := arrayPlace b.die array core offset / 8
        let s : State := if s.bad.contains l then s else { s with bad := s.bad ++ [l] }
        s.consume b.die job b.inst array core offset)

/-! ## Records of kind 9 (R443) -/

/-- A kind 9 record to tenant 0: agent, cluster, logical core or 0xFF, and the jobs affected. -/
def State.post9 (s : State) (d : DieId) (agent cluster core jobs : Nat) : State :=
  s.post d 0 [word0 9 0 d 0xFFFF (agent * 2 ^ 16 + cluster * 256 + core), jobs, s.now d] 0 0

/-! ## ENGINE_HUNG (R453, R454) -/

/-- What an engine is: its agent number, its cluster, its cores, and its number among the die's engines. -/
structure EngineInfo where
  agent : Nat
  cluster : Nat
  core : Nat
  cores : List Nat
  index : Nat

def engineInfo : EngineId → EngineInfo
  | .copy c => ⟨2, c / 4, c, [c], c⟩
  | .traversal k => ⟨3, k, 0xFF, rangeFrom (4 * k) 4, 100 + k⟩
  | .matrix c u => ⟨5, c / 4, c, [c], 200 + 4 * c + u⟩

/-- Does the block's span include a core? -/
def Block.spans (b : Block) (d : DieId) (core : Nat) : Bool :=
  b.die == d && decide (b.cluster * 4 + b.base ≤ core) && decide (core < b.cluster * 4 + b.base + kdSpan b.kd)

/-- Does a path of a query wait: parked, or for room in the result ring (R453)? -/
def State.pathWaits (s : State) (q : Query) (p : TravPath) : Bool :=
  s.pathParked q.id p.id || (match p.out with
    | r :: _ => match (s.commitRecord q r).2 with
      | .full => true
      | _ => false
    | [] => false)

/-- Has an engine started work, and does it wait for nothing that R453 names? The head of a matrix unit's stream has started
once its stream bytes are present. -/
def State.engineWorks (s : State) (d : DieId) : EngineId → Bool
  | .copy c => s.copies.any fun x => x.die == d && x.core == c && x.started && !s.copyHeld x
  | .traversal k => s.queries.any fun q => q.die == d && q.cluster == k && !q.paths.all (s.pathWaits q)
  | .matrix c u => s.blocks.any fun b => b.spans d c && b.headReady (unitKey (c - b.coreAt 0) u) &&
      !s.streamParked b.handle (unitKey (c - b.coreAt 0) u)

/-- Is an engine hung: it works, and has delivered nothing for 1 ms (R453)? -/
def State.engineHung (s : State) (d : DieId) (e : EngineId) : Bool :=
  s.engineWorks d e && decide ((alook (engineInfo e).index (s.die d).worked).getD 0 + 1000000 ≤ (s.die d).dtime)

/-- Does a block hold started work, or for a matrix unit tiles, slots or operations, on an engine? -/
def State.holdsWork (s : State) (d : DieId) (b : Block) : EngineId → Bool
  | .copy c => s.copies.any fun x => x.die == d && x.core == c && x.started && x.block == b.handle
  | .traversal k => s.queries.any fun q => q.die == d && q.cluster == k && q.block == b.handle
  | .matrix c u => b.spans d c && (kdTiles b.kd != 0 || decide (u < kdSlots b.kd) ||
      !(b.unitOps (unitKey (c - b.coreAt 0) u)).isEmpty)

/-- The engine is reset: its started work is gone, and with a matrix unit the tiles and slots in it (R454). -/
def State.resetEngine (s : State) (d : DieId) : EngineId → State
  | .copy c =>
    let out := fun (x : CopyCmd) => x.die == d && x.core == c && x.started
    let keep := fun (p : Park) => match p.who with
      | .copy k => !s.copies.any fun x => x.id == k && out x
      | _ => true
    { s.unpark keep with copies := s.copies.filter fun x => !out x }
  | .traversal k => (s.queries.filter fun q => q.die == d && q.cluster == k).foldl (fun s q => s.dropQuery q) s
  | .matrix c u =>
    let clear := fun (b : Block) =>
      let k := unitKey (c - b.coreAt 0) u
      if b.spans d c then { b with
        streams := b.streams.filter fun p => p.1 != k
        tiles := b.tiles.filter fun t => t.1 / 2048 / 128 != k
        slots := b.slots.filter fun t => t.1 / 32768 != c - b.coreAt 0 || t.1 % 4 != u
        coming := b.coming.filter fun a => unitKey a.spos a.unit != k }
      else b
    { (s.unpark fun p => match p.who with
        | .stream h k => !s.blocks.any fun b => b.handle == h && b.spans d c && k == unitKey (c - b.coreAt 0) u
        | _ => true) with blocks := s.blocks.map clear }

/-- Count a restart; at RSTHR in 24 hours the engine's core, or the cluster's cores, are marked (R455, R461), and the
engine's count starts over. -/
def State.countRestart (s : State) (d : DieId) (e : EngineInfo) : State :=
  let x := s.die d
  let l := x.restarts ++ [(e.index, x.dtime)]
  let thr := x.tcsrAt 0x112
  s.setDie d (if thr != 0 && decide (thr ≤ inDay l e.index x.dtime) then
      { x with restarts := l.filter fun r => r.1 != e.index }.markCores e.cores
    else { x with restarts := l })

/-- ENGINE_HUNG: the engine is isolated and reset, a kind 9 record is posted, and each instance with work on it is
rolled back, or its job faults, with cause 3. -/
def execEngineHung (die : DieId) (engine : EngineId) (s : State) : Host.Outcome State Fault Refusal :=
  .next (if !s.engineHung die engine then s
    else
      let e := engineInfo engine
      let hit := s.blocks.filter fun b => s.holdsWork die b engine
      let insts := (hit.map fun b => (b.job, b.inst)).foldl (fun l p => if l.contains p then l else l ++ [p]) []
      let jobs := (hit.map (·.job)).foldl (fun l j => if l.contains j then l else l ++ [j]) []
      let s := ((s.resetEngine die engine).post9 die e.agent e.cluster e.core jobs.length).countRestart die e
      insts.foldl (fun s p => s.rollback p.1 p.2 3 fun _ s => s) s)

/-! ## Spares (R461, R462) -/

/-- How many spare rows a vault has left: free, for the manual gives no number. -/
def sparesLeft (d : DieId) (vault used : Nat) : Bool := decide (used < Config.spareRows (vault + if d then 64 else 0))

/-- Has a row reached SPTHR corrected errors within the last hour? SPTHR 0 disables it. -/
def Die.rowDue (x : Die) (vault row : Nat) : Bool :=
  x.tcsrAt 0x110 != 0 && decide (x.tcsrAt 0x110 ≤
    (x.rowErrs.filter fun e => e.1 == vault && e.2.1 == row && decide (x.dtime < e.2.2 + 3600000000000)).length)

/-- VAULT_ROW_SPARE: a row that is due, or that holds an uncorrectable error, is copied to a spare row of its vault; its
contents and uncorrectable words stay. With no spare row left the core is marked for sparing. Where the rows of a vault
lie is not given, so an uncorrectable word anywhere in the vault lets the event name its row (entry 65). -/
def execVaultRowSpare (die : DieId) (vault row : Nat) (s : State) : Host.Outcome State Fault Refusal :=
  let x := s.die die
  let bad := s.bad.any fun w => decide (vaultKey die vault 0 ≤ w * 8) && decide (w * 8 < vaultKey die vault 0 + 2 ^ 25)
  let used := sget 0 x.rowsSpared vault
  .next (if 48 ≤ vault || (!x.rowDue vault row && !bad) then s
    else if sparesLeft die vault used then
      (s.setDie die { x with
        rowsSpared := sset 0 x.rowsSpared vault (used + 1)
        rowErrs := x.rowErrs.filter fun e => !(e.1 == vault && e.2.1 == row) }).post9 die 0 (vault / 4) vault 0
    else s.setDie die (x.markCores [vault]))

/-- The uncorrectable words of a core's scratchpad and accumulator store go with the core that a spare replaces; those of
its vault stay marked (R461). -/
def State.freshArrays (s : State) (d : DieId) (core : Nat) : State :=
  let old := fun (w : Nat) =>
    (decide (scratchPhys d core 0 ≤ w * 8) && decide (w * 8 < scratchPhys d (core + 1) 0)) ||
      (decide (storePhys d core 0 ≤ w * 8) && decide (w * 8 < storePhys d (core + 1) 0))
  { s with bad := s.bad.filter fun w => !old w, badPart := s.badPart.filter fun e => !old e.1 }

/-- What was counted of a core goes with it as a spare takes its place: datapath checks, restarts of its engines, and the
spare rows and row errors of its vault (R461). -/
def Die.freshCore (x : Die) (core : Nat) : Die :=
  { x with
    dpCount := x.dpCount.filter fun e => e.1 != core
    restarts := x.restarts.filter fun e => e.1 != core && !(200 + 4 * core ≤ e.1 && e.1 < 204 + 4 * core)
    rowsSpared := sset 0 x.rowsSpared core 0
    rowErrs := x.rowErrs.filter fun e => e.1 != core }

/-- CORE_SPARE: a marked core without a block is replaced by a spare, which takes over its number and vault; with no
spare left it leaves service and its vault stays reachable. The four spare positions are taken in ascending order: which
of the free ones a spare stands at is the model's choice (entry 78), and nothing reads it. -/
def execCoreSpare (die : DieId) (core : Nat) (s : State) : Host.Outcome State Fault Refusal :=
  let x := s.die die
  .next (if !x.marked.contains core || s.blocks.any (fun b => b.spans die core) then s
    else
      let m := x.marked.filter fun c => c != core
      let x : Die :=
        if x.spares.length < 4 then { x.freshCore core with marked := m, spares := x.spares ++ [(core, x.spares.length)] }
        else { x with marked := m, retired := x.retired ++ [core] }
      let s := if x.retired.contains core then s else s.freshArrays die core
      (s.setDie die x).post9 die 0 (core / 4) core 0)

end Sys2Proof.Machine
end

