-- ==== Sys2Proof/Machine/Logic.lean ====
section
/-! DEFINITION. Group 0x1_: LOGIC, SHIFT, BIT, MOV (R121 to R124). -/

namespace Sys2Proof.Machine

/-! LOGIC (R121): CC sets Z and N of D, and clears C and V. -/

def logic2 (s : State) (legal : Bool) (x : Logic2) (f : Nat → Nat → Nat) :=
  resultForm s legal x.h (span x.ty.regs x.a ++ spanB x.ty.regs x.b) x.ty.regs x.d x.cc fun w L =>
    let d := f (w.src x.ty x.a L) (w.srcB x.ty x.b L)
    (d, ccOf x.ty.width d false false)

def execLogicAnd (x : Logic2) (s : State) := logic2 s (Instr.logicAnd x).legal x fun a b => a &&& b
def execLogicOr (x : Logic2) (s : State) := logic2 s (Instr.logicOr x).legal x fun a b => a ||| b
def execLogicXor (x : Logic2) (s : State) := logic2 s (Instr.logicXor x).legal x fun a b => a ^^^ b

def execLogicNot (x : Logic1) (s : State) :=
  resultForm s (Instr.logicNot x).legal x.h (span x.ty.regs x.a) x.ty.regs x.d x.cc fun w L =>
    let d := 2 ^ x.ty.width - 1 - w.src x.ty x.a L
    (d, ccOf x.ty.width d false false)

/-- Bit i of the result is bit Ai + 2 Bi + 4 Ci of the table, for the bits below `n`. -/
def truth (tbl : Nat) (a b c : Nat) : Nat → Nat
  | 0 => 0
  | n + 1 =>
    truth tbl a b c n +
      (if bitAt tbl ((bitAt a n).toNat + 2 * (bitAt b n).toNat + 4 * (bitAt c n).toNat) then 2 ^ n else 0)

def execLogicTruth (x : Truth) (s : State) :=
  resultForm s (Instr.logicTruth x).legal x.h
    (span x.ty.regs x.a ++ spanB x.ty.regs x.b ++ span x.ty.regs x.c) x.ty.regs x.d x.cc fun w L =>
    let d := truth x.tbl.toNat (w.src x.ty x.a L) (w.srcB x.ty x.b L) (w.src x.ty x.c L) x.ty.width
    (d, ccOf x.ty.width d false false)

/-! SHIFT (R122) -/

/-- A shift of A by m, the 32-bit value of B, with the last bit shifted out in C. -/
def shiftForm (s : State) (legal : Bool) (x : Logic2) (f : Nat → Nat → Nat → Nat × Bool) :=
  resultForm s legal x.h (span x.ty.regs x.a ++ spanB 1 x.b) x.ty.regs x.d x.cc fun w L =>
    let r := f x.ty.width (w.src x.ty x.a L) (w.srcB32 x.b L)
    (r.1, ccOf x.ty.width r.1 r.2 false)

def execShiftShl (x : Logic2) (s : State) := shiftForm s (Instr.shiftShl x).legal x fun n a m =>
  (if m < n then a * 2 ^ m % 2 ^ n else 0, carryShl n a m)

def execShiftShr (x : Logic2) (s : State) := shiftForm s (Instr.shiftShr x).legal x fun n a m =>
  (if m < n then a / 2 ^ m else 0, carryShr n a m)

def execShiftSar (x : Logic2) (s : State) := shiftForm s (Instr.shiftSar x).legal x fun n a m =>
  (wrapInt n (signedOf n a / 2 ^ min m n), carrySar n a m)

/-- A funnel shift of X = A × 2^32 + C by k = min(m, 32). -/
def funnel (s : State) (legal : Bool) (x : Typed3) (f : Nat → Nat → Nat) :=
  valueForm s legal x.h (span 1 x.a ++ spanB 1 x.b ++ span 1 x.c) 1 x.d fun w L =>
    f (w.src x.ty x.a L * 2 ^ 32 + w.src x.ty x.c L) (min (w.srcB32 x.b L) 32)

def execShiftFshl (x : Typed3) (s : State) := funnel s (Instr.shiftFshl x).legal x fun v k =>
  v * 2 ^ k / 2 ^ 32 % 2 ^ 32

def execShiftFshr (x : Typed3) (s : State) := funnel s (Instr.shiftFshr x).legal x fun v k => v / 2 ^ k % 2 ^ 32

/-! BIT (R123) -/

/-- The number of set bits below `n`. -/
def popc (a : Nat) : Nat → Nat
  | 0 => 0
  | n + 1 => popc a n + (bitAt a n).toNat

/-- Zero bits from bit `n` − 1 down to the highest set bit. -/
def clz (a : Nat) : Nat → Nat
  | 0 => 0
  | n + 1 => if bitAt a n then 0 else 1 + clz a n

/-- Zero bits below the lowest set bit, at most `n`. -/
def ctz (a : Nat) : Nat → Nat
  | 0 => 0
  | n + 1 => if bitAt a 0 then 0 else 1 + ctz (a / 2) n

/-- The low `n` bits in reverse order. -/
def brev (a : Nat) : Nat → Nat
  | 0 => 0
  | n + 1 => (if bitAt a 0 then 2 ^ n else 0) + brev (a / 2) n

def bit1 (s : State) (legal : Bool) (x : Typed1) (n : Nat) (f : Nat → Nat → Nat) :=
  valueForm s legal x.h (span x.ty.regs x.a) n x.d fun w L => f x.ty.width (w.src x.ty x.a L)

def execBitPopc (x : Typed1) (s : State) := bit1 s (Instr.bitPopc x).legal x 1 fun n a => popc a n
def execBitClz (x : Typed1) (s : State) := bit1 s (Instr.bitClz x).legal x 1 fun n a => clz a n
def execBitCtz (x : Typed1) (s : State) := bit1 s (Instr.bitCtz x).legal x 1 fun n a => ctz a n
def execBitBrev (x : Typed1) (s : State) := bit1 s (Instr.bitBrev x).legal x x.ty.regs fun n a => brev a n

/-- The field that B names: pos = B[7:0], len = B[15:8] cut to the width; `none` when pos ≥ n or
len = 0. -/
def fieldOf (n b : Nat) : Option (Nat × Nat) :=
  let pos := b % 256
  let len := b / 256 % 256
  if n ≤ pos || len = 0 then none else some (pos, min len (n - pos))

def execBitBfe (x : Typed2) (s : State) :=
  valueForm s (Instr.bitBfe x).legal x.h (span x.ty.regs x.a ++ spanB 1 x.b) x.ty.regs x.d fun w L =>
    let n := x.ty.width
    match fieldOf n (w.srcB32 x.b L) with
    | none => 0
    | some (pos, len) =>
      let f := w.src x.ty x.a L / 2 ^ pos % 2 ^ len
      if x.ty.isSigned then wrapInt n (signedOf len f) else f

def execBitBfi (x : Typed3) (s : State) :=
  valueForm s (Instr.bitBfi x).legal x.h (span x.ty.regs x.a ++ spanB 1 x.b ++ span x.ty.regs x.c) x.ty.regs x.d fun w L =>
    let a := w.src x.ty x.a L
    match fieldOf x.ty.width (w.srcB32 x.b L) with
    | none => a
    | some (pos, len) =>
      a / 2 ^ (pos + len) * 2 ^ (pos + len) + w.src x.ty x.c L % 2 ^ len * 2 ^ pos + a % 2 ^ pos

/-! MOV (R124) -/

def execMov (x : MovOp) (s : State) :=
  valueForm s (Instr.mov x).legal x.h (spanB x.ty.regs x.b) x.ty.regs x.d fun w L => w.srcB x.ty x.b L

/-- Byte k of MOV.BSEL: the selector picks zero, a sign fill or a byte of A and B. -/
def bselByte (ab sel : Nat) : Nat :=
  if bitAt sel 6 then 0
  else
    let b := ab / 256 ^ (sel % 8) % 256
    if bitAt sel 7 then (if bitAt b 7 then 255 else 0) else b

def execMovBsel (x : Typed3) (s : State) :=
  valueForm s (Instr.movBsel x).legal x.h (span 1 x.a ++ spanB 1 x.b ++ span 1 x.c) 1 x.d fun w L =>
    let ab := w.src x.ty x.a L + w.srcB x.ty x.b L * 2 ^ 32
    let c := w.src x.ty x.c L
    let pick := fun k => bselByte ab (c / 256 ^ k % 256) * 256 ^ k
    pick 0 + pick 1 + pick 2 + pick 3

end Sys2Proof.Machine
end

