-- ==== Sys2Proof/Machine/Pred.lean ====
section
/-! DEFINITION. Group 0x2_: SETP, PCOMB, SEL, PMOV (R125 to R130). -/

namespace Sys2Proof.Machine

/-- p[PD] := t, or t BOP (p[PS] xor PSN), in the lanes of `act` (R125). -/
def Warp.setp (w : Warp) (p : PredDst) (act t : Mask) : Warp :=
  let q := if p.psn then ~~~(w.pred p.ps.toNat) else w.pred p.ps.toNat
  w.putPred p.pd.toNat act <|
    match p.bop.toNat with
    | 0 => t
    | 1 => t &&& q
    | 2 => t ||| q
    | _ => t ^^^ q

/-- Comparison codes 0 to 5 by the order of a and b. -/
def cmpTest (c : Nat) (lt eq : Bool) : Bool :=
  match c with
  | 0 => eq
  | 1 => !eq
  | 2 => lt
  | 3 => lt || eq
  | 4 => !(lt || eq)
  | _ => !lt

/-- The comparison CMP of a with b read as the type (R126). -/
def compareAs (ty : LTy) (c a b : Nat) : Bool :=
  if ty.isFp then
    let x := ty.decode a
    let y := ty.decode b
    let nan := x == .nan || y == .nan
    if c == 12 then !nan
    else if c == 13 then nan
    else if nan then decide (6 ≤ c)
    else cmpTest (c % 6) (x.lt y) (x.feq y)
  else cmpTest c (decide (LTy.int ty a < LTy.int ty b)) (LTy.int ty a == LTy.int ty b)

def execSetpCmp (x : SetpCmp) (s : State) :=
  laneForm s (lane (Instr.setpCmp x).legal x.h (span x.ty.regs x.a ++ spanB x.ty.regs x.b) []) fun w act =>
    w.setp x.p act (maskOf fun L => compareAs x.ty x.cmp.toNat (w.src x.ty x.a L) (w.srcB x.ty x.b L))

def execSetpCct (x : SetpCct) (s : State) :=
  laneForm s (lane (Instr.setpCct x).legal x.h [] []) fun w act =>
    w.setp x.p act (maskOf fun L => ccTest x.test.toNat (w.cc L))

def execSetpClass (x : SetpClass) (s : State) :=
  laneForm s (lane (Instr.setpClass x).legal x.h (span x.ty.regs x.a) []) fun w act =>
    w.setp x.p act (maskOf fun L => x.cls.getLsbD (x.ty.ffmt.classBit (w.src x.ty x.a L % 2 ^ x.ty.width)))

def execPcomb (x : Pcomb) (s : State) :=
  laneForm s (lane (Instr.pcomb x).legal x.h [] []) fun w act =>
    let b := fun (p : BitVec 3) L => ((w.pred p.toNat).getLsbD L).toNat
    w.putPred x.pd.toNat act (maskOf fun L => x.tbl.getLsbD (b x.pa L + 2 * b x.pb L + 4 * b x.pc L))

def execSel (x : SelP) (s : State) :=
  valueForm s (Instr.sel x).legal x.h (span x.ty.regs x.a ++ spanB x.ty.regs x.b) x.ty.regs x.d fun w L =>
    if (w.pred x.ps.toNat).getLsbD L != x.psn then w.src x.ty x.a L else w.srcB x.ty x.b L

def execSelCc (x : SelCc) (s : State) :=
  valueForm s (Instr.selCc x).legal x.h (span x.ty.regs x.a ++ spanB x.ty.regs x.b) x.ty.regs x.d fun w L =>
    if ccTest x.test.toNat (w.cc L) then w.src x.ty x.a L else w.srcB x.ty x.b L

def execPmovToreg (x : DOnly) (s : State) :=
  valueForm s (Instr.pmovToreg x).legal x.h [] 1 x.d fun w L =>
    let b := fun k => ((w.pred k).getLsbD L).toNat
    b 0 + 2 * b 1 + 4 * b 2 + 8 * b 3 + 16 * b 4 + 32 * b 5 + 64 * b 6

/-- pk := bit k of A for each k of the mask (R129). -/
def putPreds (w v : Warp) (a : Reg) (mask : BitVec 7) (act : Mask) : Nat → Warp
  | 0 => v
  | k + 1 =>
    let u := putPreds w v a mask act k
    if mask.getLsbD k then u.putPred k act (maskOf fun L => (w.word a.toNat L).getLsbD k) else u

def execPmovFromreg (x : PmovFrom) (s : State) :=
  laneForm s (lane (Instr.pmovFromreg x).legal x.h (span 1 x.a) []) fun w act => putPreds w w x.a x.mask act 7

end Sys2Proof.Machine
end

