-- ==== Sys2Proof/Machine/Timing.lean ====
section
/-! DEFINITION. Pre-emption (R352 to R355) and the timing exceptions (R419 to R427): the events PREEMPTION,
DEADLINE, BUDGET, WATCHDOG_ABANDON, BANDWIDTH, CKPTOVR and REGULATOR_WINDOW. -/

namespace Sys2Proof.Machine

/-! ## Pre-emption -/

/-- Would the next blocks of an instance fit if the listed blocks were gone (R352)? -/
def State.wouldFit (s : State) (j : Job) (i : Inst) (freed : List Nat) : Bool :=
  let t : State := { s with
    blocks := s.blocks.filter fun b => !freed.contains b.handle
    warps := s.warps.filter fun p => !ofBlocks freed p.1 }
  (t.planFor j i).isSome

/-- The running jobs that may be victims of an instance: with a block on a die in its range and a later deadline,
in descending order of deadline (R352). -/
def State.victims (s : State) (j : Job) (i : Inst) : List (Job × Inst) :=
  let ds := s.launchDies j i.no
  let run := s.jobs.flatMap fun v => (v.insts.filter fun k =>
    v.id != j.id && earlierDl i.deadline k.deadline &&
      s.blocks.any fun b => b.job == v.id && b.inst == k.no && !b.halted && ds.contains b.die).map fun k => (v, k)
  (run.foldl (fun q x => s.intoQueue x q) []).reverse

/-- The policy of a running job under consideration for the waiting job J (R353, R426): `none` when it is
passed over. A node block drains (R359). One passed over for an overdue checkpoint is judged from the Kill case on. -/
def State.victimize (s : State) (waiting : Nat) (v : Job) (k : Inst) : Option State :=
  let passed := s.blocks.any fun b => b.job == v.id && b.inst == k.no && b.passed
  if v.batch.isSome || (!passed && decide (k.estimate < v.drain)) then some s
  else if v.mayCkpt && !passed then
    some (s.requestStop v.id 0 (some waiting) fun b => b.inst == k.no && b.stopReq.isNone)
  else
    match s.job? waiting with
    | none => none
    | some j => if v.mayKill && decide (0 < j.tokens) then some ((s.setJob { j with tokens := j.tokens - 1 }).killInst v.id k.no) else none

/-- Consider victims one after the other until the waiting instance would fit. -/
def State.preemptOver (s : State) (job inst : Nat) (freed : List Nat) : List (Job × Inst) → State
  | [] => s
  | x :: l =>
    match s.job? job with
    | none => s
    | some j => match j.inst? inst with
      | none => s
      | some i =>
        if s.wouldFit j i freed then s
        else match s.victimize job x.1 x.2 with
          | some t => t.preemptOver job inst (freed ++ s.blocksOf x.1.id x.2.no) l
          | none => s.preemptOver job inst freed l

/-- Blocks whose resources count as promised already: stopped ones and those asked to stop. -/
def State.promised (s : State) : List Nat :=
  (s.blocks.filter fun b => b.halted || ((b.stopReq.isSome || b.cut.isSome) && !b.passed)).map (·.handle)

/-- Pre-empt for the first instance of the ready queue. -/
def State.preempt (s : State) : State :=
  match s.queue with
  | [] => s
  | (j, i) :: _ => (s.preemptOver j.id i.no s.promised (s.victims j i)).noteFirst

/-- May the pre-emption for a waiting job go on (R352): it has been first in the ready queue for 1 µs? -/
def State.firstLong (s : State) (j : Job) : Bool := match j.firstSince with
  | some t => decide (t + 1000 ≤ s.now j.die)
  | none => false

/-- PREEMPTION: a job has been first in the ready queue for 1 µs without placing a block. -/
def execPreemption (job : Nat) (s : State) : Host.Outcome State Fault Refusal :=
  match s.queue with
  | [] => .next s
  | (j, _) :: _ => .next (if j.id == job && s.firstLong j then s.preempt else s)

/-! ## Exceptions -/

/-- DEADLINE: an instance passes its absolute deadline incomplete (R420). -/
def execDeadline (job : Nat) (s : State) : Host.Outcome State Fault Refusal :=
  match s.job? job with
  | none => .next s
  | some j => match j.insts.find? (s.missed j) with
    | some i => .next (if j.gone then s else s.raiseDeadline j i)
    | none => .next s

/-- Has a block run CKPTNS without a CKPT (R419)? -/
def State.overdue (s : State) (b : Block) : Bool :=
  let n := kdCkptns b.kd
  n != 0 && !b.halted && b.cut.isNone && b.batch.isNone && decide (b.ckptSince + n ≤ s.now b.die)

/-- Did a job have a block on a die in a window of 10 µs? -/
def State.ranInWindow (s : State) (job : Nat) (d : DieId) (k : Nat) : Bool :=
  (s.blocks.any fun b => b.job == job && b.die == d && decide (b.since / 10000 ≤ k)) ||
    (s.die d).ranIn.any fun e => e.1 == job && decide (e.2.1 / 10000 ≤ k) && decide (k ≤ e.2.2 / 10000)

/-- The window of a request that waits at a controller in which the job has a block on the die, and which has not been
counted for the job (R419, R425). -/
def State.throttledIn (s : State) (j : Job) (die : DieId) (ctrl : Nat) : Option Nat :=
  if j.bw == 0 || j.batch.isSome then none
  else (((s.die die).waitsWin.filter fun w => w.2.1 == j.tenant && w.2.2 == ctrl && s.ranInWindow j.id die w.1 && (match j.bwWin with
      | some k => decide (k < w.1)
      | none => true)).map (·.1)).head?

/-- BANDWIDTH: a throttled window is counted, and recorded at most once every 100 windows (R425). DEADLINE and
CKPTOVR records of the instance go first (R427). -/
def execBandwidth (job : Nat) (die : DieId) (ctrl : Nat) (s : State) : Host.Outcome State Fault Refusal :=
  match s.job? job with
  | none => .next s
  | some j =>
    match s.throttledIn j die ctrl with
    | none => .next s
    | some k =>
      if j.gone || j.insts.any (s.missed j) || (s.blocks.any fun b => b.job == job && s.overdue b) then .next s
      else
        let n := j.throttled + 1
        let due := match j.bwAt with
          | some a => decide (a + 100 ≤ k)
          | none => true
        let s := s.setJob { j with throttled := if due then 0 else n, bwWin := some k, bwAt := if due then some k else j.bwAt }
        .next (if due then s.post3 j (s.liveInst j) 3 0 j.bw (ctrl % 4 + min n 0xFFFF * 2 ^ 16) else s)

/-- The record of a block without a CKPT for CKPTNS; its timer restarts (R422, R426). -/
def State.raiseOverdue (s : State) (b : Block) (j : Job) : State :=
  let data := b.no % 2 ^ 32 + (b.cluster * 4 + b.base) % 256 * 2 ^ 32 + ((b.ckno.getD 0).toNat * 2 ^ 40) + if b.ckno.isNone then 2 ^ 48 else 0
  let s := s.post3 j b.inst 4 (if b.stopReq.isSome then 64 else 0) (kdCkptns b.kd) data
  s.setBlock { b with ckptSince := s.now b.die }

/-- A running instance, asked to stop for the job `w`, is judged again from the Kill case (R426): it is killed for `w`
where `w` holds a token and R352 still has `w` pre-empt, with this victim in its range and of a later deadline, and without the
room that `w` needs. Whether R352's conditions are tested again is not said: the model tests them (entry 105). -/
def State.killFor (s : State) (w : Nat) (v : Job) (k : Inst) : Option State :=
  match s.queue with
  | [] => none
  | (j, i) :: _ =>
    if j.id == w && s.firstLong j && v.mayKill && decide (0 < j.tokens) && !s.wouldFit j i s.promised &&
        (s.victims j i).any (fun x => x.1.id == v.id && x.2.no == k.no) then
      some ((s.setJob { j with tokens := j.tokens - 1 }).killInst v.id k.no)
    else none

/-- CKPTOVR: with a pre-emption request pending the job is judged again from the Kill case, for the job that asked; one
that is not killed counts as passed over, and R352 goes on to the next victim (R426). -/
def execCkptovr (block : Nat) (s : State) : Host.Outcome State Fault Refusal :=
  match s.block? block with
  | none => .next s
  | some b =>
    match s.job? b.job with
    | none => .next s
    | some j =>
      if !s.overdue b || j.insts.any (s.missed j) then .next s
      else
        let s := s.raiseOverdue b j
        if b.stopReq != some 0 then .next s
        else
          let s : State := { s with blocks := s.blocks.map fun (c : Block) =>
            if c.job == b.job && c.inst == b.inst && c.stopReq.isSome then { c with passed := true } else c }
          match (j.inst? b.inst).bind fun i => b.stopFor.bind fun w => s.killFor w j i with
          | some t => .next t
          | none => .next (match s.queue with
            | (w, _) :: _ => if s.firstLong w then s.preempt else s
            | [] => s)

/-- The accesses of started work of blocks that are parked are never performed: their parks await no repair (R423
step 2). -/
def State.discardParked (s : State) (hs : List Nat) : State :=
  let mine := fun (p : Park) => match p.who with
    | .copy c => s.copies.any fun x => x.id == c && hs.contains x.block
    | .path q _ => s.queries.any fun x => x.id == q && hs.contains x.block
    | .stream h _ => hs.contains h
    | _ => false
  let t := s.unpark fun p => !mine p
  { t with parks := t.parks ++ (s.parks.filter mine).map fun (p : Park) => { p with reason := 0 } }

/-- The watchdog stops an instance (R423): its end with STATUS 1, and the time from which what remains of it is
abandoned. -/
def State.watchdog (s : State) (j : Job) (i : Inst) : State :=
  let hs := s.blocksOf j.id i.no
  let n := (s.blocks.filter fun b => b.job == j.id && b.inst == i.no && !b.halted).length
  let s := s.post3 j i.no 2 16 (s.budgetOf j) n
  let s := (s.endInst j.id i.no 1).discardParked hs
  ({ s with blocks := s.blocks.map fun (b : Block) =>
      if hs.contains b.handle then { b with abandonAt := some (s.now b.die) } else b } : State).noteFirst

/-- Has the last block of an instance exited with nothing left to do? The instance then completes (R427). -/
def State.allExited (s : State) (j : Job) (i : Inst) : Bool :=
  i.first && !s.hasCtx j.id i.no && (j.batch.isSome || i.remaining == 0) &&
    (s.blocks.filter fun b => b.job == j.id && b.inst == i.no).all fun b => !s.blockBusy b

/-- BUDGET: the budget count of an instance reaches its budget. Its other records, and its completion, go first (R427). -/
def execBudget (job : Nat) (s : State) : Host.Outcome State Fault Refusal :=
  match s.job? job with
  | none => .next s
  | some j =>
    match j.insts.find? fun i => !i.stopped && i.resSince.isSome && s.budgetOut j i with
    | none => .next s
    | some i =>
      if j.gone || s.missed j i || s.allExited j i || (s.blocks.any fun b => b.job == job && s.overdue b) ||
          ([false, true].any fun d => (List.range 4).any fun c => (s.throttledIn j d c).isSome) then .next s
      else .next (s.watchdog j i)

/-- WATCHDOG_ABANDON: 20 µs after the watchdog stopped an instance, its started commands, queries and stream
operations are abandoned (R423). -/
def execWatchdogAbandon (job : Nat) (s : State) : Host.Outcome State Fault Refusal :=
  let hs := (s.blocks.filter fun b => b.job == job && (match b.abandonAt with
    | some t => decide (t + 20000 ≤ s.now b.die)
    | none => false)).map (·.handle)
  let s := s.countGone (s.queries.filter fun q => hs.contains q.block)
  let qs := (s.queries.filter fun q => hs.contains q.block).map (·.id)
  let cs := (s.copies.filter fun c => hs.contains c.block).map (·.id)
  .next { (s.unpark fun p => match p.who with
      | .copy c => !cs.contains c
      | .path q _ => !qs.contains q
      | .stream b _ => !hs.contains b
      | _ => true) with
    copies := s.copies.filter fun c => !hs.contains c.block
    queries := s.queries.filter fun q => !hs.contains q.block
    conts := s.conts.filter fun c => !qs.contains c.query
    blocks := s.blocks.map fun (b : Block) => if hs.contains b.handle then { b with streams := [] } else b }

/-- REGULATOR_WINDOW: a window of 10 µs starts, and every count returns to 0 (R363). -/
def execRegulatorWindow (die : DieId) (s : State) : Host.Outcome State Fault Refusal :=
  let x := s.die die
  .next (if x.windowAt == x.dtime / 10000 then s else s.setDie die { x with windowAt := x.dtime / 10000, regul := [] })

end Sys2Proof.Machine
end

