-- ==== Sys2Proof/Machine/Dispatch.lean ====
section
/-! DEFINITION. One arm per instruction and event: each is one call of its meaning. -/

namespace Sys2Proof.Machine

/-- What an instruction or event does. -/
def exec (i : Instr) (s : State) : Host.Outcome State Fault Refusal :=
  match i with
  | .intAdd x => Sys2Proof.Machine.execIntAdd x s
  | .intAddc x => Sys2Proof.Machine.execIntAddc x s
  | .intSub x => Sys2Proof.Machine.execIntSub x s
  | .intSubb x => Sys2Proof.Machine.execIntSubb x s
  | .intNeg x => Sys2Proof.Machine.execIntNeg x s
  | .intAbs x => Sys2Proof.Machine.execIntAbs x s
  | .intMin x => Sys2Proof.Machine.execIntMin x s
  | .intMax x => Sys2Proof.Machine.execIntMax x s
  | .imulLo x => Sys2Proof.Machine.execImulLo x s
  | .imulHi x => Sys2Proof.Machine.execImulHi x s
  | .imulWide x => Sys2Proof.Machine.execImulWide x s
  | .imulMadlo x => Sys2Proof.Machine.execImulMadlo x s
  | .imulMadhi x => Sys2Proof.Machine.execImulMadhi x s
  | .imulMadwide x => Sys2Proof.Machine.execImulMadwide x s
  | .idivDiv x => Sys2Proof.Machine.execIdivDiv x s
  | .idivRem x => Sys2Proof.Machine.execIdivRem x s
  | .idotDp4 x => Sys2Proof.Machine.execIdotDp4 x s
  | .logicAnd x => Sys2Proof.Machine.execLogicAnd x s
  | .logicOr x => Sys2Proof.Machine.execLogicOr x s
  | .logicXor x => Sys2Proof.Machine.execLogicXor x s
  | .logicNot x => Sys2Proof.Machine.execLogicNot x s
  | .logicTruth x => Sys2Proof.Machine.execLogicTruth x s
  | .shiftShl x => Sys2Proof.Machine.execShiftShl x s
  | .shiftShr x => Sys2Proof.Machine.execShiftShr x s
  | .shiftSar x => Sys2Proof.Machine.execShiftSar x s
  | .shiftFshl x => Sys2Proof.Machine.execShiftFshl x s
  | .shiftFshr x => Sys2Proof.Machine.execShiftFshr x s
  | .bitPopc x => Sys2Proof.Machine.execBitPopc x s
  | .bitClz x => Sys2Proof.Machine.execBitClz x s
  | .bitCtz x => Sys2Proof.Machine.execBitCtz x s
  | .bitBrev x => Sys2Proof.Machine.execBitBrev x s
  | .bitBfe x => Sys2Proof.Machine.execBitBfe x s
  | .bitBfi x => Sys2Proof.Machine.execBitBfi x s
  | .mov x => Sys2Proof.Machine.execMov x s
  | .movBsel x => Sys2Proof.Machine.execMovBsel x s
  | .setpCmp x => Sys2Proof.Machine.execSetpCmp x s
  | .setpCct x => Sys2Proof.Machine.execSetpCct x s
  | .setpClass x => Sys2Proof.Machine.execSetpClass x s
  | .pcomb x => Sys2Proof.Machine.execPcomb x s
  | .sel x => Sys2Proof.Machine.execSel x s
  | .selCc x => Sys2Proof.Machine.execSelCc x s
  | .pmovToreg x => Sys2Proof.Machine.execPmovToreg x s
  | .pmovFromreg x => Sys2Proof.Machine.execPmovFromreg x s
  | .farithAdd x => Sys2Proof.Machine.execFarithAdd x s
  | .farithSub x => Sys2Proof.Machine.execFarithSub x s
  | .farithMul x => Sys2Proof.Machine.execFarithMul x s
  | .farithFma x => Sys2Proof.Machine.execFarithFma x s
  | .farithMin x => Sys2Proof.Machine.execFarithMin x s
  | .farithMax x => Sys2Proof.Machine.execFarithMax x s
  | .farithAbs x => Sys2Proof.Machine.execFarithAbs x s
  | .farithNeg x => Sys2Proof.Machine.execFarithNeg x s
  | .fmiscRint x => Sys2Proof.Machine.execFmiscRint x s
  | .fmiscCopysign x => Sys2Proof.Machine.execFmiscCopysign x s
  | .darithAdd x => Sys2Proof.Machine.execDarithAdd x s
  | .darithSub x => Sys2Proof.Machine.execDarithSub x s
  | .darithMul x => Sys2Proof.Machine.execDarithMul x s
  | .darithFma x => Sys2Proof.Machine.execDarithFma x s
  | .darithMin x => Sys2Proof.Machine.execDarithMin x s
  | .darithMax x => Sys2Proof.Machine.execDarithMax x s
  | .darithAbs x => Sys2Proof.Machine.execDarithAbs x s
  | .darithNeg x => Sys2Proof.Machine.execDarithNeg x s
  | .darithRint x => Sys2Proof.Machine.execDarithRint x s
  | .sfuRcp x => Sys2Proof.Machine.execSfuRcp x s
  | .sfuRsq x => Sys2Proof.Machine.execSfuRsq x s
  | .sfuSqrt x => Sys2Proof.Machine.execSfuSqrt x s
  | .sfuEx2 x => Sys2Proof.Machine.execSfuEx2 x s
  | .sfuLg2 x => Sys2Proof.Machine.execSfuLg2 x s
  | .sfuSin x => Sys2Proof.Machine.execSfuSin x s
  | .sfuCos x => Sys2Proof.Machine.execSfuCos x s
  | .sfuTanh x => Sys2Proof.Machine.execSfuTanh x s
  | .cvtI2i x => Sys2Proof.Machine.execCvtI2i x s
  | .cvtI2f x => Sys2Proof.Machine.execCvtI2f x s
  | .cvtF2i x => Sys2Proof.Machine.execCvtF2i x s
  | .cvtF2f x => Sys2Proof.Machine.execCvtF2f x s
  | .cvtPack x => Sys2Proof.Machine.execCvtPack x s
  | .cvtUnpack x => Sys2Proof.Machine.execCvtUnpack x s
  | .vpermIdx x => Sys2Proof.Machine.execVpermIdx x s
  | .vpermUp x => Sys2Proof.Machine.execVpermUp x s
  | .vpermDown x => Sys2Proof.Machine.execVpermDown x s
  | .vpermXor x => Sys2Proof.Machine.execVpermXor x s
  | .reduceAdd x => Sys2Proof.Machine.execReduceAdd x s
  | .reduceMin x => Sys2Proof.Machine.execReduceMin x s
  | .reduceMax x => Sys2Proof.Machine.execReduceMax x s
  | .reduceAnd x => Sys2Proof.Machine.execReduceAnd x s
  | .reduceOr x => Sys2Proof.Machine.execReduceOr x s
  | .reduceXor x => Sys2Proof.Machine.execReduceXor x s
  | .scanIncl x => Sys2Proof.Machine.execScanIncl x s
  | .scanExcl x => Sys2Proof.Machine.execScanExcl x s
  | .voteBallot x => Sys2Proof.Machine.execVoteBallot x s
  | .voteAny x => Sys2Proof.Machine.execVoteAny x s
  | .voteAll x => Sys2Proof.Machine.execVoteAll x s
  | .voteMatch x => Sys2Proof.Machine.execVoteMatch x s
  | .umovFirst x => Sys2Proof.Machine.execUmovFirst x s
  | .umovLane x => Sys2Proof.Machine.execUmovLane x s
  | .bra x => Sys2Proof.Machine.execBra x s
  | .brx x => Sys2Proof.Machine.execBrx x s
  | .call x => Sys2Proof.Machine.execCall x s
  | .callx x => Sys2Proof.Machine.execCallx x s
  | .ret x => Sys2Proof.Machine.execRet x s
  | .jset x => Sys2Proof.Machine.execJset x s
  | .jwait x => Sys2Proof.Machine.execJwait x s
  | .exit x => Sys2Proof.Machine.execExit x s
  | .waitc x => Sys2Proof.Machine.execWaitc x s
  | .yield x => Sys2Proof.Machine.execYield x s
  | .sread x => Sys2Proof.Machine.execSread x s
  | .nop x => Sys2Proof.Machine.execNop x s
  | .ld x => Sys2Proof.Machine.execLd x s
  | .st x => Sys2Proof.Machine.execSt x s
  | .prefL1 x => Sys2Proof.Machine.execPrefL1 x s
  | .prefMsc x => Sys2Proof.Machine.execPrefMsc x s
  | .cctlInvl1 x => Sys2Proof.Machine.execCctlInvl1 x s
  | .cctlWbmsc x => Sys2Proof.Machine.execCctlWbmsc x s
  | .atomAdd x => Sys2Proof.Machine.execAtomAdd x s
  | .atomMin x => Sys2Proof.Machine.execAtomMin x s
  | .atomMax x => Sys2Proof.Machine.execAtomMax x s
  | .atomAnd x => Sys2Proof.Machine.execAtomAnd x s
  | .atomOr x => Sys2Proof.Machine.execAtomOr x s
  | .atomXor x => Sys2Proof.Machine.execAtomXor x s
  | .atomXchg x => Sys2Proof.Machine.execAtomXchg x s
  | .atomCas x => Sys2Proof.Machine.execAtomCas x s
  | .redAdd x => Sys2Proof.Machine.execRedAdd x s
  | .redMin x => Sys2Proof.Machine.execRedMin x s
  | .redMax x => Sys2Proof.Machine.execRedMax x s
  | .redAnd x => Sys2Proof.Machine.execRedAnd x s
  | .redOr x => Sys2Proof.Machine.execRedOr x s
  | .redXor x => Sys2Proof.Machine.execRedXor x s
  | .fence x => Sys2Proof.Machine.execFence x s
  | .barInit x => Sys2Proof.Machine.execBarInit x s
  | .barExpect x => Sys2Proof.Machine.execBarExpect x s
  | .barArrive x => Sys2Proof.Machine.execBarArrive x s
  | .barWait x => Sys2Proof.Machine.execBarWait x s
  | .qclaim x => Sys2Proof.Machine.execQclaim x s
  | .qcommit x => Sys2Proof.Machine.execQcommit x s
  | .qawait x => Sys2Proof.Machine.execQawait x s
  | .qretire x => Sys2Proof.Machine.execQretire x s
  | .push x => Sys2Proof.Machine.execPush x s
  | .evsig x => Sys2Proof.Machine.execEvsig x s
  | .take x => Sys2Proof.Machine.execTake x s
  | .publish x => Sys2Proof.Machine.execPublish x s
  | .mmaM32N32K64 x => Sys2Proof.Machine.execMmaM32N32K64 x s
  | .mmaM32N64K64 x => Sys2Proof.Machine.execMmaM32N64K64 x s
  | .mmaM32N16K128 x => Sys2Proof.Machine.execMmaM32N16K128 x s
  | .mmaM32N32K32 x => Sys2Proof.Machine.execMmaM32N32K32 x s
  | .mmaM32N64K32 x => Sys2Proof.Machine.execMmaM32N64K32 x s
  | .mmaM32N32K128 x => Sys2Proof.Machine.execMmaM32N32K128 x s
  | .mmaM32N32K8 x => Sys2Proof.Machine.execMmaM32N32K8 x s
  | .mscale x => Sys2Proof.Machine.execMscale x s
  | .mzero x => Sys2Proof.Machine.execMzero x s
  | .mld x => Sys2Proof.Machine.execMld x s
  | .mst x => Sys2Proof.Machine.execMst x s
  | .fpush x => Sys2Proof.Machine.execFpush x s
  | .mmode x => Sys2Proof.Machine.execMmode x s
  | .mepi x => Sys2Proof.Machine.execMepi x s
  | .cinit x => Sys2Proof.Machine.execCinit x s
  | .cmps x => Sys2Proof.Machine.execCmps x s
  | .cflush x => Sys2Proof.Machine.execCflush x s
  | .cread x => Sys2Proof.Machine.execCread x s
  | .cretire x => Sys2Proof.Machine.execCretire x s
  | .creplay x => Sys2Proof.Machine.execCreplay x s
  | .time x => Sys2Proof.Machine.execTime x s
  | .waitt x => Sys2Proof.Machine.execWaitt x s
  | .pcls x => Sys2Proof.Machine.execPcls x s
  | .swpt x => Sys2Proof.Machine.execSwpt x s
  | .ckpt x => Sys2Proof.Machine.execCkpt x s
  | .trap x => Sys2Proof.Machine.execTrap x s
  | .brk x => Sys2Proof.Machine.execBrk x s
  | .eret x => Sys2Proof.Machine.execEret x s
  | .csrRd x => Sys2Proof.Machine.execCsrRd x s
  | .csrWr x => Sys2Proof.Machine.execCsrWr x s
  | .wfi x => Sys2Proof.Machine.execWfi x s
  | .loadDataReturn acc lanes fromL1 lost => Sys2Proof.Machine.execLoadDataReturn acc lanes fromL1 lost s
  | .accessPerformed acc lanes lost => Sys2Proof.Machine.execAccessPerformed acc lanes lost s
  | .windowSwitch pub => Sys2Proof.Machine.execWindowSwitch pub s
  | .takeServe take => Sys2Proof.Machine.execTakeServe take s
  | .copy die core block => Sys2Proof.Machine.execCopy die core block s
  | .multicast die core block => Sys2Proof.Machine.execMulticast die core block s
  | .feed die core block => Sys2Proof.Machine.execFeed die core block s
  | .store die core block => Sys2Proof.Machine.execStore die core block s
  | .copyEnginePublish die core block => Sys2Proof.Machine.execCopyEnginePublish die core block s
  | .byteCredit cmd spos => Sys2Proof.Machine.execByteCredit cmd spos s
  | .copyCommandComplete cmd => Sys2Proof.Machine.execCopyCommandComplete cmd s
  | .ctxset die cluster block => Sys2Proof.Machine.execCtxset die cluster block s
  | .ray die cluster block => Sys2Proof.Machine.execRay die cluster block s
  | .cone die cluster block => Sys2Proof.Machine.execCone die cluster block s
  | .frustum die cluster block => Sys2Proof.Machine.execFrustum die cluster block s
  | .nodeVisit query path => Sys2Proof.Machine.execNodeVisit query path s
  | .recordCommit query path => Sys2Proof.Machine.execRecordCommit query path s
  | .done query => Sys2Proof.Machine.execDone query s
  | .continuationStart die cluster => Sys2Proof.Machine.execContinuationStart die cluster s
  | .fifoRunAppend block spos fifo => Sys2Proof.Machine.execFifoRunAppend block spos fifo s
  | .streamOperation block spos unit => Sys2Proof.Machine.execStreamOperation block spos unit s
  | .blockPlace die => Sys2Proof.Machine.execBlockPlace die s
  | .blockResourcesReturn block => Sys2Proof.Machine.execBlockResourcesReturn block s
  | .launchComplete job => Sys2Proof.Machine.execLaunchComplete job s
  | .cardAdmission die ring => Sys2Proof.Machine.execCardAdmission die ring s
  | .jobRelease job => Sys2Proof.Machine.execJobRelease job s
  | .instanceRelease job => Sys2Proof.Machine.execInstanceRelease job s
  | .preemption job => Sys2Proof.Machine.execPreemption job s
  | .nodeBatch die => Sys2Proof.Machine.execNodeBatch die s
  | .cutDrainEnd block => Sys2Proof.Machine.execCutDrainEnd block s
  | .drainTimeout block => Sys2Proof.Machine.execDrainTimeout block s
  | .blockResume die => Sys2Proof.Machine.execBlockResume die s
  | .deadline job => Sys2Proof.Machine.execDeadline job s
  | .budget job => Sys2Proof.Machine.execBudget job s
  | .bandwidth job die ctrl => Sys2Proof.Machine.execBandwidth job die ctrl s
  | .ckptovr block => Sys2Proof.Machine.execCkptovr block s
  | .errorRecordDeferredWrite die tenant => Sys2Proof.Machine.execErrorRecordDeferredWrite die tenant s
  | .regulatorWindow die => Sys2Proof.Machine.execRegulatorWindow die s
  | .srcmt die by_ ring v => Sys2Proof.Machine.execSrcmt die by_ ring v s
  | .srctl die ring v => Sys2Proof.Machine.execSrctl die ring v s
  | .qmctl die ring v => Sys2Proof.Machine.execQmctl die ring v s
  | .tlbinv die v => Sys2Proof.Machine.execTlbinv die v s
  | .tlbInvalidationComplete die => Sys2Proof.Machine.execTlbInvalidationComplete die s
  | .tways die tenant v => Sys2Proof.Machine.execTways die tenant v s
  | .carveOutChangeComplete die => Sys2Proof.Machine.execCarveOutChangeComplete die s
  | .tdrop die tenant => Sys2Proof.Machine.execTdrop die tenant s
  | .evcount die v => Sys2Proof.Machine.execEvcount die v s
  | .evctlReset die => Sys2Proof.Machine.execEvctlReset die s
  | .evctlFree die => Sys2Proof.Machine.execEvctlFree die s
  | .diemodeSingle die survivor => Sys2Proof.Machine.execDiemodeSingle die survivor s
  | .diemodeBoth die => Sys2Proof.Machine.execDiemodeBoth die s
  | .dtimelo seq => Sys2Proof.Machine.execDtimelo seq s
  | .irqack seq v => Sys2Proof.Machine.execIrqack seq v s
  | .hbeat seq v => Sys2Proof.Machine.execHbeat seq v s
  | .pwrlim die v => Sys2Proof.Machine.execPwrlim die v s
  | .fwcmdStage die powerImage passes version => Sys2Proof.Machine.execFwcmdStage die powerImage passes version s
  | .fwcmdCommit die powerImage => Sys2Proof.Machine.execFwcmdCommit die powerImage s
  | .firmwareFirstHeartbeat die => Sys2Proof.Machine.execFirmwareFirstHeartbeat die s
  | .firmwareRollback die => Sys2Proof.Machine.execFirmwareRollback die s
  | .registerWrite die trivet csr v => Sys2Proof.Machine.execRegisterWrite die trivet csr v s
  | .interruptLine seq line => Sys2Proof.Machine.execInterruptLine seq line s
  | .powerRequest die => Sys2Proof.Machine.execPowerRequest die s
  | .levelChange die cluster => Sys2Proof.Machine.execLevelChange die cluster s
  | .corePowerGate die core => Sys2Proof.Machine.execCorePowerGate die core s
  | .coreWake die core => Sys2Proof.Machine.execCoreWake die core s
  | .powerLimitTransition die => Sys2Proof.Machine.execPowerLimitTransition die s
  | .thermalTrip die => Sys2Proof.Machine.execThermalTrip die s
  | .powerOn passA passB images => Sys2Proof.Machine.execPowerOn passA passB images s
  | .ptpMessage die offset => Sys2Proof.Machine.execPtpMessage die offset s
  | .qbvGateEvent die port => Sys2Proof.Machine.execQbvGateEvent die port s
  | .ingestFrame die stream data => Sys2Proof.Machine.execIngestFrame die stream data s
  | .hostWrite pa data => Sys2Proof.Machine.execHostWrite pa data s
  | .hostRead pa len => Sys2Proof.Machine.execHostRead pa len s
  | .hostWindowCompletion acc lane status value => Sys2Proof.Machine.execHostWindowCompletion acc lane status value s
  | .getVersion die => Sys2Proof.Machine.execGetVersion die s
  | .getCapabilities die => Sys2Proof.Machine.execGetCapabilities die s
  | .negotiateAlgorithms die => Sys2Proof.Machine.execNegotiateAlgorithms die s
  | .getDigests die => Sys2Proof.Machine.execGetDigests die s
  | .getCertificate die => Sys2Proof.Machine.execGetCertificate die s
  | .challenge die => Sys2Proof.Machine.execChallenge die s
  | .getMeasurements die => Sys2Proof.Machine.execGetMeasurements die s
  | .patrol die vaults fixed => Sys2Proof.Machine.execPatrol die vaults fixed s
  | .uncorrectableErrorFound pa inCache => Sys2Proof.Machine.execUncorrectableErrorFound pa inCache s
  | .uncorrectableErrorConsumed job array core offset => Sys2Proof.Machine.execUncorrectableErrorConsumed job array core offset s
  | .remoteWriteResend die tag lost => Sys2Proof.Machine.execRemoteWriteResend die tag lost s
  | .remoteResponse die tag => Sys2Proof.Machine.execRemoteResponse die tag s
  | .linkRetry die => Sys2Proof.Machine.execLinkRetry die s
  | .trivetHeartbeat die => Sys2Proof.Machine.execTrivetHeartbeat die s
  | .dieLost lost => Sys2Proof.Machine.execDieLost lost s
  | .sequencerHang die num => Sys2Proof.Machine.execSequencerHang die num s
  | .powerSequencerHang die => Sys2Proof.Machine.execPowerSequencerHang die s
  | .lockstepMismatch die => Sys2Proof.Machine.execLockstepMismatch die s
  | .engineHung die engine => Sys2Proof.Machine.execEngineHung die engine s
  | .vaultRowSpare die vault row => Sys2Proof.Machine.execVaultRowSpare die vault row s
  | .coreSpare die core => Sys2Proof.Machine.execCoreSpare die core s
  | .waittTargetReached who => Sys2Proof.Machine.execWaittTargetReached who s
  | .watchdogAbandon job => Sys2Proof.Machine.execWatchdogAbandon job s
  | .remoteReadResend acc => Sys2Proof.Machine.execRemoteReadResend acc s
  | .keptResultAged die => Sys2Proof.Machine.execKeptResultAged die s
  | .configurationRequest die => Sys2Proof.Machine.execConfigurationRequest die s

end Sys2Proof.Machine
end

