-- ==== Sys2Proof/Machine/Fetch.lean ====
section
/-! DEFINITION. Fetching and issuing the next instruction (R48, R154, R176), the selection of a warp by
a port (R45, R46), the turns of the agenda, and placing one instruction where the next step fetches. -/

namespace Sys2Proof.Machine

/-- The outcome of a fetch. -/
inductive Fetched where
  /-- The word at the program counter. -/
  | word (s : State) (w : IWord)
  /-- Nothing is fetched: the state that results. -/
  | none (s : State)

/-- Fetch the word of a path (R48). The fetch needs PEX and never reads a local aperture; a translation
fault or a poisoned fill parks it (R154, R400), and an absent home faults the job (R438). -/
def State.fetch (s : State) (who : Issuer) (w : Warp) (pc : Pc) : Fetched :=
  let g := s.agentOf who w
  let va := pc.toNat * 16
  let parked := fun (s : State) (page reason sector : Nat) =>
    (s.setWarp who { w with fetchPark := true }).park (.fetch who) g 1 page reason sector
  if isLocal va then .none (parked s (va / 65536) 1 0)
  else
    let r := s.gatePa g.tenant (s.asks g va false ⟨false, false, true⟩)
    if r.2 then .none r.1 else
    let s := r.1
    match s.readPaged g false va 16 ⟨false, false, true⟩ with
    | (s, .ok r) => .word s (wordOfBytes r.1)
    | (s, .park p r c) => .none (parked s p r c)
    | (s, .offline v d) =>
      match g.job with
      | some j => .none (s.faultAccess j 1 1 v d 0)
      | none => .none s
    | (s, _) => .none s

/-! ## Issue ports -/

/-- The issue port Y of an instruction (R45, R66): OP 0x41 and the groups 0x7_ and above. -/
def portY (op : Nat) : Bool := op == 0x41 || decide (0x70 ≤ op)

/-- The port to which an instruction word belongs. -/
def wordPort (iw : IWord) : Bool := portY (iw.toNat % 256)

/-- The key of a port of a partition, under the clock of its core. -/
def portKey (clock part : Nat) (y : Bool) : Nat := clock * 32 + part * 2 + if y then 1 else 0

/-- Has the port been used in the present cycle (R45)? -/
def State.portUsed (s : State) (key : Nat) : Bool := alook key s.ports == some s.cycle

/-- Has a warp issued between two states: it has a new issue record, it has begun or ended a wait, it has trapped, or its
instruction bars or ends it? -/
def State.issuedBy (who : Issuer) (w : Warp) (u : State) : Bool :=
  match u.warp? who with
  | none => true
  | some v => v.lastIssue != w.lastIssue || v.heldAt != w.heldAt || v.frozen != w.frozen || u.barred who v

/-- The port on which the warp has issued is used in this cycle. A wait that has issued uses none when it ends. -/
def State.usePort (s : State) (who : Issuer) (w : Warp) (y : Bool) (u : State) : State :=
  if w.heldAt.isNone && u.issuedBy who w then { u with ports := aput (portKey (s.clockKey who) w.part y) s.cycle u.ports }
  else u

/-- The current issuer executes a fetched word: a word that the decoder refuses raises the illegal-instruction trap
(R50). -/
def State.execWord (s : State) (who : Issuer) (p : PathEntry) (iw : IWord) : Host.Outcome State Fault Refusal :=
  match decode iw with
  | some i => exec i s
  | none => .next (s.takeTrap who 0x01 p.mask 0 p.pc)

/-- The current issuer fetches, decodes and executes the next instruction of its active path, where its stall count has
elapsed (R47) and its port is free (R45). -/
def State.issueNext (s : State) : Host.Outcome State Fault Refusal :=
  match s.cur with
  | none => .next s.idle
  | some who =>
    match s.warp? who with
    | none => .next s.idle
    | some w =>
      match s.dueStep who w with
      | some t => .next t
      | none =>
        match w.active with
        | none => .next s.idle
        | some p =>
          if s.barred who w || decide (s.cycle < w.notBefore) then .next s.idle
          else
            match s.fetch who w p.pc with
            | .none t => .next t.idle
            | .word t iw =>
              if w.heldAt.isNone && s.portUsed (portKey (s.clockKey who) w.part (wordPort iw)) then .next t.idle
              else match t.execWord who p iw with
                | .next u => .next (s.usePort who w (wordPort iw) u)
                | o => o

/-! ## Port selection -/

/-- The port on which the warp is ready (R43): nothing bars it, its stall count has elapsed, it is held at no wait, and
no step trap is due, and its next instruction issues when tried. -/
def State.readyPort (s : State) (who : Issuer) (w : Warp) : Option Bool :=
  let s := s.onClock (s.clockKey who)
  match w.active with
  | none => none
  | some p =>
    if w.stepDue.isSome || w.heldAt.isSome || decide (s.cycle < w.notBefore) || s.barred who w then none
    else match s.fetch who w p.pc with
      | .none _ => none
      | .word t iw => match ({ t with cur := some who } : State).execWord who p iw with
        | .next u => if u.issuedBy who w then some (wordPort iw) else none
        | _ => none

/-- After a turn each warp is ready since the cycle in which it has become so, or not ready (R46). -/
def State.ripen (old s : State) : State :=
  { s with warps := s.warps.map fun q => (q.1, { q.2 with
      readySince := if (s.readyPort q.1 q.2).isSome
        then some (q.2.readySince.getD (max q.2.notBefore (old.clock (s.clockKey q.1)))) else none }) }

/-- The counted priority of a ready warp (R46): −1, 0 to 3, or 4 in the 64th cycle in which it is ready, the present one
counted. Shifted by one. -/
def State.counted (s : State) (w : Warp) : Nat :=
  if w.readySince.any fun c => decide (c + 64 ≤ s.cycle + 1) then 5
  else if w.yl || (w.yieldAt.isSome && w.yieldAt == w.lastIssue && decide (s.cycle < (w.lastIssue.getD 0) + 64)) then 0
  else w.prio + 1

/-- Does warp a go before warp b (R46)? -/
def State.before (s : State) (a b : Issuer × Warp) : Bool :=
  let pa := s.counted a.2
  let pb := s.counted b.2
  if pa != pb then decide (pb < pa)
  else match a.2.lastIssue, b.2.lastIssue with
    | none, some _ => true
    | some _, none => false
    | some x, some y => decide (x < y)
    | none, none =>
      if a.2.placed != b.2.placed then decide (a.2.placed < b.2.placed)
      else match a.1, b.1 with
        | .warp g i, .warp h j =>
          let no := fun (k : Nat) => ((s.block? k).map (·.no)).getD 0
          if no g != no h then decide (no g < no h) else if g != h then decide (g < h) else decide (i < j)
        | _, _ => true

/-- The warps of a partition. -/
def State.partWarps (s : State) (d : DieId) (core part : Nat) : List (Issuer × Warp) :=
  s.warps.filter fun q => s.placeOf q == some (d, core) && q.2.part == part

/-- The warps that are ready on a port of a partition. -/
def State.candidates (s : State) (d : DieId) (core part : Nat) (y : Bool) : List (Issuer × Warp) :=
  (s.partWarps d core part).filter fun q => s.readyPort q.1 q.2 == some y

/-- What a partition does in a cycle beside the selections of its ports: a warp whose step trap is due takes it, one whose
wait has ended goes on (R58), and one whose fetch fails parks or faults its job (R154). -/
def State.attend (s : State) (who : Issuer) : State :=
  match s.warp? who with
  | none => s
  | some w =>
    if w.stepDue.isSome || w.heldAt.isSome then
      match ({ s with cur := some who } : State).issueNext with
      | .next u => if u.issuedBy who w then { u with cur := s.cur } else s
      | _ => s
    else match w.active with
      | none => s
      | some p =>
        if s.barred who w || decide (s.cycle < w.notBefore) then s
        else match s.fetch who w p.pc with
          | .none t => t
          | .word .. => s

/-- The selection of a port is over: the YL of a warp that took part lasted for it only (R46). -/
def State.afterSelection (s : State) (cands : List (Issuer × Warp)) : State :=
  { s with warps := s.warps.map fun q => if cands.any (fun c => c.1 == q.1) then (q.1, { q.2 with yl := false }) else q }

/-- The warp that a port selects (R46). -/
def State.select (s : State) (cands : List (Issuer × Warp)) : Option Issuer :=
  (cands.foldl (fun (best : Option (Issuer × Warp)) q => match best with
    | none => some q
    | some b => if s.before q b then some q else some b) none).map (·.1)

/-! ## Turns -/

/-- Is it a device event and no instruction of R67? -/
def isEvent (i : Instr) : Bool := (encodeFields i).isNone

/-- One turn of the agenda. An instruction is no event: it issues only by fetch. -/
def State.turn (s : State) : Turn → Host.Outcome State Fault Refusal
  | .issue w => ({ s.onClock (s.clockKey w) with cur := some w } : State).issueNext
  | .slot d core part y =>
    let s := s.onClock (coreKey d core)
    let s := ((s.partWarps d core part).map (·.1)).foldl State.attend s
    let cands := s.candidates d core part y
    if s.portUsed (portKey (coreKey d core) part y) then .next s.idle
    else match s.select cands with
      | some w => ({ s.afterSelection cands with cur := some w } : State).issueNext
      | none => .next s.idle
  | .event e => if isEvent e then exec e s else .next s
  | .pass ns => .next (s.tick (2 * ns))
  | .dropTlb d u t p => .next { s with tlb := s.tlb.filter fun x => !(x.die == d && x.unit == u && x.tenant == t && x.page == p) }
  | .dropL1 d c l => .next { s with l1 := s.l1.filter fun x => !(x.die == d && x.core == c && x.line == l) }
  | .dropMsc d l => .next (s.mscEvict fun m => m.die == d && m.line == l)
  | .copyStart d core block => .next (s.copyStart d core block fun _ => true)
  | .copyPiece cmd lost => .next (s.copyPiece cmd lost)
  | .nodePiece query path off => .next (s.nodePiece query path off)
  | .fill id => .next (s.fill id)
  | .frame d k => .next (s.retryFrame d k)
  | .bytes id lane lo n => .next (s.performBytes id lane lo n)
  | .corrected d array rows => .next (s.correctAt d array rows)
  | .spread job inst d add => .next (s.spread job inst d add)

/-- The next turn of the agenda, or with none left the current issuer issues. -/
def State.takeTurn (s : State) : Host.Outcome State Fault Refusal :=
  match s.agenda with
  | [] => s.issueNext
  | t :: ts => ({ s with agenda := ts } : State).turn t

/-- One step: a turn, after which each warp is ready or not. -/
def State.advanceOne (s : State) : Host.Outcome State Fault Refusal :=
  match s.takeTurn with
  | .next t => .next (s.ripen t)
  | o => o

/-! ## Placing one instruction -/

/-- The physical address from which the current issuer would fetch. -/
def State.fetchPa (s : State) : Option Nat :=
  match s.cur with
  | none => none
  | some who => match s.warp? who with
    | none => none
    | some w => match w.active with
      | none => none
      | some p =>
        if isLocal (p.pc.toNat * 16) then none
        else match (s.translate (s.agentOf who w) (p.pc.toNat * 16) ⟨false, false, true⟩).2 with
          | some x => some (s.readCopy (s.agentOf who w).die x)
          | none => none

/-- A kernel descriptor of one warp with every register: span 1, scratchpad 64 KiB, 8 barriers, 8 tiles,
64 slots, 1 FIFO, CODE 0, role 0 with budget 384 (R79). -/
def seedKd : BitVec 2048 :=
  BitVec.ofNat 2048 (0x444B + 1 * 2 ^ 16 + 1 * 2 ^ 32 + 8 * 2 ^ 40 + 1 * 2 ^ 48 + 64 * 2 ^ 64 + 8 * 2 ^ 80 +
    64 * 2 ^ 96 + 1 * 2 ^ 304 + (48 * 2 ^ 32 + 1 * 2 ^ 40 + 1 * 2 ^ 49 + 32 * 2 ^ 53) * 2 ^ 1024)

/-- A card of tenant 1 with one block (R80). -/
def seedCard : BitVec 2048 :=
  BitVec.ofNat 2048 (0x434A + 1 * 2 ^ 16 + 1 * 2 ^ 35 + 1 * 2 ^ 37 + 4 * 2 ^ 192 + 1 * 2 ^ 288)

def seedBlock (h job : Nat) : Block where
  handle := h
  job := job
  inst := 0
  no := 0
  tenant := 1
  die := false
  cluster := 0
  base := 0
  kdVa := 0
  kd := seedKd
  order := 0
  cls := 1
  lmask := 0
  ckptSince := 0
  since := 0
  ckno := none
  stopReq := none
  stopFor := none
  cut := none
  halted := false
  late := 0
  dropped := 0
  invq := 0
  conts := 0
  limq := 0
  mapq := 0
  tiles := []
  slots := []
  units := []
  fifos := []
  streams := []
  coming := []
  ctxs := []
  cull := []
  overflow := []
  scratchAt := [[(0, 65536)]]
  storeAt := [[(0, 67584)]]
  batch := none
  passed := false
  abandonAt := none

def seedInst : Inst where
  no := 0
  rel := 0
  deadline := none
  first := true
  remaining := 0
  nextBlock := 1
  budgetUsed := 0
  resSince := none
  estimate := 0
  stopped := false
  ddlDone := false
  switched := false
  rollbacks := 0
  doneAt := none
  sums := []
  ended := none
  status := none
  kills := 0
  leaving := none

def seedJob (id : Nat) : Job where
  id := id
  die := false
  no := 0
  tenant := 1
  ring := 0
  card := seedCard
  kdVa := 0
  kd := seedKd
  open_ := []
  rel := some 0
  nextInst := 1
  tokens := 0
  windows := []
  insts := [seedInst]
  batch := none
  gone := false
  cancelled := false
  firstSince := none
  throttled := 0
  bwAt := none
  bwWin := none

/-- Load a one-warp program from outside: page tables of tenant 1 at PA 0 (the root at reset) that map
virtual page 0 to PA 0x2_0000 with every permission, one job, one block and one warp at PC 0. -/
def State.seed (s : State) : State :=
  let h := s.nextId
  let x := s.dieA
  let entry := fun (e : Nat) => toBytes 8 e
  { s with
    nextId := s.nextId + 2
    cur := some (.warp h 0)
    clockOf := 0
    mem := putBytes (putBytes (putBytes s.mem 0 (entry (0x8000 + 1))) 0x8000 (entry (0x10000 + 1)))
      0x10000 (entry (0x20000 + 0x70 + 3))
    dieA := { x with pcsr := sset 0 (sset 0 x.pcsr 0x111 0) 0x112 0, lost := false }
    warps := s.warps ++ [(.warp h 0, Warp.fresh 0 0 0 0 384 0 (BitVec.allOnes 32) 0)]
    blocks := s.blocks ++ [seedBlock h (h + 1)]
    jobs := s.jobs ++ [seedJob (h + 1)] }

/-- The first cycle in which the current issuer may issue, with every port free. -/
def State.atIssue (s : State) : State :=
  match s.cur with
  | none => s
  | some who => match s.warp? who with
    | none => s
    | some w => { s with cycle := max s.cycle w.notBefore, ports := [] }

/-- Place a word where the next step fetches, loading a program first where no issuer can fetch. -/
def State.placeWord (s : State) (w : IWord) : State :=
  let s := { s with agenda := [] }
  match s.fetchPa with
  | some pa => (s.store pa (bytesOfWord w)).atIssue
  | none => (s.seed.store 0x20000 (bytesOfWord w)).atIssue

end Sys2Proof.Machine
end

