-- ==== Sys2Proof/Machine/Step.lean ====
section
/-! DEFINITION. One step of the machine, and the placing of one instruction for the next step. -/

namespace Sys2Proof.Machine

/-- One step: the next turn of the agenda, or the current issuer issues. -/
def step (s : State) : Host.Outcome State Fault Refusal := s.advanceOne

/-- `s` with the instruction of `nbits` bits `w` (every bit above them zero) stored where the next step
fetches (R48). -/
def State.withFetchWord (s : State) (nbits w : Nat) : State :=
  s.placeWord (BitVec.ofNat 128 (w % 2 ^ nbits))

end Sys2Proof.Machine
end

