-- ==== Sys2Proof/Safety.lean ====
section
/-! DEFINITION. What the statements mean by a safe state (the memory in its canonical form), by an
instruction that may issue, and by one that retires and leaves everything else as it was. -/

namespace Sys2Proof.Machine

/-- Addresses strictly rising, and no entry equal to what an unlisted address reads as. -/
abbrev Memory.wf (m : List Host.Cell) : Bool := swf 0 m

/-- The memory of a state is in its canonical form. -/
abbrev State.MemOk (s : State) : Prop := Memory.wf s.mem = true

/-- The set `active` (R9): the path's live lanes that pass both guards. -/
def Warp.activeLanes (w : Warp) (p : PathEntry) (h : Hdr) : Mask := p.mask &&& w.laneGuard h &&& w.live

/-- The issuer's active path may issue a form that reads the registers `rd` and writes `wr` (R30, R43, R47,
R62 to R64, R69): nothing bars the warp, its stall count has elapsed, no unwritten register stands against the form, its counter is
below 63, the issuer may execute the form, and its lane registers lie below the warp's budget. -/
structure State.CanIssue (s : State) (cls : Cls) (rd wr : List Nat) (ctr : Option Ctr) (who : Issuer) (w : Warp)
    (p : PathEntry) : Prop where
  cur : s.cur = some who
  warp : s.warp? who = some w
  path : w.active = some p
  clear : s.barred who w = false
  elapsed : w.notBefore ≤ s.cycle
  free : ∀ q ∈ w.pend, ∀ r ∈ q.regs, r ∉ wr ∧ (q.locked = true → r ∉ rd)
  room : ∀ c, ctr = some c → w.counter c < 63
  class_ : cls.allows who = true
  budget : ∀ r ∈ rd ++ wr, 384 ≤ r ∨ r < w.budget

/-- The instruction has retired in `t`, and its warp is `v`: the issue is recorded with the issue fields `h`
(R46, R47), from the cycle in which a wait that held the warp issued (R58); every other warp is as before, and every byte of memory reads as before. -/
structure State.RetiredIn (s : State) (who : Issuer) (w : Warp) (h : Hdr) (t : State) (v : Warp) : Prop where
  warp : t.warp? who = some v
  others : ∀ i, i ≠ who → t.warp? i = s.warp? i
  memory : ∀ a, t.byte a = s.byte a
  time : t.cycle = s.cycle
  record : v.notBefore = w.heldAt.getD (s.cycle) + 1 + h.sc.toNat ∧
    v.lastIssue = some (w.heldAt.getD (s.cycle)) ∧ v.yl = h.yl ∧ v.heldAt = none

/-- The instruction has retired in `t`, and its warp is `v`: everything else of the state is as before. -/
structure State.Retired (s : State) (who : Issuer) (w : Warp) (h : Hdr) (t : State) (v : Warp) : Prop where
  core : s.RetiredIn who w h t v
  rest : { t with warps := s.warps } = s

/-- Of warp `w`, `v` differs at most in its registers, predicates, condition codes, paths and issue record. -/
def Warp.SameControl (w v : Warp) : Prop :=
  { v with
    vregs := w.vregs, gregs := w.gregs, preds := w.preds
    ccC := w.ccC, ccZ := w.ccZ, ccN := w.ccN, ccV := w.ccV
    paths := w.paths, spill := w.spill, notBefore := w.notBefore, lastIssue := w.lastIssue, readySince := w.readySince
    heldAt := w.heldAt, yl := w.yl, hold := w.hold } = w

/-- Of warp `w`, `v` differs at most in its paths and issue record: every register, predicate and condition
code is as before. -/
def Warp.SameData (w v : Warp) : Prop :=
  { v with
    paths := w.paths, spill := w.spill, notBefore := w.notBefore, lastIssue := w.lastIssue, readySince := w.readySince
    heldAt := w.heldAt, yl := w.yl, hold := w.hold } = w

/-- Lane `L` stands at `pc` under join index `j`, parked or not: some path of the warp holds it there (R147). -/
def Warp.Stands (w : Warp) (L : Nat) (pc : Pc) (j : BitVec 4) (parked : Bool) : Prop :=
  ∃ q ∈ w.paths, q.mask.getLsbD L = true ∧ q.pc = pc ∧ q.jidx = j ∧ q.park = parked

/-- The path of the instruction has gone on to the next word (R43), the spill area with it (R149). -/
def Warp.WentOn (w : Warp) (p : PathEntry) (v : Warp) : Prop :=
  v.paths = (w.advance p).paths ∧ v.joins = w.joins ∧ v.spill = (w.advance p).spill

/-- The registers of `v` are those of `w`, but a destination of `n` registers at `d`, which holds the words
of `f`: for a lane name in every lane of `act` its own value, for a uniform name the value of the lowest
lane of `act`, written once, and nothing when `act` is empty (R9, R52, R53). -/
def Warp.Wrote (w v : Warp) (n : Nat) (d : Reg) (act : Mask) (f : Nat → Nat) : Prop :=
  (∀ r L, L < 32 → (r < d.toNat ∨ d.toNat + n ≤ r) → v.word r L = w.word r L) ∧
  ∀ i L, i < n → L < 32 → v.word (d.toNat + i) L =
    if d.toNat < 384 then (if act.getLsbD L then wordAt (f L) i else w.word (d.toNat + i) L)
    else match lowLane act with
      | some low => wordAt (f low) i
      | none => w.word (d.toNat + i) L

/-- Every register of `v` is that of `w`. -/
def Warp.SameRegs (w v : Warp) : Prop := ∀ r L, L < 32 → v.word r L = w.word r L

/-- Every predicate of `v` is that of `w`, in every lane. -/
def Warp.SamePreds (w v : Warp) : Prop := ∀ q L, L < 32 → (v.pred q).getLsbD L = (w.pred q).getLsbD L

/-- Every condition code of `v` is that of `w`, in every lane. -/
def Warp.SameCC (w v : Warp) : Prop := ∀ L, L < 32 → v.cc L = w.cc L

/-- The predicates of `v` are those of `w`, but predicate `pd`, which holds `f` in the lanes of `act`; a
destination of 7 discards (R112). -/
def Warp.WrotePred (w v : Warp) (pd : Nat) (act : Mask) (f : Nat → Bool) : Prop :=
  ∀ q L, L < 32 → (v.pred q).getLsbD L =
    if q = pd ∧ q ≠ 7 ∧ act.getLsbD L = true then f L else (w.pred q).getLsbD L

/-- The condition codes of `v` are those of `w`, but with CC = 1 those of the lanes of `act` are `f` (R56). -/
def Warp.WroteCC (w v : Warp) (on : Bool) (act : Mask) (f : Nat → CC) : Prop :=
  ∀ L, L < 32 → v.cc L = if on = true ∧ act.getLsbD L = true then f L else w.cc L

/-- The instruction `i`, with issue fields `h`, that reads the registers `rd` and writes `wr`, completes
wherever it may issue, single stepping is off and no soft error strikes: its warp `w` becomes `v` with
`post`, its path goes on, and nothing else changes. `post` gets the state, the issuer, `w`, the set
`active` and `v`. -/
def LaneCompletes (i : Instr) (h : Hdr) (rd wr : List Nat)
    (post : State → Issuer → Warp → PathEntry → Mask → Warp → Prop) : Prop :=
  ∀ s who w p, i.WellFormed → s.CanIssue .shared rd wr none who w p → w.stepping = false → s.upsets = [] →
    ∃ t v, exec i s = .next t ∧ s.Retired who w h t v ∧ w.WentOn p v ∧ w.SameControl v ∧
      post s who w p (w.activeLanes p h) v

/-- The instruction `i` completes as `post` says wherever it may issue, single stepping is off, no soft error
strikes and `pre` holds. Both get the state, the issuer, its warp, its path and the set `active`; `post` gets
the next state too. -/
def Completes (i : Instr) (h : Hdr) (cls : Cls) (rd wr : List Nat) (ctr : Option Ctr)
    (pre : State → Issuer → Warp → PathEntry → Mask → Prop)
    (post : State → Issuer → Warp → PathEntry → Mask → State → Prop) : Prop :=
  ∀ s who w p, i.WellFormed → s.CanIssue cls rd wr ctr who w p → w.stepping = false → s.upsets = [] →
    pre s who w p (w.activeLanes p h) → ∃ t, exec i s = .next t ∧ post s who w p (w.activeLanes p h) t

/-- What a memory form does where every address passes the issue checks. `n` is the access size, `bw` whether it is byte-wise, `wr` whether it may not touch a barrier
object, `spec` says what the entered access is. -/
def MemoryForm (i : Instr) (h : Hdr) (rd regs : List Nat) (c : Ctr) (n : Nat) (bw wr : Bool) (addr : Warp → Nat → Nat)
    (spec : Warp → Machine.Acc → Prop) (data : Warp → Nat → Nat × Nat) : Prop :=
  Completes i h .shared rd regs (some c)
    (fun s who w _ act => act ≠ 0 ∧ ∀ L, act.getLsbD L = true →
      (bw = true ∨ addr w L % n = 0) ∧ ∀ k, k < n → s.apertureOk (s.agentOf who w) (addr w L + k) = true ∧
        s.boundsOk (s.agentOf who w) (addr w L + k) = true ∧
        (wr = true → s.inBarrier (s.agentOf who w) (addr w L + k) = false))
    fun s who w p act t => ∃ v a, s.RetiredIn who w h t v ∧ w.WentOn p v ∧
      w.SameRegs v ∧ w.SamePreds v ∧ w.SameCC v ∧
      t.accs = s.accs ++ [a] ∧ a.id = s.nextId ∧ t.nextId = s.nextId + 1 ∧ a.who = who ∧ a.all = act ∧ a.size = n ∧
      a.bw = bw ∧ spec w a ∧
      a.lanes = (lanesOf act).map (fun L => ⟨L, addr w L, (data w L).1, (data w L).2, false⟩) ∧
      v.counter c = w.counter c + 1 ∧ (∀ c', c' ≠ c → v.counter c' = w.counter c') ∧
      v.pend = (if regs = [] then w.pend else w.pend ++ [⟨s.nextId, act, regs, false⟩])

/-- An operation that a form has brought to its block: its number, issuer, instruction, lanes and register sources. -/
def StreamOp.Is (o : StreamOp) (id : Nat) (who : Issuer) (i : Instr) (lanes : Mask) (src : Nat → List Word)
    (cfg : Option (List Word)) : Prop :=
  o.id = id ∧ o.who = who ∧ o.instr = i ∧ o.lanes = lanes ∧ o.begun = false ∧ alook 32 o.src = cfg ∧
    ∀ L, lanes.getLsbD L = true → alook L o.src = some (src L)

/-- The form has retired, and one operation with the lanes' register sources is bound for each unit of `units` of its
block on the issuing core (R231, R287): it arrives in the cycle of the issue at the unit that serves the warp's partition,
and 4 cycles later at any other (R229, R230). Every earlier operation and every stream stays as it was, the TL counter rises by one, the registers `wr` count as unwritten, and nothing of the tiles,
slots, unit states, registers or memory has changed. -/
def State.EntersStreams (s : State) (i : Instr) (h : Hdr) (who : Issuer) (w : Warp) (p : PathEntry) (act : Mask)
    (wr : List Nat) (units : List Nat) (lanes : Nat → Mask) (src : Nat → List Word) (cfg : Option (List Word))
    (t : State) : Prop :=
  ∃ blk wid b b' v, who = .warp blk wid ∧ s.block? blk = some b ∧ t.block? blk = some b' ∧
    s.RetiredIn who w h t v ∧ w.WentOn p v ∧ w.SameRegs v ∧ w.SamePreds v ∧ w.SameCC v ∧
    v.counter .tl = w.counter .tl + 1 ∧ (∀ c, c ≠ .tl → v.counter c = w.counter c) ∧
    v.pend = (if wr = [] then w.pend else w.pend ++ [⟨s.nextId, act, wr, true⟩]) ∧ t.nextId = s.nextId + 1 ∧
    b'.tiles = b.tiles ∧ b'.slots = b.slots ∧ b'.units = b.units ∧ b'.cull = b.cull ∧
    b'.streams = b.streams ∧
    (∀ key id, id ∈ (b'.unitOps key).map (·.id) ↔
      id ∈ (b.unitOps key).map (·.id) ∨ (id = s.nextId ∧ key ∈ units.map (unitKey w.spos))) ∧
    ∀ m ∈ units, ∃ a ∈ b'.coming, a.due = (if m = w.part / 4 then s.cycle else s.cycle + 4) ∧ a.spos = w.spos ∧
      a.unit = m ∧ a.part = w.part ∧ a.op.Is s.nextId who i (lanes m) src cfg

/-- The operation at the head of a block's stream in a unit has performed and left it, and the block is `b'`. -/
def State.HeadDone (s : State) (handle spos unit : Nat) (os : List StreamOp) (t : State) (b' : Block) : Prop :=
  t.block? handle = some b' ∧ (b'.stream (unitKey spos unit)).map (·.id) = os.map (·.id) ∧ ∀ a, t.byte a = s.byte a

/-- A destination holds the words of `f`; predicates and condition codes are as before. -/
def Warp.Result (w v : Warp) (n : Nat) (d : Reg) (act : Mask) (f : Nat → Nat) : Prop :=
  w.Wrote v n d act f ∧ w.SamePreds v ∧ w.SameCC v

/-- A destination holds the words of `f` and, with CC = 1, the condition codes are `c`; predicates are as
before. -/
def Warp.ResultCC (w v : Warp) (n : Nat) (d : Reg) (cc : Bool) (act : Mask) (f : Nat → Nat) (c : Nat → CC) : Prop :=
  w.Wrote v n d act f ∧ w.SamePreds v ∧ w.WroteCC v cc act c

end Sys2Proof.Machine
end

