-- ==== Sys2Proof/Certificates/Slice0/Obligations.lean ====
section
/-! DEFINITION. The statements for the provers. -/

section

open Sys2Proof Sys2Proof.Machine

/-! ## Group 0x0_ -/

/-- The eight INT forms under the pseudo-code of R117, and IDOT.DP4 under that of R120. `a`, `b` are the sources read
by the sign of TY, `ua`, `ub` their unsigned readings, `ci` the incoming C of ADDC and SUBB. The frame is that of
`LaneCompletes`: no other register, no predicate, and the condition codes only with CC = 1. -/
def Obligations.IntFormsCompute : Prop :=
  (∀ (x : IntBin) (y : IntUn),
     let n := x.ty.width
     let rd := span x.ty.regs x.a ++ spanB x.ty.regs x.b
     let wr := span x.ty.regs x.d
     let fit := fun (ty : LTy) (sat : Bool) (v : Int) =>
       ((if sat then (if v < LTy.lo ty then LTy.lo ty else if LTy.hi ty < v then LTy.hi ty else v) else v) % 2 ^ ty.width).toNat
     let code := fun (n d : Nat) (c v : Bool) => (⟨c, decide (d = 0), bitAt d (n - 1), v⟩ : CC)
     let outside := fun (n : Nat) (v : Int) => decide (v < -(2 ^ (n - 1)) ∨ (2 ^ (n - 1) : Int) - 1 < v)
     let read := fun (ty : LTy) (u : Nat) => if ty.isSigned then signedOf ty.width u else (u % 2 ^ ty.width : Nat)
     let ua := fun (w : Warp) L => w.src x.ty x.a L
     let ub := fun (w : Warp) L => w.srcB x.ty x.b L
     let a := fun w L => read x.ty (ua w L)
     let b := fun w L => read x.ty (ub w L)
     let ci := fun (w : Warp) L => if w.ccC.getLsbD L then 1 else 0
     let bin := fun (i : Instr) (v : Warp → Nat → Int) (c o : Warp → Nat → Bool) =>
       LaneCompletes i x.h rd wr fun _ _ w _ act u =>
         w.ResultCC u x.ty.regs x.d x.cc act (fun L => fit x.ty x.sat (v w L))
           fun L => code n (fit x.ty x.sat (v w L)) (c w L) (o w L)
     let sum := fun (i : Instr) (ci : Warp → Nat → Nat) => bin i (fun w L => a w L + b w L + ci w L)
       (fun w L => decide (2 ^ n ≤ ua w L % 2 ^ n + ub w L % 2 ^ n + ci w L))
       (fun w L => outside n (signedOf n (ua w L) + signedOf n (ub w L) + ci w L))
     let diff := fun (i : Instr) (ci : Warp → Nat → Nat) => bin i (fun w L => a w L - b w L - ci w L)
       (fun w L => decide (ua w L % 2 ^ n < ub w L % 2 ^ n + ci w L))
       (fun w L => outside n (signedOf n (ua w L) - signedOf n (ub w L) - ci w L))
     let one := fun (i : Instr) (v : Int → Int) (c : Nat → Bool) =>
       LaneCompletes i y.h (span y.ty.regs y.a) (span y.ty.regs y.d) fun _ _ w _ act u =>
         let s := fun L => signedOf y.ty.width (w.src y.ty y.a L)
         w.ResultCC u y.ty.regs y.d y.cc act (fun L => fit y.ty y.sat (v (s L)))
           fun L => code y.ty.width (fit y.ty y.sat (v (s L))) (c (w.src y.ty y.a L)) (decide (s L = -(2 ^ (y.ty.width - 1))))
     sum (.intAdd x) (fun _ _ => 0) ∧ sum (.intAddc x) ci ∧ diff (.intSub x) (fun _ _ => 0) ∧ diff (.intSubb x) ci ∧
     bin (.intMin x) (fun w L => if a w L ≤ b w L then a w L else b w L) (fun _ _ => false) (fun _ _ => false) ∧
     bin (.intMax x) (fun w L => if b w L ≤ a w L then a w L else b w L) (fun _ _ => false) (fun _ _ => false) ∧
     one (.intNeg y) (fun v => -v) (fun u => decide (u % 2 ^ y.ty.width ≠ 0)) ∧
     one (.intAbs y) (fun v => if 0 ≤ v then v else -v) (fun _ => false)) ∧
  (∀ x : Dot4, LaneCompletes (.idotDp4 x) x.h (span 1 x.a ++ spanB 1 x.b ++ span 1 x.c) (span 1 x.d) fun _ _ w _ act v =>
     let read := fun (n u : Nat) => if x.ty.isSigned then signedOf n u else (u % 2 ^ n : Nat)
     let byte := fun (u k : Nat) => u / 256 ^ k % 256
     w.Result v 1 x.d act fun L =>
       let a := w.src x.ty x.a L
       let b := w.srcB x.ty x.b L
       let y := read 32 (w.src x.ty x.c L) + ((List.range 4).map fun k => read 8 (byte a k) * read 8 (byte b k)).sum
       if x.sat then ((if y < LTy.lo x.ty then LTy.lo x.ty else if LTy.hi x.ty < y then LTy.hi x.ty else y) % 2 ^ 32).toNat
       else (y % 2 ^ 32).toNat)

/-- IMUL under the table of R118: `p` is the exact product, `c` is C at the width of its register or pair. IDIV
under the pseudo-code of R119: a zero divisor, the most negative number over −1, and otherwise the quotient toward
zero with the remainder that it leaves. -/
def Obligations.ProductAndQuotientFormsCompute : Prop :=
  (∀ (x : Typed2) (y : Typed3),
     let read := fun (ty : LTy) (n u : Nat) => if ty.isSigned then signedOf n u else (u % 2 ^ n : Nat)
     let low := fun (n : Nat) (v : Int) => (v % 2 ^ n).toNat
     let two := fun (i : Instr) (m k : Nat) (f : Int → Int) =>
       LaneCompletes i x.h (span x.ty.regs x.a ++ spanB x.ty.regs x.b) (span m x.d) fun _ _ w _ act v =>
         w.Result v m x.d act fun L =>
           low k (f (read x.ty x.ty.width (w.src x.ty x.a L) * read x.ty x.ty.width (w.srcB x.ty x.b L)))
     let three := fun (i : Instr) (m k : Nat) (f : Int → Int → Int) =>
       LaneCompletes i y.h (span y.ty.regs y.a ++ spanB y.ty.regs y.b ++ span m y.c) (span m y.d) fun _ _ w _ act v =>
         w.Result v m y.d act fun L =>
           low k (f (read y.ty y.ty.width (w.src y.ty y.a L) * read y.ty y.ty.width (w.srcB y.ty y.b L))
             (read y.ty k (w.group m y.c.toNat L)))
     let n := x.ty.width
     let m := y.ty.width
     two (.imulLo x) x.ty.regs n (fun p => p) ∧ two (.imulHi x) x.ty.regs n (fun p => p / 2 ^ n) ∧
     two (.imulWide x) 2 64 (fun p => p) ∧
     three (.imulMadlo y) y.ty.regs m (fun p c => p + c) ∧ three (.imulMadhi y) y.ty.regs m (fun p c => p / 2 ^ m + c) ∧
     three (.imulMadwide y) 2 64 (fun p c => p + c)) ∧
  (∀ x : Typed2,
     let n := x.ty.width
     let read := fun (u : Nat) => if x.ty.isSigned then signedOf n u else (u % 2 ^ n : Nat)
     let form := fun (i : Instr) (f : Int → Int → Int) =>
       LaneCompletes i x.h (span x.ty.regs x.a ++ spanB x.ty.regs x.b) (span x.ty.regs x.d) fun _ _ w _ act v =>
         w.Result v x.ty.regs x.d act fun L => (f (read (w.src x.ty x.a L)) (read (w.srcB x.ty x.b L)) % 2 ^ n).toNat
     form (.idivDiv x) (fun a b => if b = 0 then (if x.ty.isSigned then -1 else 2 ^ n - 1)
       else if x.ty.isSigned = true ∧ a = -(2 ^ (n - 1)) ∧ b = -1 then a else a.tdiv b) ∧
     form (.idivRem x) (fun a b => if b = 0 then a
       else if x.ty.isSigned = true ∧ a = -(2 ^ (n - 1)) ∧ b = -1 then 0 else a - a.tdiv b * b))

/-! ## Group 0x1_ -/

/-- LOGIC, bit by bit (R121): bit i of D is the and, or, exclusive or, complement, or the bit of TBL that the three
source bits index; with CC = 1, Z and N describe D, and C and V are 0. SHIFT under the table of R122, with the last
bit shifted out in C. BIT under the table of R123: POPC counts the set bits, CLZ and CTZ are the largest counts of
zero bits at the top and the bottom, BREV reverses, BFE and BFI extract and insert the field that B names. -/
def Obligations.LogicShiftAndBitFormsCompute : Prop :=
  (∀ (x : Logic2) (y : Logic1) (z : Truth),
     let form := fun (i : Instr) (h : Hdr) (ty : LTy) (rd : List Nat) (d : Reg) (cc : Bool) (bit : Warp → Nat → Nat → Bool) =>
       LaneCompletes i h rd (span ty.regs d) fun _ _ w _ act v =>
         ∃ f : Nat → Nat, w.ResultCC v ty.regs d cc act f
             (fun L => ⟨false, decide (f L = 0), bitAt (f L) (ty.width - 1), false⟩) ∧
           ∀ L, L < 32 → f L < 2 ^ ty.width ∧ ∀ i, i < ty.width → bitAt (f L) i = bit w L i
     let two := fun (i : Instr) (g : Bool → Bool → Bool) =>
       form i x.h x.ty (span x.ty.regs x.a ++ spanB x.ty.regs x.b) x.d x.cc fun w L k =>
         g (bitAt (w.src x.ty x.a L) k) (bitAt (w.srcB x.ty x.b L) k)
     two (.logicAnd x) (fun a b => a && b) ∧ two (.logicOr x) (fun a b => a || b) ∧ two (.logicXor x) (fun a b => a != b) ∧
     form (.logicNot y) y.h y.ty (span y.ty.regs y.a) y.d y.cc (fun w L k => !bitAt (w.src y.ty y.a L) k) ∧
     form (.logicTruth z) z.h z.ty (span z.ty.regs z.a ++ spanB z.ty.regs z.b ++ span z.ty.regs z.c) z.d z.cc fun w L k =>
       z.tbl.getLsbD ((bitAt (w.src z.ty z.a L) k).toNat + 2 * (bitAt (w.srcB z.ty z.b L) k).toNat +
         4 * (bitAt (w.src z.ty z.c L) k).toNat)) ∧
  (∀ (x : Logic2) (y : Typed3),
     let n := x.ty.width
     let form := fun (i : Instr) (f : Nat → Nat → Nat) (c : Nat → Nat → Bool) =>
       LaneCompletes i x.h (span x.ty.regs x.a ++ spanB 1 x.b) (span x.ty.regs x.d) fun _ _ w _ act v =>
         let r := fun L => f (w.src x.ty x.a L) (w.srcB32 x.b L)
         w.ResultCC v x.ty.regs x.d x.cc act r fun L =>
           ⟨c (w.src x.ty x.a L) (w.srcB32 x.b L), decide (r L = 0), bitAt (r L) (n - 1), false⟩
     let funnel := fun (i : Instr) (f : Nat → Nat → Nat) =>
       LaneCompletes i y.h (span 1 y.a ++ spanB 1 y.b ++ span 1 y.c) (span 1 y.d) fun _ _ w _ act v =>
         w.Result v 1 y.d act fun L =>
           f (w.src y.ty y.a L * 2 ^ 32 + w.src y.ty y.c L) (if w.srcB32 y.b L ≤ 32 then w.srcB32 y.b L else 32)
     form (.shiftShl x) (fun a m => if m < n then a * 2 ^ m % 2 ^ n else 0)
       (fun a m => decide (1 ≤ m ∧ m ≤ n) && bitAt a (n - m)) ∧
     form (.shiftShr x) (fun a m => if m < n then a / 2 ^ m else 0) (fun a m => decide (1 ≤ m ∧ m ≤ n) && bitAt a (m - 1)) ∧
     form (.shiftSar x) (fun a m => if m < n then (signedOf n a / 2 ^ m % 2 ^ n).toNat
         else if bitAt a (n - 1) then 2 ^ n - 1 else 0)
       (fun a m => decide (m ≠ 0) && bitAt a ((if m ≤ n then m else n) - 1)) ∧
     funnel (.shiftFshl y) (fun v k => v * 2 ^ k / 2 ^ 32 % 2 ^ 32) ∧ funnel (.shiftFshr y) (fun v k => v / 2 ^ k % 2 ^ 32)) ∧
  (∀ (x : Typed1) (y : Typed2) (z : Typed3),
     let one := fun (i : Instr) (m : Nat) (good : Nat → Nat → Prop) =>
       LaneCompletes i x.h (span x.ty.regs x.a) (span m x.d) fun _ _ w _ act v =>
         ∃ f : Nat → Nat, w.Result v m x.d act f ∧ ∀ L, L < 32 → good (w.src x.ty x.a L) (f L)
     let n := x.ty.width
     one (.bitPopc x) 1 (fun a r => r = ((List.range n).filter fun i => bitAt a i).length) ∧
     one (.bitClz x) 1 (fun a r => r ≤ n ∧ (∀ i, n - r ≤ i → i < n → bitAt a i = false) ∧
       (r < n → bitAt a (n - 1 - r) = true)) ∧
     one (.bitCtz x) 1 (fun a r => r ≤ n ∧ (∀ i, i < r → bitAt a i = false) ∧ (r < n → bitAt a r = true)) ∧
     one (.bitBrev x) x.ty.regs (fun a r => r < 2 ^ n ∧ ∀ i, i < n → bitAt r i = bitAt a (n - 1 - i)) ∧
     LaneCompletes (.bitBfe y) y.h (span y.ty.regs y.a ++ spanB 1 y.b) (span y.ty.regs y.d) (fun _ _ w _ act v =>
       w.Result v y.ty.regs y.d act fun L =>
         let m := y.ty.width
         let pos := w.srcB32 y.b L % 256
         let len := w.srcB32 y.b L / 256 % 256
         if m ≤ pos ∨ len = 0 then 0
         else
           let k := if len ≤ m - pos then len else m - pos
           let f := w.src y.ty y.a L / 2 ^ pos % 2 ^ k
           if y.ty.isSigned then (signedOf k f % 2 ^ m).toNat else f) ∧
     LaneCompletes (.bitBfi z) z.h (span z.ty.regs z.a ++ spanB 1 z.b ++ span z.ty.regs z.c) (span z.ty.regs z.d)
       fun _ _ w _ act v =>
         ∃ f : Nat → Nat, w.Result v z.ty.regs z.d act f ∧ ∀ L, L < 32 →
           let m := z.ty.width
           let pos := w.srcB32 z.b L % 256
           let len := w.srcB32 z.b L / 256 % 256
           ∀ i, i < m → bitAt (f L) i =
             if m ≤ pos ∨ len = 0 ∨ i < pos ∨ pos + len ≤ i then bitAt (w.src z.ty z.a L) i
             else bitAt (w.src z.ty z.c L) (i - pos))

/-- MOV and MOV.BSEL (R124): B itself; and byte by byte zero, the fill with bit 7 of the picked byte, or the picked
byte of A and B, as the selector byte of C says. SEL, SEL.CC and PMOV.TOREG (R127 to R129). -/
def Obligations.MovAndSelectFormsCompute : Prop :=
  ((∀ x : MovOp, LaneCompletes (.mov x) x.h (spanB x.ty.regs x.b) (span x.ty.regs x.d) fun _ _ w _ act v =>
     w.Result v x.ty.regs x.d act (w.srcB x.ty x.b)) ∧
   ∀ x : Typed3, LaneCompletes (.movBsel x) x.h (span 1 x.a ++ spanB 1 x.b ++ span 1 x.c) (span 1 x.d) fun _ _ w _ act v =>
     ∃ f : Nat → Nat, w.Result v 1 x.d act f ∧ ∀ L, L < 32 → ∀ k, k < 4 →
       let sel := w.src x.ty x.c L / 256 ^ k % 256
       let from_ := if sel % 8 < 4 then w.src x.ty x.a L else w.srcB x.ty x.b L
       let byte := from_ / 256 ^ (sel % 4) % 256
       f L / 256 ^ k % 256 = if bitAt sel 6 then 0 else if bitAt sel 7 then (if bitAt byte 7 then 255 else 0) else byte) ∧
  ((∀ x : SelP, LaneCompletes (.sel x) x.h (span x.ty.regs x.a ++ spanB x.ty.regs x.b) (span x.ty.regs x.d)
     fun _ _ w _ act v => w.Result v x.ty.regs x.d act fun L =>
       if ((w.pred x.ps.toNat).getLsbD L ^^ x.psn) = true then w.src x.ty x.a L else w.srcB x.ty x.b L) ∧
   (∀ x : SelCc, LaneCompletes (.selCc x) x.h (span x.ty.regs x.a ++ spanB x.ty.regs x.b) (span x.ty.regs x.d)
     fun _ _ w _ act v => w.Result v x.ty.regs x.d act fun L =>
       if ccTest x.test.toNat (w.cc L) = true then w.src x.ty x.a L else w.srcB x.ty x.b L) ∧
   ∀ x : DOnly, LaneCompletes (.pmovToreg x) x.h [] (span 1 x.d) fun _ _ w _ act v =>
     ∃ f : Nat → Nat, w.Result v 1 x.d act f ∧ ∀ L, L < 32 → f L < 128 ∧
       ∀ k, k < 7 → bitAt (f L) k = (w.pred k).getLsbD L)

/-! ## Group 0x2_ -/

/-- SETP, PCOMB and PMOV.FROMREG write predicates (R112, R125 to R127, R129, R130) and nothing else. -/
def Obligations.PredicateFormsCompute : Prop :=
  let setp := fun (i : Instr) (h : Hdr) (rd : List Nat) (p : PredDst) (t : Warp → Nat → Bool) =>
    LaneCompletes i h rd [] fun _ _ w _ act v =>
      w.SameRegs v ∧ w.SameCC v ∧ w.WrotePred v p.pd.toNat act fun L =>
        let q := (w.pred p.ps.toNat).getLsbD L != p.psn
        match p.bop.toNat with
        | 0 => t w L
        | 1 => t w L && q
        | 2 => t w L || q
        | _ => t w L != q
  (∀ x : SetpCmp, setp (.setpCmp x) x.h (span x.ty.regs x.a ++ spanB x.ty.regs x.b) x.p fun w L =>
    let a := w.src x.ty x.a L
    let b := w.srcB x.ty x.b L
    let c := x.cmp.toNat
    let test := fun (c : Nat) (lt eq : Bool) =>
      if c = 0 then eq else if c = 1 then !eq else if c = 2 then lt else if c = 3 then lt || eq
      else if c = 4 then !lt && !eq else !lt
    if x.ty.isFp then
      let nan := x.ty.decode a == .nan || x.ty.decode b == .nan
      if c = 12 then !nan else if c = 13 then nan
      else if nan then decide (6 ≤ c)
      else test (if c < 6 then c else c - 6) ((x.ty.decode a).lt (x.ty.decode b)) ((x.ty.decode a).feq (x.ty.decode b))
    else test c (decide (LTy.int x.ty a < LTy.int x.ty b)) (decide (LTy.int x.ty a = LTy.int x.ty b))) ∧
  (∀ x : SetpCct, setp (.setpCct x) x.h [] x.p fun w L => ccTest x.test.toNat (w.cc L)) ∧
  (∀ x : SetpClass, setp (.setpClass x) x.h (span x.ty.regs x.a) x.p fun w L =>
    x.cls.getLsbD (x.ty.ffmt.classBit (w.src x.ty x.a L % 2 ^ x.ty.width))) ∧
  (∀ x : Pcomb, LaneCompletes (.pcomb x) x.h [] [] fun _ _ w _ act v =>
    w.SameRegs v ∧ w.SameCC v ∧ w.WrotePred v x.pd.toNat act fun L =>
      x.tbl.getLsbD (((w.pred x.pa.toNat).getLsbD L).toNat + 2 * ((w.pred x.pb.toNat).getLsbD L).toNat +
        4 * ((w.pred x.pc.toNat).getLsbD L).toNat)) ∧
  ∀ x : PmovFrom, LaneCompletes (.pmovFromreg x) x.h (span 1 x.a) [] fun _ _ w _ act v =>
    w.SameRegs v ∧ w.SameCC v ∧ ∀ k L, L < 32 → (v.pred k).getLsbD L =
      if k < 7 ∧ x.mask.getLsbD k = true ∧ act.getLsbD L = true then (w.word x.a.toNat L).getLsbD k
      else (w.pred k).getLsbD L

/-! ## Groups 0x3_ to 0x5_ -/

/-- FARITH and DARITH (R131 to R133, R135) where no soft error strikes: each element of D is the exact result of the
form rounded once in the element's format, ABS and NEG included; with CC = 1 the codes describe it. For scalar
types: a NaN operand of ADD, SUB, MUL, FMA, ABS, NEG and RINT, and of MIN and MAX with NANP = 1, gives the canonical
NaN (R91, R131, R132, R134), and with NANP = 0 two NaN operands do.
Where it rests on a choice of the model: log entry 8. -/
def Obligations.FloatFormsCompute : Prop :=
  (let form := fun (i : Instr) (h : Hdr) (rd : List Nat) (ty : LTy) (d : Reg) (cc : Bool) (r : Warp → Nat → Nat → Nat) =>
     LaneCompletes i h rd (span ty.regs d) fun _ _ w _ act v =>
       let f := fun L => if ty.isPacked then r w L 0 + r w L 1 * 2 ^ 16 else r w L 0
       w.ResultCC v ty.regs d cc act f fun L =>
         match ty.ffmt.decode (f L) with
         | .nan => ⟨true, false, false, false⟩
         | .inf s => ⟨false, false, s, true⟩
         | .fin s m _ => ⟨false, m == 0, s, false⟩
   let elem := fun (ty : LTy) (u k : Nat) => ty.ffmt.decode (u / 2 ^ (ty.ffmt.bits * k) % 2 ^ ty.ffmt.bits)
   let two := fun (i : Flt2 → Instr) (g : Rm → Fv → Fv → Fv) => ∀ x : Flt2,
     form (i x) x.h (span x.ty.regs x.a ++ spanB x.ty.regs x.b) x.ty x.d x.cc fun w L k =>
       x.ty.ffmt.encode x.rm false (g x.rm (elem x.ty (w.src x.ty x.a L) k) (elem x.ty (w.srcB x.ty x.b L) k))
   let fma := fun (i : Flt3 → Instr) => ∀ x : Flt3,
     form (i x) x.h (span x.ty.regs x.a ++ spanB x.ty.regs x.b ++ span x.ty.regs x.c) x.ty x.d x.cc fun w L k =>
       x.ty.ffmt.encode x.rm false (((elem x.ty (w.src x.ty x.a L) k).mul (elem x.ty (w.srcB x.ty x.b L) k)).add x.rm
         (elem x.ty (w.src x.ty x.c L) k))
   let mm := fun (i : FltMm → Instr) (g : Bool → Fv → Fv → Fv) => ∀ x : FltMm,
     form (i x) x.h (span x.ty.regs x.a ++ spanB x.ty.regs x.b) x.ty x.d x.cc fun w L k =>
       x.ty.ffmt.encode .nearestEven false (g x.nanp (elem x.ty (w.src x.ty x.a L) k) (elem x.ty (w.srcB x.ty x.b L) k))
   let one := fun (i : Flt1 → Instr) (g : Fv → Fv) => ∀ x : Flt1,
     form (i x) x.h (span x.ty.regs x.a) x.ty x.d x.cc fun w L k =>
       x.ty.ffmt.encode .nearestEven false (g (elem x.ty (w.src x.ty x.a L) k))
   two .farithAdd Fv.add ∧ two .farithSub Fv.sub ∧ two .farithMul (fun _ a b => a.mul b) ∧ fma .farithFma ∧
   mm .farithMin Fv.min ∧ mm .farithMax Fv.max ∧ one .farithAbs Fv.abs ∧ one .farithNeg Fv.neg ∧
   two .darithAdd Fv.add ∧ two .darithSub Fv.sub ∧ two .darithMul (fun _ a b => a.mul b) ∧ fma .darithFma ∧
   mm .darithMin Fv.min ∧ mm .darithMax Fv.max ∧ one .darithAbs Fv.abs ∧ one .darithNeg Fv.neg) ∧
  (let nan := fun (ty : LTy) (u : Nat) => ty.ffmt.decode (u % 2 ^ ty.ffmt.bits) = .nan
   let out := fun (i : Instr) (h : Hdr) (rd : List Nat) (ty : LTy) (d : Reg) (bad : Warp → Nat → Prop) =>
     ty.isPacked = false → LaneCompletes i h rd (span ty.regs d) fun _ _ w _ act v =>
       ∀ L, act.getLsbD L = true → bad w L → v.group ty.regs d.toNat L = ty.ffmt.nanCode
   let two := fun (i : Flt2 → Instr) => ∀ x : Flt2,
     out (i x) x.h (span x.ty.regs x.a ++ spanB x.ty.regs x.b) x.ty x.d fun w L =>
       nan x.ty (w.src x.ty x.a L) ∨ nan x.ty (w.srcB x.ty x.b L)
   let fma := fun (i : Flt3 → Instr) => ∀ x : Flt3,
     out (i x) x.h (span x.ty.regs x.a ++ spanB x.ty.regs x.b ++ span x.ty.regs x.c) x.ty x.d fun w L =>
       nan x.ty (w.src x.ty x.a L) ∨ nan x.ty (w.srcB x.ty x.b L) ∨ nan x.ty (w.src x.ty x.c L)
   let mm := fun (i : FltMm → Instr) => ∀ x : FltMm,
     out (i x) x.h (span x.ty.regs x.a ++ spanB x.ty.regs x.b) x.ty x.d fun w L =>
       if x.nanp then nan x.ty (w.src x.ty x.a L) ∨ nan x.ty (w.srcB x.ty x.b L)
       else nan x.ty (w.src x.ty x.a L) ∧ nan x.ty (w.srcB x.ty x.b L)
   let one := fun (i : Flt1 → Instr) => ∀ x : Flt1,
     out (i x) x.h (span x.ty.regs x.a) x.ty x.d fun w L => nan x.ty (w.src x.ty x.a L)
   let rint := fun (i : FltRint → Instr) => ∀ x : FltRint,
     out (i x) x.h (span x.ty.regs x.a) x.ty x.d fun w L => nan x.ty (w.src x.ty x.a L)
   two .farithAdd ∧ two .farithSub ∧ two .farithMul ∧ fma .farithFma ∧ mm .farithMin ∧ mm .farithMax ∧
   one .farithAbs ∧ one .farithNeg ∧ rint .fmiscRint ∧ two .darithAdd ∧ two .darithSub ∧ two .darithMul ∧
   fma .darithFma ∧ mm .darithMin ∧ mm .darithMax ∧ one .darithAbs ∧ one .darithNeg ∧ rint .darithRint)

/-- FMISC, DARITH.RINT and SFU (R134 to R137) where no soft error strikes: RINT rounds to an integral value,
COPYSIGN joins the magnitude of A with the stored sign bit of B, SFU gives the results of R137 at a NaN and at
the infinities and the rounded value elsewhere. The condition codes stay.
Where it rests on a choice of the model: log entries 6, 8. -/
def Obligations.FloatMiscFormsCompute : Prop :=
  let elem := fun (ty : LTy) (u k : Nat) => u / 2 ^ (ty.ffmt.bits * k) % 2 ^ ty.ffmt.bits
  let form := fun (i : Instr) (h : Hdr) (rd : List Nat) (ty : LTy) (d : Reg) (r : Warp → Nat → Nat → Nat) =>
    LaneCompletes i h rd (span ty.regs d) fun _ _ w _ act v =>
      w.Result v ty.regs d act fun L => if ty.isPacked then r w L 0 + r w L 1 * 2 ^ 16 else r w L 0
  let rint := fun (i : FltRint → Instr) => ∀ x : FltRint, form (i x) x.h (span x.ty.regs x.a) x.ty x.d fun w L k =>
    x.ty.ffmt.encode x.rm false ((x.ty.ffmt.decode (elem x.ty (w.src x.ty x.a L) k)).rint x.rm)
  let sfu := fun (i : SfuOp → Instr) (fn : SfuFn) (nan pinf minf : Word) => ∀ x : SfuOp,
    LaneCompletes (i x) x.h (span 1 x.a) (span 1 x.d) fun _ _ w _ act v =>
      ∃ f : Nat → Nat, w.Result v 1 x.d act f ∧ ∀ L, L < 32 →
        let a := w.word x.a.toNat L
        (f32v a = .nan → wordAt (f L) 0 = nan) ∧ (f32v a = .inf false → wordAt (f L) 0 = pinf) ∧
        (f32v a = .inf true → wordAt (f L) 0 = minf) ∧ wordAt (f L) 0 = sfuOf fn x.rm a
  rint .fmiscRint ∧ rint .darithRint ∧
  (∀ x : Typed2, form (.fmiscCopysign x) x.h (span x.ty.regs x.a ++ spanB x.ty.regs x.b) x.ty x.d fun w L k =>
    let a := elem x.ty (w.src x.ty x.a L) k
    let b := elem x.ty (w.srcB x.ty x.b L) k
    if x.ty.ffmt.decode a = .nan then x.ty.ffmt.nanCode
    else a % x.ty.ffmt.signBit + b / x.ty.ffmt.signBit % 2 * x.ty.ffmt.signBit) ∧
  sfu .sfuRcp .rcp 0x7FC00000 0 0x80000000 ∧ sfu .sfuRsq .rsq 0x7FC00000 0 0x7FC00000 ∧
  sfu .sfuSqrt .sqrt 0x7FC00000 0x7F800000 0x7FC00000 ∧ sfu .sfuEx2 .ex2 0x7FC00000 0x7F800000 0 ∧
  sfu .sfuLg2 .lg2 0x7FC00000 0x7F800000 0x7FC00000 ∧ sfu .sfuSin .sin 0x7FC00000 0x7FC00000 0x7FC00000 ∧
  sfu .sfuCos .cos 0x7FC00000 0x7FC00000 0x7FC00000 ∧ sfu .sfuTanh .tanh 0x7FC00000 0x3F800000 0xBF800000

/-- CVT (R139, R140) where no soft error strikes: the conversion of the value of A, without saturation between equal
types, and element by element in PACK and UNPACK, whose group is A or D.
Where it rests on a choice of the model: log entry 8. -/
def Obligations.ConversionFormsCompute : Prop :=
  let lane := fun (i : CvtOp → Instr) => ∀ x : CvtOp,
    LaneCompletes (i x) x.h (span x.lt.regs x.a) (span x.ty.regs x.d) fun _ _ w _ act v =>
      w.Result v x.ty.regs x.d act fun L => x.ty.encode x.rm (x.sat && x.lt != x.ty) x.lt.intSource (x.lt.decode (w.src x.lt x.a L))
  lane .cvtI2i ∧ lane .cvtI2f ∧ lane .cvtF2i ∧ lane .cvtF2f ∧
  (∀ x : PackOp, LaneCompletes (.cvtPack x) x.h (span x.fmt.count x.a) (span 1 x.d) fun _ _ w _ act v =>
    ∃ f : Nat → Nat, w.Result v 1 x.d act f ∧ ∀ L, L < 32 → ∀ k, k < x.fmt.count →
      f L / 2 ^ (x.fmt.width * k) % 2 ^ x.fmt.width =
        x.fmt.encode x.rm x.sat x.lt.intSource (x.lt.decode (w.word (x.a.toNat + k) L).toNat) % 2 ^ x.fmt.width) ∧
  ∀ x : PackOp, LaneCompletes (.cvtUnpack x) x.h (span 1 x.a) (span x.fmt.count x.d) fun _ _ w _ act v =>
    ∃ f : Nat → Nat, w.Result v x.fmt.count x.d act f ∧ ∀ L, L < 32 → ∀ k, k < x.fmt.count →
      (wordAt (f L) k).toNat = x.lt.encode x.rm x.sat false
        (x.fmt.decode ((w.word x.a.toNat L).toNat / 2 ^ (x.fmt.width * k) % 2 ^ x.fmt.width)) % 2 ^ 32

/-! ## Group 0x6_ -/

/-- VPERM under the pseudo-code of R142, with the fill predicate when PW = 1. REDUCE (R143): with a lane in `active`,
D holds one value in every lane of `active` (or once, in a uniform D): `good` says which for the values `l` of these
lanes in ascending order. ADD is the sum modulo 2^32, or for f32 the exact sum rounded once; MIN and MAX give a least or
greatest value of the lanes, or for f32 that of R132 taken lane by lane; AND, OR and XOR act bit by bit. SCAN (R144):
each lane L of `active` receives what REDUCE gives over the lanes of `active` up to L (INCL) or below L (EXCL), and an
EXCL lane that no lane precedes the identity of the operation. -/
def Obligations.LaneExchangeFormsCompute : Prop :=
  let f32s := fun (m : Bool → Fv → Fv → Fv) (nanp : Bool) (l : List Nat) =>
    FFmt.f32.encode .nearestEven false (FFmt.f32.decode ((l.drop 1).foldl
      (fun a b => FFmt.f32.encode .nearestEven false (m nanp (FFmt.f32.decode a) (FFmt.f32.decode b))) (l.headD 0)))
  let good := fun (op : Nat) (ty : LTy) (rm : Rm) (nanp : Bool) (l : List Nat) (r : Nat) => match op with
    | 0 => if ty = .f32 then r = FFmt.f32.encode .nearestEven false (FFmt.f32.decode (sumF32 rm l)) % 2 ^ 32 else r = l.sum % 2 ^ 32
    | 1 => if ty = .f32 then r = f32s Fv.min nanp l % 2 ^ 32 else r ∈ l ∧ ∀ y ∈ l, LTy.int ty r ≤ LTy.int ty y
    | 2 => if ty = .f32 then r = f32s Fv.max nanp l % 2 ^ 32 else r ∈ l ∧ ∀ y ∈ l, LTy.int ty y ≤ LTy.int ty r
    | 3 => ∀ i, i < 32 → (bitAt r i = l.all fun y => bitAt y i)
    | 4 => ∀ i, i < 32 → (bitAt r i = l.any fun y => bitAt y i)
    | _ => ∀ i, i < 32 → (bitAt r i = decide ((l.filter fun y => bitAt y i).length % 2 = 1))
  let values := fun (w : Warp) (a : Reg) (ls : List Nat) => ls.map fun L => (w.word a.toNat L).toNat
  (let form := fun (i : VpermOp → Instr) (pick : Nat → Nat → Nat → Nat → Nat × Bool) => ∀ x : VpermOp,
     LaneCompletes (i x) x.h (span x.ty.regs x.a ++ spanB 1 x.b ++ span x.ty.regs x.c) (span x.ty.regs x.d)
       fun _ _ w _ act v =>
         let n := 32 / 2 ^ x.seg.toNat
         let r := fun L => pick n (L - L % n) L (w.srcB32 x.b L)
         let hit := fun L => (r L).2 && w.launched.getLsbD (r L).1 && !w.exited.getLsbD (r L).1
         w.Wrote v x.ty.regs x.d act (fun L => if hit L then w.src x.ty x.a (r L).1 else w.src x.ty x.c L) ∧ w.SameCC v ∧
         if x.pw then w.WrotePred v x.pd.toNat act (fun L => !hit L) else w.SamePreds v
   form .vpermIdx (fun n s0 _ b => (s0 + b, decide (b < n))) ∧
   form .vpermUp (fun _ s0 L b => (L - b, decide (b ≤ L - s0))) ∧
   form .vpermDown (fun n s0 L b => (L + b, decide (L + b < s0 + n))) ∧
   form .vpermXor (fun n _ L b => (L ^^^ b, decide (b < n)))) ∧
  (let form := fun (i : Instr) (h : Hdr) (ty : LTy) (rm : Rm) (nanp : Bool) (d a : Reg) (op : Nat) =>
     LaneCompletes i h (span 1 a) (span 1 d) fun _ _ w _ act v =>
       ∃ x : Nat, w.Result v 1 d act (fun _ => x) ∧ (act ≠ 0 → good op ty rm nanp (values w a (lanesOf act)) (x % 2 ^ 32))
   let fp := fun (i : ReduceOp → Instr) (op : Nat) => ∀ x : ReduceOp, form (i x) x.h x.ty x.rm x.nanp x.d x.a op
   let bits := fun (i : Typed1 → Instr) (op : Nat) => ∀ x : Typed1, form (i x) x.h x.ty .nearestEven false x.d x.a op
   fp .reduceAdd 0 ∧ fp .reduceMin 1 ∧ fp .reduceMax 2 ∧ bits .reduceAnd 3 ∧ bits .reduceOr 4 ∧ bits .reduceXor 5) ∧
  (let form := fun (i : ScanOp → Instr) (takes : Nat → Nat → Bool) => ∀ x : ScanOp,
     LaneCompletes (i x) x.h (span 1 x.a) (span 1 x.d) fun _ _ w _ act v =>
       ∃ f : Nat → Nat, w.Result v 1 x.d act f ∧ ∀ L, act.getLsbD L = true →
         let l := values w x.a ((lanesOf act).filter fun m => takes m L)
         if l = [] then wordAt (f L) 0 =
           (match x.op.toNat, x.ty with
           | 0, _ => 0
           | 1, .f32 => 0x7F800000
           | 1, .s32 => 0x7FFFFFFF
           | 1, _ => 0xFFFFFFFF
           | 2, .f32 => 0xFF800000
           | 2, .s32 => 0x80000000
           | 2, _ => 0
           | 3, _ => 0xFFFFFFFF
           | _, _ => 0)
         else good x.op.toNat x.ty x.rm x.nanp l (wordAt (f L) 0).toNat
   form .scanIncl (fun m L => decide (m ≤ L)) ∧ form .scanExcl (fun m L => decide (m < L)))

/-- VOTE (R145): BALLOT gathers, ANY and ALL join the predicate over the lanes of `active`, MATCH gives each lane the
lanes of `active` with its value. UMOV (R146): FIRST takes A of the lowest lane of `active`, LANE that of the live lane
that B names, else C.
Where it rests on a choice of the model: log entry 32. -/
def Obligations.VoteAndUmovFormsCompute : Prop :=
  let holds := fun (w : Warp) (ps : BitVec 3) (psn : Bool) (L : Nat) => (w.pred ps.toNat).getLsbD L != psn
  (∀ x : BallotOp, LaneCompletes (.voteBallot x) x.h [] (span 1 x.d) fun _ _ w _ act v =>
    ∃ m : Mask, w.Result v 1 x.d act (fun _ => m.toNat) ∧
      ∀ L, L < 32 → m.getLsbD L = (act.getLsbD L && holds w x.ps x.psn L)) ∧
  (∀ x : VoteOp, LaneCompletes (.voteAny x) x.h [] [] fun _ _ w _ act v =>
    w.SameRegs v ∧ w.SameCC v ∧ w.WrotePred v x.pd.toNat act fun _ =>
      (List.range 32).any fun L => act.getLsbD L && holds w x.ps x.psn L) ∧
  (∀ x : VoteOp, LaneCompletes (.voteAll x) x.h [] [] fun _ _ w _ act v =>
    w.SameRegs v ∧ w.SameCC v ∧ w.WrotePred v x.pd.toNat act fun _ =>
      (List.range 32).all fun L => !act.getLsbD L || holds w x.ps x.psn L) ∧
  (∀ x : Typed1, LaneCompletes (.voteMatch x) x.h (span x.ty.regs x.a) (span 1 x.d) fun _ _ w _ act v =>
    ∃ m : Nat → Mask, w.Result v 1 x.d act (fun L => (m L).toNat) ∧
      ∀ L M, M < 32 → (m L).getLsbD M = (act.getLsbD M && decide (w.src x.ty x.a M = w.src x.ty x.a L))) ∧
  (∀ x : Typed1, LaneCompletes (.umovFirst x) x.h (span x.ty.regs x.a) (span x.ty.regs x.d) fun _ _ w _ act v =>
    ∃ u : Nat, w.Result v x.ty.regs x.d act (fun _ => u) ∧ ∀ low, low < 32 → act.getLsbD low = true →
      (∀ L, L < low → act.getLsbD L = false) → u = w.src x.ty x.a low) ∧
  ∀ x : UmovLane, LaneCompletes (.umovLane x) x.h (span x.ty.regs x.a ++ spanB x.ty.regs x.b ++ span x.ty.regs x.c)
    (span x.ty.regs x.d) fun _ _ w _ act v => w.Result v x.ty.regs x.d act fun L =>
      let b := w.srcB x.ty x.b L
      if b < 32 ∧ w.launched.getLsbD b = true ∧ w.exited.getLsbD b = false then w.src x.ty x.a b else w.src x.ty x.c L

/-! ## Group 0x7_ -/

/-- BRA, BRX, CALL, CALLX and RET (R153). With no lane in `active` they only go on to the next word. With a lane in
`active`, aligned targets below 2^52, and room for the new paths (R149), each lane of `active` stands at its target,
each other lane of the path at the next word, all under the path's join index; every lane of another path stays
where it is; CALL and CALLX write PC + 16 as the link in the lanes of `active`; no other register, no predicate and
no condition code changes. -/
def Obligations.BranchesMoveEachLane : Prop :=
  (let form := fun (i : Instr) (h : Hdr) (rd wr : List Nat) =>
     Completes i h .shared rd wr none (fun _ _ _ _ act => act = 0) fun s who w p _ t =>
       ∃ v, s.Retired who w h t v ∧ w.WentOn p v ∧ w.SameData v
   (∀ x : DispOp, form (.bra x) x.h [] []) ∧ (∀ x : AOnly, form (.brx x) x.h (span 2 x.a) []) ∧
   (∀ x : CallOp, form (.call x) x.h [] (span 2 x.d)) ∧
   (∀ x : CallxOp, form (.callx x) x.h (span 2 x.a) (span 2 x.d)) ∧ (∀ x : AOnly, form (.ret x) x.h (span 2 x.a) [])) ∧
  (let form := fun (i : Instr) (h : Hdr) (rd wr : List Nat) (tgt : Warp → PathEntry → Nat → Nat) (link : Option Reg) =>
     Completes i h .shared rd wr none
       (fun s who w p act => act ≠ 0 ∧ (∀ L, act.getLsbD L = true → tgt w p L % 16 = 0 ∧ tgt w p L < 2 ^ 52) ∧
         (s.deep who = true ∨
           (w.paths.filter fun q => !q.spilled).length + (groupTargets (tgt w p) (lanesOf act)).length +
             (if p.mask &&& ~~~act = 0 then 0 else 1) ≤ 17))
       fun s who w p act t => ∃ v, s.Retired who w h t v ∧ w.SameControl v ∧
         (∀ L, act.getLsbD L = true → v.Stands L (BitVec.ofNat 48 (tgt w p L / 16)) p.jidx false) ∧
         (∀ L, p.mask.getLsbD L = true → act.getLsbD L = false → v.Stands L (p.pc + 1) p.jidx false) ∧
         (∀ L pc j k, p.mask.getLsbD L = false → (v.Stands L pc j k ↔ w.Stands L pc j k)) ∧
         w.SamePreds v ∧ w.SameCC v ∧
         match link with
         | none => w.SameRegs v
         | some d => w.Wrote v 2 d act fun _ => p.pc.toNat * 16 + 16
   let disp := fun (d : Word) (_ : Warp) (p : PathEntry) (_ : Nat) => (((p.pc.toNat * 16 : Int) + d.toInt) % 2 ^ 52).toNat
   let reg := fun (a : Reg) (w : Warp) (_ : PathEntry) (L : Nat) => w.group 2 a.toNat L
   (∀ x : DispOp, form (.bra x) x.h [] [] (disp x.disp) none) ∧
   (∀ x : AOnly, form (.brx x) x.h (span 2 x.a) [] (reg x.a) none) ∧
   (∀ x : CallOp, form (.call x) x.h [] (span 2 x.d) (disp x.disp) (some x.d)) ∧
   (∀ x : CallxOp, form (.callx x) x.h (span 2 x.a) (span 2 x.d) (reg x.a) (some x.d)) ∧
   ∀ x : AOnly, form (.ret x) x.h (span 2 x.a) [] (reg x.a) none)

/-- A branch with a target that is misaligned or at or above 2^52 takes the alignment trap for exactly those
lanes, unretired (R153): BRX, CALLX and RET; the targets of BRA and CALL are aligned. With good targets, one that would
need more than the 16 path entries with DEEP = 0 takes the path-overflow trap, unretired (R149): all five. -/
def Obligations.BranchesTrapOnBadTargetsOrFullTable : Prop :=
  let bad := fun (i : Instr) (h : Hdr) (a : Reg) (wr : List Nat) =>
    Completes i h .shared (span 2 a) wr none
      (fun _ _ w _ act => ∃ L, act.getLsbD L = true ∧ (w.group 2 a.toNat L % 16 ≠ 0 ∨ 2 ^ 52 ≤ w.group 2 a.toNat L))
      fun s who w p act t => ∃ (bad : Mask) (low : Nat),
        (∀ L, L < 32 → bad.getLsbD L =
          (act.getLsbD L && decide (w.group 2 a.toNat L % 16 ≠ 0 ∨ 2 ^ 52 ≤ w.group 2 a.toNat L))) ∧
        lowLane bad = some low ∧ t = s.takeTrap who 0x02 bad (w.group 2 a.toNat low) p.pc
  let full := fun (i : Instr) (h : Hdr) (rd wr : List Nat) (tgt : Warp → PathEntry → Nat → Nat) =>
    Completes i h .shared rd wr none
      (fun s who w p act => act ≠ 0 ∧ s.deep who = false ∧
        (∀ L, act.getLsbD L = true → tgt w p L % 16 = 0 ∧ tgt w p L < 2 ^ 52) ∧
        17 < (w.paths.filter fun q => !q.spilled).length + (groupTargets (tgt w p) (lanesOf act)).length +
          (if p.mask &&& ~~~act = 0 then 0 else 1))
      fun s who _ p act t => t = s.takeTrap who 0x06 act 0 p.pc
  let disp := fun (d : Word) (_ : Warp) (p : PathEntry) (_ : Nat) => (((p.pc.toNat * 16 : Int) + d.toInt) % 2 ^ 52).toNat
  let reg := fun (a : Reg) (w : Warp) (_ : PathEntry) (L : Nat) => w.group 2 a.toNat L
  (∀ x : AOnly, bad (.brx x) x.h x.a []) ∧ (∀ x : CallxOp, bad (.callx x) x.h x.a (span 2 x.d)) ∧
  (∀ x : AOnly, bad (.ret x) x.h x.a []) ∧
  (∀ x : DispOp, full (.bra x) x.h [] [] (disp x.disp)) ∧ (∀ x : CallOp, full (.call x) x.h [] (span 2 x.d) (disp x.disp)) ∧
  (∀ x : AOnly, full (.brx x) x.h (span 2 x.a) [] (reg x.a)) ∧
  (∀ x : CallxOp, full (.callx x) x.h (span 2 x.a) (span 2 x.d) (reg x.a)) ∧
  ∀ x : AOnly, full (.ret x) x.h (span 2 x.a) [] (reg x.a)

/-- JSET (R155): with a free record, it becomes the most recent one with the displacement's target, the path's mask as
its group, nothing arrived and the path's former index as its parent; the path's lanes stand at the next word under
it; with 15 live records the path-overflow trap is taken, unretired (R150). JWAIT (R156): at the target of its path's
record the path's lanes have arrived; when the group is complete the record is freed and every arrived lane stands
past the JWAIT under the parent, else the path's lanes stand parked; elsewhere, or without a record, the
join-mismatch trap is taken, unretired. -/
def Obligations.JsetAndJwaitKeepTheJoins : Prop :=
  (∀ x : DispOp,
     (Completes (.jset x) x.h .shared [] [] none (fun _ _ w _ _ => w.joins.length < 15) fun s who w p _ t =>
       ∃ v j, s.Retired who w x.h t v ∧ j ≠ 0 ∧ (∀ r ∈ w.joins, r.idx ≠ j) ∧
         v.joins = w.joins ++ [⟨j, BitVec.ofNat 48 ((((p.pc.toNat * 16 : Int) + x.disp.toInt) % 2 ^ 52).toNat / 16),
           p.mask, 0, p.jidx⟩] ∧
         (∀ L, p.mask.getLsbD L = true → v.Stands L (p.pc + 1) j false) ∧
         (∀ L pc k b, p.mask.getLsbD L = false → (v.Stands L pc k b ↔ w.Stands L pc k b)) ∧
         w.SameRegs v ∧ w.SamePreds v ∧ w.SameCC v) ∧
     Completes (.jset x) x.h .shared [] [] none (fun _ _ w _ _ => 15 ≤ w.joins.length) fun s who _ p act t =>
       t = s.takeTrap who 0x06 act 0 p.pc) ∧
  (∀ x : Bare,
     (Completes (.jwait x) x.h .shared [] [] none
       (fun _ _ w p _ => p.jidx ≠ 0 ∧ ∃ r, w.joins.find? (fun j => j.idx == p.jidx) = some r ∧ r.target = p.pc)
       fun s who w p _ t => ∃ v r, s.Retired who w x.h t v ∧ w.joins.find? (fun j => j.idx == p.jidx) = some r ∧
         w.SameRegs v ∧ w.SamePreds v ∧ w.SameCC v ∧
         if r.group &&& ~~~(r.arrived ||| p.mask) = 0 then
           (∀ k ∈ v.joins, k.idx ≠ p.jidx) ∧
           ∀ L, (r.arrived ||| p.mask).getLsbD L = true → v.Stands L (p.pc + 1) r.parent false
         else
           (∃ k ∈ v.joins, k = { r with arrived := r.arrived ||| p.mask }) ∧
           ∀ L, p.mask.getLsbD L = true → v.Stands L p.pc p.jidx true) ∧
     Completes (.jwait x) x.h .shared [] [] none
       (fun _ _ w p _ => p.jidx = 0 ∨ ∀ r, w.joins.find? (fun j => j.idx == p.jidx) = some r → r.target ≠ p.pc)
       fun s who _ p _ t => ∃ d, t = s.takeTrap who 0x07 p.mask d p.pc)

/-- EXIT (R151, R157): while some lane stays, the lanes of `active` leave every path; with the last lanes it
waits until LD and TL read zero and then the warp leaves its slot. No byte of memory and no other warp
changes. -/
def Obligations.ExitRemovesLanesOrTheWarp : Prop :=
  ∀ x : Bare,
    (Completes (.exit x) x.h .shared [] [] none (fun _ _ w _ act => act ≠ 0 ∧ w.live &&& ~~~act ≠ 0)
      fun s who w _ act t => ∃ v, s.Retired who w x.h t v ∧ v.exited = w.exited ||| act ∧
        (∀ L pc j k, act.getLsbD L = true → ¬ v.Stands L pc j k) ∧ (∀ r ∈ v.joins, r.group &&& act = 0) ∧
        w.SameRegs v ∧ w.SamePreds v ∧ w.SameCC v) ∧
    (Completes (.exit x) x.h .shared [] [] none
      (fun _ _ w _ act => act ≠ 0 ∧ w.live &&& ~~~act = 0 ∧ w.counter .ld = 0 ∧ w.counter .tl = 0)
      fun s who _ _ _ t => t.warp? who = none ∧ (∀ i, i ≠ who → t.warp? i = s.warp? i) ∧ ∀ a, t.byte a = s.byte a) ∧
    (Completes (.exit x) x.h .shared [] [] none
      (fun _ _ w _ act => act ≠ 0 ∧ w.live &&& ~~~act = 0 ∧ (w.counter .ld ≠ 0 ∨ w.counter .tl ≠ 0))
      fun s _ _ _ _ t => t = s.idle) ∧
    Completes (.exit x) x.h .shared [] [] none (fun _ _ _ _ act => act = 0) fun s who w p _ t =>
      ∃ v, s.Retired who w x.h t v ∧ w.WentOn p v ∧ w.SameData v

/-- WAITC (R65, R158): with each limit 0xFF or at least its counter, or with no lane in `active`, it retires
with no register changed; otherwise the warp stays at it, and the cycle in which it issued is kept (R58). YIELD and NOP change nothing of the data either; a
YIELD with a lane in `active` marks the cycle of its issue (R159, R161).
Where it rests on a choice of the model: log entry 11. -/
def Obligations.WaitYieldAndNopRetire : Prop :=
  let within := fun (n : Nat) (l : BitVec 8) => l = 0xFF ∨ n ≤ l.toNat
  (∀ x : WaitcOp,
    let met := fun (w : Warp) => within (w.counter .tl) x.tl ∧ within (w.counter .cp) x.cp ∧
      within (w.counter .st) x.st ∧ within (w.counter .ld) x.ld
    (Completes (.waitc x) x.h .shared [] [] none (fun _ _ w _ act => act = 0 ∨ met w) fun s who w p _ t =>
      ∃ v, s.RetiredIn who w x.h t v ∧ w.WentOn p v ∧ w.SameData v) ∧
    Completes (.waitc x) x.h .shared [] [] none (fun _ _ w _ act => act ≠ 0 ∧ ¬ met w) fun s who w _ _ t =>
      t = (s.setWarp who (w.waiting s.cycle)).idle) ∧
  (∀ x : Bare, Completes (.yield x) x.h .shared [] [] none (fun _ _ _ _ _ => True) fun s who w p act t =>
    ∃ v, s.Retired who w x.h t v ∧ w.WentOn p v ∧ w.SameRegs v ∧ w.SamePreds v ∧ w.SameCC v ∧
      v.yieldAt = if act = 0 then w.yieldAt else some s.cycle) ∧
  ∀ x : Bare, Completes (.nop x) x.h .shared [] [] none (fun _ _ _ _ _ => True) fun s who w p _ t =>
    ∃ v, s.Retired who w x.h t v ∧ w.WentOn p v ∧ w.SameData v

/-- SREAD (R160): the special of the table on a compute core and on a sequencer, in the lanes of `active` or
once in a uniform register. -/
def Obligations.SreadGivesTheSpecials : Prop :=
  ∀ x : SreadOp,
    let n := if x.spec.toNat = 9 then 2 else 1
    LaneCompletes (.sread x) x.h [] (span n x.d) fun s who w _ act v =>
      ∃ f : Nat → Nat, w.Result v n x.d act f ∧
        (∀ h wid b, who = .warp h wid → s.block? h = some b → ∀ L, f L =
          (match x.spec.toNat with
          | 0 => L
          | 1 => wid
          | 2 => w.role
          | 3 => b.no
          | 4 => kdSpan b.kd + 16 * w.spos
          | 5 => w.core
          | 6 => w.core / 4
          | 7 => if b.die then 1 else 0
          | 8 => b.tenant
          | _ => (s.die b.die).dtime)) ∧
        ∀ q, who = .seq q → ∀ L, f L =
          (match x.spec.toNat with
          | 1 => if q.trivet then 0 else q.num
          | 4 => 1
          | 5 | 6 => 0xFFFFFFFF
          | 7 => if q.die then 1 else 0
          | 9 => (s.die q.die).dtime
          | _ => 0)

/-! ## Traps, return and the waits of group 0xE_ -/

/-- What the handler of a warp finds (R163, R390 to R393): a warp whose kernel has a handler and that is not in it
enters at CODE + TRAP with one path of every live lane and no join record; g0 holds the faulting lanes, g1 the
cause, g2 and g3 the detail, g4 the WSW, g5 and g6 the PC; g0 to g6, the step bit and the tables as they were are
frozen, and the step bit is cleared. Every other warp, all memory, and every lane register, predicate and condition
code are as before, and so are the register budget and issue priority under which the handler runs. A trap of
a warp that is in its handler, or whose kernel has none, faults its job (R395, R397): the record is of kind 2 with the
cause, bit 8 for a double trap, the PC, the lanes, the block, warp and core, and the detail; the job's warps are gone, its
blocks stopped, and the job leaves. A sequencer's trap halts the sequencer (R396). -/
def Obligations.TrapEntryFreezesAndDescribes : Prop :=
  (∀ (s : State) (h wid : Nat) (w : Warp) (b : Block) (cause : Nat) (lanes : Mask) (detail : Nat) (pc : Pc),
     s.warp? (.warp h wid) = some w → s.block? h = some b → w.frozen = none → kdTrapv b.kd = true →
     ∃ v, (s.takeTrap (.warp h wid) cause lanes detail pc) = s.setWarp (.warp h wid) v ∧
       v.frozen = some ⟨(List.range 7).map fun k => w.word (384 + k) 0, w.step, w.paths, w.joins⟩ ∧
       v.step = false ∧ v.joins = [] ∧
       v.paths = [⟨w.launched &&& ~~~w.exited, BitVec.ofNat 48 ((kdCode b.kd + kdTrap b.kd) / 16), 0, false, false⟩] ∧
       v.word 384 0 = lanes ∧ v.word 385 0 = BitVec.ofNat 32 cause ∧
       v.word 386 0 = BitVec.ofNat 32 detail ∧ v.word 387 0 = BitVec.ofNat 32 (detail / 2 ^ 32) ∧
       v.word 388 0 = w.wsw (s.parkedWarp (.warp h wid) w) ∧
       v.word 389 0 = BitVec.ofNat 32 (pc.toNat * 16) ∧ v.word 390 0 = BitVec.ofNat 32 (pc.toNat * 16 / 2 ^ 32) ∧
       (∀ r L, r < 384 ∨ 390 < r → v.word r L = w.word r L) ∧ v.preds = w.preds ∧
       v.ccC = w.ccC ∧ v.ccZ = w.ccZ ∧ v.ccN = w.ccN ∧ v.ccV = w.ccV ∧ v.budget = w.budget ∧ v.prio = w.prio ∧ v.role = w.role) ∧
  (∀ (s : State) (cause : Nat) (lanes : Mask) (detail : Nat) (pc : Pc),
     (∀ (h wid : Nat) (w : Warp) (b : Block) (j : Job), s.warp? (.warp h wid) = some w → s.block? h = some b →
       (w.frozen ≠ none ∨ kdTrapv b.kd = false) → s.job? b.job = some j → j.gone = false →
       let t := s.takeTrap (.warp h wid) cause lanes detail pc
       (t = s.faultJob b.job fun u => u.post j.die j.tenant
         [2 * 2 ^ 56 + j.tenant * 2 ^ 52 + (if j.die then 2 ^ 51 else 0) + j.no % 65536 * 2 ^ 32 +
             (cause + if w.frozen = none then 0 else 256) % 2 ^ 32,
           pc.toNat * 16, lanes.toNat, b.no % 2 ^ 32 + wid % 65536 * 2 ^ 32 + w.core % 256 * 2 ^ 48, detail,
           (u.die j.die).dtime] 0 0) ∧
       (∀ c ∈ s.blocks, c.job = b.job → ∀ n, t.warp? (.warp c.handle n) = none) ∧
       (∀ c ∈ t.blocks, c.job = b.job → c.halted = true) ∧ ∀ k, t.job? b.job = some k → k.gone = true) ∧
     ∀ q, (s.takeTrap (.seq q) cause lanes detail pc).seq q = { s.seq q with halted := true } ∧
       ∀ a, (s.takeTrap (.seq q) cause lanes detail pc).byte a = s.byte a)

/-- TRAP and BRK (R162): with a lane in `active` they retire and enter the handler with cause 0x09 or 0x0A, `active` as
the lanes and the argument as the detail; the frozen tables stand past the instruction, so that ERET resumes after
it. With no lane they only go on. ERET (R163, R394) in a handler: g0 to g6 are the frozen ones again, the step bit is
bit 31 of the handler's g1, every other register is kept, lanes that have exited stand on no path, and where no lane
of the frozen tables has exited and no record of them is complete, these tables are the warp's again. Outside a
handler it raises the illegal-instruction trap. -/
def Obligations.TrapBrkAndEretEnterAndLeaveTheHandler : Prop :=
  (let form := fun (i : Instr) (x : TrapOp) (cause : Nat) =>
     (Completes i x.h .shared [] [] none
       (fun s who w _ act => act ≠ 0 ∧ w.frozen = none ∧ ∃ h wid b, who = .warp h wid ∧ s.block? h = some b ∧ kdTrapv b.kd = true)
       fun s who w p act t => ∃ v f, t.warp? who = some v ∧ (∀ i, i ≠ who → t.warp? i = s.warp? i) ∧
         (∀ a, t.byte a = s.byte a) ∧ v.frozen = some f ∧
         f.paths = (w.advance p).paths ∧ f.joins = w.joins ∧
         v.word 384 0 = act ∧ v.word 385 0 = BitVec.ofNat 32 cause ∧
         v.word 386 0 = BitVec.ofNat 32 x.code.toNat ∧ ∀ r L, r < 384 ∨ 390 < r → v.word r L = w.word r L) ∧
     Completes i x.h .shared [] [] none (fun _ _ _ _ act => act = 0) fun s who w p _ t =>
       ∃ v, s.Retired who w x.h t v ∧ w.WentOn p v ∧ w.SameData v
   ∀ x : TrapOp, form (.trap x) x 0x09 ∧ form (.brk x) x 0x0A) ∧
  (∀ x : Bare,
     (Completes (.eret x) x.h .shared [] [] none (fun _ _ w _ _ => ∃ f, w.frozen = some f ∧ f.g.length = 7)
       fun s who w _ _ t => ∃ v f, s.RetiredIn who w x.h t v ∧ w.frozen = some f ∧ v.frozen = none ∧
         (∀ k, k < 7 → v.word (384 + k) 0 = f.g.getD k 0) ∧ v.step = (w.word 385 0).getLsbD 31 ∧
         (∀ r L, r < 384 ∨ 390 < r → v.word r L = w.word r L) ∧ w.SamePreds v ∧ w.SameCC v ∧
         (∀ L pc j k, w.exited.getLsbD L = true → ¬ v.Stands L pc j k) ∧
         (f.paths.length ≤ 16 → mergePaths f.paths = f.paths →
           (∀ q ∈ f.paths, q.mask ≠ 0 ∧ q.mask &&& w.exited = 0 ∧ q.spilled = false) →
           (∀ j ∈ f.joins, (j.group ||| j.arrived) &&& w.exited = 0 ∧ j.group &&& ~~~j.arrived ≠ 0) →
           v.paths = f.paths ∧ v.joins = f.joins)) ∧
     Completes (.eret x) x.h .shared [] [] none (fun _ _ w _ _ => w.frozen = none) fun s who _ p _ t =>
       t = s.takeTrap who 0x01 p.mask 0 p.pc)

/-- WFI on a sequencer (R166): it retires when an unmasked line is pending or no lane is in `active`, and
holds the sequencer otherwise. -/
def Obligations.WfiWaitsForALine : Prop :=
  ∀ x : Bare,
    (Completes (.wfi x) x.h .privileged [] [] none
      (fun s who _ _ act => act = 0 ∨ ∃ q, who = .seq q ∧ (s.seq q).irqPend &&& (s.seq q).irqMask ≠ 0)
      fun s who w p _ t => ∃ v, s.Retired who w x.h t v ∧ w.WentOn p v ∧ w.SameData v) ∧
    Completes (.wfi x) x.h .privileged [] [] none
      (fun s who _ _ act => act ≠ 0 ∧ ∃ q, who = .seq q ∧ (s.seq q).irqPend &&& (s.seq q).irqMask = 0)
      fun s who w _ _ t => t = (s.setWarp who (w.waiting s.cycle)).idle

/-! ## Groups 0x8_ and 0x9_ -/

/-- LD, ST, ATOM, RED and CCTL of addresses that pass the issue checks (R64, R181 to R184, R188, R192): an
access of the form's kind enters the memory pipeline with each lane's address and data as they were at issue,
the LD counter (LD, ATOM) or the ST counter (the others) rises by one, the destination of LD and ATOM counts as
unwritten, and no register, predicate, condition code or byte of memory changes yet. -/
def Obligations.MemoryFormsEnterThePipeline : Prop :=
  let addr := fun (sp : Bool) (a : Reg) (off : Word) (w : Warp) (L : Nat) =>
    if sp then 0xF000000000000 + ((w.word a.toNat L).toNat + off.toNat) % 2 ^ 32
    else (((w.group 2 a.toNat L : Int) + off.toInt) % 2 ^ 64).toNat
  let rdA := fun (sp : Bool) (a : Reg) => span (if sp then 1 else 2) a
  let sem := fun (x : Sys2Proof.Acc) (a : Machine.Acc) => a.scope = x.scope ∧ a.sem = x.sem ∧ a.ch = x.ch
  let atom := fun (i : AtomOp → Instr) (f : AtomFn) => ∀ x : AtomOp,
    MemoryForm (i x) x.h (rdA x.x.sp x.x.a ++ span x.ty.regs x.b ++ if f = .cas then span x.ty.regs x.c else [])
      (span x.ty.regs x.d) .ld (x.ty.width / 8) false true (addr x.x.sp x.x.a x.x.off)
      (fun _ a => a.op = .atom f ∧ a.ty = x.ty ∧ a.dreg = x.d.toNat ∧ sem x.x a)
      (fun w L => (w.src x.ty x.b L, w.src x.ty x.c L))
  let red := fun (i : RedOp → Instr) (f : AtomFn) => ∀ x : RedOp,
    MemoryForm (i x) x.h (rdA x.x.sp x.x.a ++ span x.ty.regs x.b) [] .st (x.ty.width / 8) false true
      (addr x.x.sp x.x.a x.x.off) (fun _ a => a.op = .red f ∧ a.ty = x.ty ∧ sem x.x a)
      (fun w L => (w.src x.ty x.b L, 0))
  let cctl := fun (i : CctlOp → Instr) (op : AccOp) => ∀ x : CctlOp, x.all = false →
    MemoryForm (i x) x.h (rdA x.sp x.a) [] .st 1 true false (addr x.sp x.a x.off) (fun _ a => a.op = op) (fun _ _ => (0, 0))
  (∀ x : LdOp, MemoryForm (.ld x) x.h (rdA x.x.sp x.x.a) (span x.ty.regs x.d) .ld (x.ty.width / 8) x.bw false
    (addr x.x.sp x.x.a x.x.off) (fun _ a => a.op = .ld ∧ a.ty = x.ty ∧ a.dreg = x.d.toNat ∧ sem x.x a) (fun _ _ => (0, 0))) ∧
  (∀ x : StOp, MemoryForm (.st x) x.h (rdA x.x.sp x.x.a ++ span x.ty.regs x.b) [] .st (x.ty.width / 8) x.bw true
    (addr x.x.sp x.x.a x.x.off) (fun _ a => a.op = .st ∧ a.ty = x.ty ∧ sem x.x a)
    (fun w L => (w.src x.ty x.b L % 2 ^ x.ty.width, 0))) ∧
  atom .atomAdd .add ∧ atom .atomMin .min ∧ atom .atomMax .max ∧ atom .atomAnd .and ∧ atom .atomOr .or ∧
  atom .atomXor .xor ∧ atom .atomXchg .xchg ∧ atom .atomCas .cas ∧
  red .redAdd .add ∧ red .redMin .min ∧ red .redMax .max ∧ red .redAnd .and ∧ red .redOr .or ∧ red .redXor .xor ∧
  cctl .cctlInvl1 .invL1 ∧ cctl .cctlWbmsc .wbMsc ∧
  ∀ x : CctlOp, x.all = true → Completes (.cctlInvl1 x) x.h .shared [] [] (some .st) (fun _ _ _ _ act => act ≠ 0)
    fun s who w p _ t => ∃ v a, s.RetiredIn who w x.h t v ∧ w.WentOn p v ∧ w.SameRegs v ∧ w.SamePreds v ∧ w.SameCC v ∧
      t.accs = s.accs ++ [a] ∧ a.op = .invAll ∧ a.who = who ∧ a.lanes.length = 1 ∧ v.counter .st = w.counter .st + 1

/-- The issue checks of LD, ST, ATOM, RED, PREF and CCTL (R182, R191, R192): the first check in the order aperture (0x04),
natural alignment (0x02; not byte-wise forms, PREF and CCTL), bounds (0x03), barrier object (0x05; ST, ATOM and RED) that
some lane of `active` fails gives the one trap, with exactly the lanes that fail that check, or for the barrier object
every lane of `active` (R390: R182 would name the failing lanes there, and the model follows R390); nothing else happens.
Where it rests on a choice of the model: log entries 40, 74. -/
def Obligations.IssueChecksTrapInOrder : Prop :=
  let form := fun (i : Instr) (h : Hdr) (rd regs : List Nat) (c : Option Ctr) (n : Nat) (bw wr : Bool) (sp : Bool) (a : Reg)
      (off : Word) =>
    Completes i h .shared (span (if sp then 1 else 2) a ++ rd) regs c
      (fun s who w _ act => ∃ L, act.getLsbD L = true ∧
        ((bw = false ∧ w.addr sp a off L % n ≠ 0) ∨ ∃ k, k < n ∧
          (s.apertureOk (s.agentOf who w) (w.addr sp a off L + k) = false ∨
           s.boundsOk (s.agentOf who w) (w.addr sp a off L + k) = false ∨
           (wr = true ∧ s.inBarrier (s.agentOf who w) (w.addr sp a off L + k) = true))))
      fun s who w p act t =>
        let g := s.agentOf who w
        let some_ := fun (f : Nat → Bool) (L : Nat) => (List.range n).any fun k => f (w.addr sp a off L + k)
        let ap := fun L => act.getLsbD L && some_ (fun b => !s.apertureOk g b) L
        let al := fun L => act.getLsbD L && (!bw && w.addr sp a off L % n != 0)
        let bo := fun L => act.getLsbD L && some_ (fun b => !s.boundsOk g b) L
        let any := fun (f : Nat → Bool) => (List.range 32).any f
        ∃ detail lanes, t = s.takeTrap who
          (if any ap then 0x04 else if any al then 0x02 else if any bo then 0x03 else 0x05) lanes detail p.pc ∧
          ∀ L, L < 32 → lanes.getLsbD L = (if any ap then ap L else if any al then al L else if any bo then bo L else act.getLsbD L)
  let atom := fun (i : AtomOp → Instr) (cas : Bool) => ∀ x : AtomOp, form (i x) x.h
    (span x.ty.regs x.b ++ if cas then span x.ty.regs x.c else []) (span x.ty.regs x.d) (some .ld) (x.ty.width / 8)
    false true x.x.sp x.x.a x.x.off
  let red := fun (i : RedOp → Instr) => ∀ x : RedOp,
    form (i x) x.h (span x.ty.regs x.b) [] (some .st) (x.ty.width / 8) false true x.x.sp x.x.a x.x.off
  let pref := fun (i : PrefOp → Instr) => ∀ x : PrefOp, form (i x) x.h [] [] none 1 true false x.sp x.a x.off
  let cctl := fun (i : CctlOp → Instr) => ∀ x : CctlOp, x.all = false →
    form (i x) x.h [] [] (some .st) 1 true false x.sp x.a x.off
  (∀ x : LdOp, form (.ld x) x.h [] (span x.ty.regs x.d) (some .ld) (x.ty.width / 8) x.bw false x.x.sp x.x.a x.x.off) ∧
  (∀ x : StOp, form (.st x) x.h (span x.ty.regs x.b) [] (some .st) (x.ty.width / 8) x.bw true x.x.sp x.x.a x.x.off) ∧
  atom .atomAdd false ∧ atom .atomMin false ∧ atom .atomMax false ∧ atom .atomAnd false ∧ atom .atomOr false ∧
  atom .atomXor false ∧ atom .atomXchg false ∧ atom .atomCas true ∧
  red .redAdd ∧ red .redMin ∧ red .redMax ∧ red .redAnd ∧ red .redOr ∧ red .redXor ∧
  pref .prefL1 ∧ pref .prefMsc ∧ cctl .cctlInvl1 ∧ cctl .cctlWbmsc

/-- FENCE (R190, R267), PREF of addresses that pass the issue checks (R191), and the memory forms with no lane
in `active` go on with no register, predicate, condition code or byte of memory changed; a FENCE with a lane in
`active`, an earlier access of whose warp is unfinished, is added to the warp's fences with its kind and scope. -/
def Obligations.FenceAndPrefetchChangeNoValue : Prop :=
  let addr := fun (sp : Bool) (a : Reg) (off : Word) (w : Warp) (L : Nat) => w.addr sp a off L
  let quiet := fun (s : State) (who : Issuer) (w : Warp) (p : PathEntry) (h : Hdr) (t : State) (v : Warp) =>
    s.RetiredIn who w h t v ∧ w.WentOn p v ∧ w.SameRegs v ∧ w.SamePreds v ∧ w.SameCC v ∧ t.accs = s.accs
  let pref := fun (i : PrefOp → Instr) => ∀ x : PrefOp,
    Completes (i x) x.h .shared (span (if x.sp then 1 else 2) x.a) [] none
      (fun s who w _ act => ∀ L, act.getLsbD L = true → s.apertureOk (s.agentOf who w) (addr x.sp x.a x.off w L) = true ∧
        s.boundsOk (s.agentOf who w) (addr x.sp x.a x.off w L) = true)
      fun s who w p _ t => ∃ v, quiet s who w p x.h t v
  let idle := fun (i : Instr) (h : Hdr) (sp : Bool) (a : Reg) (rd regs : List Nat) (c : Ctr) =>
    Completes i h .shared (span (if sp then 1 else 2) a ++ rd) regs (some c) (fun _ _ _ _ act => act = 0)
      fun s who w p _ t => ∃ v, s.Retired who w h t v ∧ w.WentOn p v ∧ w.SameData v
  let atom := fun (i : AtomOp → Instr) (cas : Bool) => ∀ x : AtomOp, idle (i x) x.h x.x.sp x.x.a
    (span x.ty.regs x.b ++ if cas then span x.ty.regs x.c else []) (span x.ty.regs x.d) .ld
  let red := fun (i : RedOp → Instr) => ∀ x : RedOp, idle (i x) x.h x.x.sp x.x.a (span x.ty.regs x.b) [] .st
  pref .prefL1 ∧ pref .prefMsc ∧
  (∀ x : LdOp, idle (.ld x) x.h x.x.sp x.x.a [] (span x.ty.regs x.d) .ld) ∧
  (∀ x : StOp, idle (.st x) x.h x.x.sp x.x.a (span x.ty.regs x.b) [] .st) ∧
  atom .atomAdd false ∧ atom .atomMin false ∧ atom .atomMax false ∧ atom .atomAnd false ∧ atom .atomOr false ∧
  atom .atomXor false ∧ atom .atomXchg false ∧ atom .atomCas true ∧
  red .redAdd ∧ red .redMin ∧ red .redMax ∧ red .redAnd ∧ red .redOr ∧ red .redXor ∧
  (∀ x : CctlOp, idle (.cctlInvl1 x) x.h x.sp x.a [] [] .st ∧ idle (.cctlWbmsc x) x.h x.sp x.a [] [] .st) ∧
  ∀ x : FenceOp, Completes (.fence x) x.h .shared [] [] none (fun _ _ _ _ _ => True) fun s who w p act t =>
    ∃ v, quiet s who w p x.h t v ∧
      (act ≠ 0 → (∃ a ∈ s.accs, a.who = who ∧ a.id < s.nextId) →
        ∃ f ∈ v.fences, f.kind = x.kind ∧ f.scope = x.scope ∧ f.lanes = act ∧ f.stamp = s.nextId)

/-- The last lane of an access to the block's own scratchpad or a sequencer's SRAM, performed in one piece (R63, R184,
R188, R189). ST: the bytes at the lane's location become the low bytes of its data, lowest first, and every other
byte of memory reads as before. LD: the destination of the lane holds the bytes, lowest first, extended by the
type; every other register of the warp and every byte of memory is as before. ATOM and RED: the location takes the
read-modify-write of its old value, and for ATOM the destination the old value itself, as one step: ADD modulo 2^n, or
for f32 and each element of bf16x2 the exact sum rounded to nearest even; MIN and MAX by the sign of the type, or for f32
those of R132; AND, OR, XOR, XCHG and CAS bit by bit. The access is finished.
Where it rests on a choice of the model: log entry 19. -/
def Obligations.LocalAccessesPerform : Prop :=
  let rmw := fun (f : AtomFn) (ty : LTy) (old b c new : Nat) =>
    let n := ty.width
    let elem := fun (u k : Nat) => ty.ffmt.decode (u / 2 ^ (ty.ffmt.bits * k) % 2 ^ ty.ffmt.bits)
    let sum := fun (k : Nat) => ty.ffmt.encode .nearestEven false ((elem old k).add .nearestEven (elem b k))
    let f32 := fun (m : Bool → Fv → Fv → Fv) => FFmt.f32.encode .nearestEven false (m false (FFmt.f32.decode (old % 2 ^ 32)) (FFmt.f32.decode (b % 2 ^ 32)))
    (f = .add → ty ≠ .f32 → ty ≠ .bf16x2 → new = (old + b) % 2 ^ n) ∧
    (f = .add → ty = .f32 → new = sum 0) ∧ (f = .add → ty = .bf16x2 → new = sum 0 + sum 1 * 2 ^ 16) ∧
    (f = .min → ty ≠ .f32 → new = if LTy.int ty b < LTy.int ty old then b % 2 ^ n else old) ∧
    (f = .max → ty ≠ .f32 → new = if LTy.int ty old < LTy.int ty b then b % 2 ^ n else old) ∧
    (f = .min → ty = .f32 → new = f32 Fv.min) ∧ (f = .max → ty = .f32 → new = f32 Fv.max) ∧
    (f = .and → new = old &&& (b % 2 ^ n)) ∧ (f = .or → new = old ||| (b % 2 ^ n)) ∧ (f = .xor → new = old ^^^ (b % 2 ^ n)) ∧
    (f = .xchg → new = b % 2 ^ n) ∧ (f = .cas → new = if old = c % 2 ^ n then b % 2 ^ n else old)
  let due := fun (s : State) (id : Nat) (lanes : Mask) (a : Machine.Acc) (l : LaneAcc) =>
    s.acc? id = some a ∧ a.lanes = [l] ∧ a.part = [] ∧ l.lane < 32 ∧ lanes.getLsbD l.lane = true ∧ l.req = false ∧
    s.parks = [] ∧ s.mayPerform a l = true ∧ isLocal l.addr = true ∧ l.addr % 65536 + a.size ≤ 65536
  let loc := fun (s : State) (a : Machine.Acc) (l : LaneAcc) => localKey (s.accAgent a) l.addr
  let bytes := fun (s : State) (a : Machine.Acc) (l : LaneAcc) => ofBytes ((List.range a.size).map fun k => s.byte (loc s a l + k))
  let becomes := fun (s t : State) (a : Machine.Acc) (l : LaneAcc) (new : Nat) =>
    (∀ k, k < a.size → t.byte (loc s a l + k) = BitVec.ofNat 8 (new / 256 ^ k)) ∧
    ∀ x, (x < loc s a l ∨ loc s a l + a.size ≤ x) → t.byte x = s.byte x
  let others := fun (w v : Warp) (a : Machine.Acc) (l : LaneAcc) =>
    ∀ r L, L < 32 → (r < a.dreg ∨ a.dreg + a.ty.regs ≤ r ∨ L ≠ l.lane) → v.word r L = w.word r L
  (∀ (s : State) (id : Nat) (lanes : Mask) (lost : Bool) (a : Machine.Acc) (l : LaneAcc), due s id lanes a l → a.op = .st →
     ∃ t, exec (.accessPerformed id lanes lost) s = .next t ∧ becomes s t a l l.data ∧ t.acc? id = none) ∧
  (∀ (s : State) (id : Nat) (lanes : Mask) (a : Machine.Acc) (l : LaneAcc) (w : Warp), due s id lanes a l → a.op = .ld →
     s.bad = [] → s.warp? a.who = some w → a.dreg + a.ty.regs ≤ 384 →
     ∃ t v, exec (.loadDataReturn id lanes false false) s = .next t ∧ t.warp? a.who = some v ∧
       (∀ i, i < a.ty.regs → v.word (a.dreg + i) l.lane = wordAt (a.ty.extend (bytes s a l)) i) ∧
       others w v a l ∧ (∀ x, t.byte x = s.byte x) ∧ (∀ q ∈ v.pend, q.id ≠ id) ∧ t.acc? id = none) ∧
  (∀ (s : State) (id : Nat) (lanes : Mask) (a : Machine.Acc) (l : LaneAcc) (w : Warp) (f : AtomFn), due s id lanes a l →
     a.op = .atom f → s.bad = [] → s.warp? a.who = some w → a.dreg + a.ty.regs ≤ 384 →
     ∃ t v new, exec (.loadDataReturn id lanes false false) s = .next t ∧ t.warp? a.who = some v ∧
       rmw f a.ty (bytes s a l) l.data l.cmp new ∧ becomes s t a l new ∧
       (∀ i, i < a.ty.regs → v.word (a.dreg + i) l.lane = wordAt (bytes s a l) i) ∧ others w v a l ∧ t.acc? id = none) ∧
  ∀ (s : State) (id : Nat) (lanes : Mask) (lost : Bool) (a : Machine.Acc) (l : LaneAcc) (f : AtomFn), due s id lanes a l →
    a.op = .red f → s.bad = [] →
    ∃ t new, exec (.accessPerformed id lanes lost) s = .next t ∧ rmw f a.ty (bytes s a l) l.data l.cmp new ∧
      becomes s t a l new ∧ (∀ w, s.warp? a.who = some w → ∃ v, t.warp? a.who = some v ∧ w.SameRegs v) ∧ t.acc? id = none

/-- The last lane of an ST or LD whose page the issuing die maps without a mirror, in one piece and let through by the
regulators (R20, R175, R184): a store's bytes stand at the physical address and every other byte is as before; a load's
destination holds them. Remote writes (R433 to R435) and the host window (R268): a response completes its lane with the kept
result; a re-send before 100 µs does nothing; after that one of the five that is lost, or finds its tag kept or its home full,
changes no byte and counts up; after five nothing more is sent of a duplex write, and any other faults its job; results older
than 1 ms of no outstanding write leave; a lost read is sent again; a completed host read gives its lane the value. An access
of one lane that meets a translation fault (R183, R400) parks on its page with its pending entry: its warp counts as parked,
and no register or byte changes (stated where no record of kind 1 is written).
Where it rests on a choice of the model: log entries 19, 22, 23, 44. -/
def Obligations.PagedRemoteAndHostAccesses : Prop :=
  (∀ (s u : State) (id : Nat) (lanes : Mask) (a : Machine.Acc) (l : LaneAcc) (x : Xl),
     let g := s.accAgent a
     s.acc? id = some a → a.lanes = [l] → a.part = [] → l.lane < 32 → lanes.getLsbD l.lane = true → l.req = false → s.parks = [] →
     s.mayPerform a l = true → isLocal l.addr = false → l.addr % 65536 + a.size ≤ 65536 →
     s.translate g l.addr a.op.perm = (u, some x) → x.dup = false → homeOf x.pa = some g.die → s.absent g.die = false →
     s.poison = [] → (s.gatePa g.tenant (s.walkPas g l.addr)).2 = false → u.gatePa g.tenant (lineStarts x.pa a.size) = (u, false) →
     (a.op = .st → ∃ t, exec (.accessPerformed id lanes false) s = .next t ∧
       (∀ k, k < a.size → t.byte (x.pa + k) = BitVec.ofNat 8 (l.data / 256 ^ k)) ∧
       (∀ b, (b < x.pa ∨ x.pa + a.size ≤ b) → t.byte b = s.byte b) ∧ t.acc? id = none) ∧
     ∀ w, a.op = .ld → s.warp? a.who = some w → a.dreg + a.ty.regs ≤ 384 →
       ∃ t v, exec (.loadDataReturn id lanes false false) s = .next t ∧ t.warp? a.who = some v ∧
         (∀ i, i < a.ty.regs → v.word (a.dreg + i) l.lane =
           wordAt (a.ty.extend (ofBytes ((List.range a.size).map fun k => s.byte (x.pa + k)))) i) ∧
         (∀ b, t.byte b = s.byte b) ∧ t.acc? id = none) ∧
  (∀ (s u : State) (id : Nat) (lanes : Mask) (a : Machine.Acc) (l : LaneAcc),
     let g := s.accAgent a
     let page := l.addr / 65536
     s.acc? id = some a → a.op.isData = true → a.lanes = [l] → a.part = [] → l.lane < 32 → lanes.getLsbD l.lane = true → l.req = false →
     s.parks = [] → s.mayPerform a l = true → isLocal l.addr = false → l.addr % 65536 + a.size ≤ 65536 →
     s.translate g l.addr a.op.perm = (u, none) →
     (s.terr g.die g.tenant = 0 ∨ (g.die, g.tenant, page, 1) ∈ s.pendq) →
     ∃ t, exec (if a.op.loads then .loadDataReturn id lanes false false else .accessPerformed id lanes false) s = .next t ∧
       t.acc? id = some { a with parked := true } ∧
       (∃ q, t.parks = [q] ∧ q.who = .lane id l.lane ∧ q.die = g.die ∧ q.tenant = g.tenant ∧ q.page = page ∧ q.reason = 1) ∧
       (g.die, g.tenant, page, 1) ∈ t.pendq ∧ (∀ i, t.warp? i = s.warp? i) ∧ (∀ w, t.parkedWarp a.who w = true) ∧
       ∀ b, t.byte b = s.byte b) ∧
  ((∀ (s : State) (die : DieId) (tag : BitVec 24) (r : Remote) (k : Kept) (a : Machine.Acc),
     s.remotes.find? (fun q => q.die == die && q.tag == tag) = some r →
     s.kept.find? (fun q => q.die == die && q.tag == tag) = some k → s.acc? r.acc = some a → a.op = .st →
     r.cmd = none → r.offs.length = a.size →
     ∃ t, exec (.remoteResponse die tag) s = .next t ∧ (∀ q ∈ t.remotes, ¬ (q.die = die ∧ q.tag = tag)) ∧
       (∀ b, t.acc? r.acc = some b → ∀ l ∈ b.lanes, l.lane ≠ r.lane) ∧ ∀ x, t.byte x = s.byte x) ∧
   (∀ (s : State) (die : DieId) (tag : BitVec 24) (lost : Bool) (r : Remote),
     s.remotes.find? (fun q => q.die == die && q.tag == tag) = some r →
     ((s.die die).dtime < r.sent + 100000 → exec (.remoteWriteResend die tag lost) s = .next s) ∧
     (r.sent + 100000 ≤ (s.die die).dtime → r.resends < 5 →
       (lost = true ∨ (∃ k ∈ s.kept, k.die = die ∧ k.tag = tag) ∨ 65536 ≤ (s.kept.filter fun k => k.home == r.home).length) →
       ∃ t, exec (.remoteWriteResend die tag lost) s = .next t ∧ (∀ x, t.byte x = s.byte x) ∧ t.kept = s.kept ∧
         t.remotes = s.remotes.map fun q =>
           if q.die = die ∧ q.tag = tag
           then { q with resends := q.resends + (if r.home = die then 0 else 1), sent := (s.die die).dtime } else q) ∧
     (r.sent + 100000 ≤ (s.die die).dtime → 5 ≤ r.resends →
       (r.duplex = true → exec (.remoteWriteResend die tag lost) s = .next s) ∧
       (r.duplex = false → ∃ t, exec (.remoteWriteResend die tag lost) s = .next t ∧ (∀ q ∈ t.remotes, ¬ (q.die = die ∧ q.tag = tag)) ∧
         ∀ a h wid b j, r.cmd = none → s.acc? r.acc = some a → a.who = .warp h wid → s.block? h = some b → s.job? b.job = some j →
           j.gone = false → ∀ c ∈ t.blocks, c.job = b.job → c.halted = true))) ∧
   (∀ (s : State) (die : DieId), ∃ t, exec (.keptResultAged die) s = .next t ∧ { t with kept := s.kept } = s ∧
     ∀ k, k ∈ t.kept ↔ k ∈ s.kept ∧ (k.home ≠ die ∨ (s.die die).dtime ≤ k.time + 1000000 ∨
       ∃ r ∈ s.remotes, r.die = k.die ∧ r.tag = k.tag)) ∧
   (∀ (s : State) (id : Nat) (a : Machine.Acc), s.acc? id = some a → a.op = .ld → s.hostOut = [] →
     ∃ t, exec (.remoteReadResend id) s = .next t ∧ (∀ x, t.byte x = s.byte x) ∧
       ∀ b, t.acc? id = some b → ∀ l ∈ b.lanes, l.req = false) ∧
   ∀ (s : State) (id lane : Nat) (value : BitVec 128) (a : Machine.Acc) (h : HostReq) (w : Warp),
     s.acc? id = some a → a.op = .ld → s.hostOut.find? (fun h => h.acc == id && h.lane == lane && h.kind != 1) = some h →
     h.size = a.size → s.warp? a.who = some w → a.dreg + a.ty.regs ≤ 384 → lane < 32 →
     ∃ t v, exec (.hostWindowCompletion id lane .success value) s = .next t ∧ t.warp? a.who = some v ∧
       (∀ i, i < a.ty.regs → v.word (a.dreg + i) lane = wordAt (a.ty.extend (value.toNat % 2 ^ (8 * a.size))) i) ∧
       (∀ x, t.byte x = s.byte x) ∧ t.hostOut = s.hostOut.erase h)

/-! ## Group 0xA_ -/

/-- complete(b) of R197 is its loop: from an armed object that expects a thread or a byte per phase, it repeats the loop's body
until its condition fails; an unarmed object is left alone. BAR on a core (R193 to R198), for an object without an
uncorrectable error: INIT arms or zeroes it, EXPECT adds to EXPB, ARRIVE adds a thread for each lane of `active`, each with
complete(b); WAIT retires when PHASE differs from bit 0 of B and holds the warp otherwise; a failing check gives the barrier
trap with index and reason, unretired. Only the object's sixteen bytes change. INIT, EXPECT and WAIT act where the earlier
accesses that R252 puts before them are performed. A begun WAIT returns for a change of phase it has seen, and traps with
reason 4 where it has seen the object disarmed. An index at or above BARRIERS, or a span position at or above the span size,
gives the bounds trap 0x03, unretired (R196), as does any index on a sequencer (R69).
Where it rests on a choice of the model: log entry 40. -/
def Obligations.BarrierFormsActOnTheObject : Prop :=
  (let due := fun (b : Barrier) => b.armed = true ∧ b.expt ≤ b.arrt ∧ b.expb ≤ b.arrb
   let body := fun (b : Barrier) =>
     { b with arrt := b.arrt - b.expt, arrb := b.arrb - b.expb, phase := !b.phase, expb := b.baseb }
   ∀ b : Barrier, (b.armed = false → b.complete = b) ∧
     ((b.expt ≠ 0 ∨ b.baseb ≠ 0) → ¬ due b.complete ∧
       ∃ l : List Barrier, l.head? = some b ∧ l.getLast? = some b.complete ∧
         ∀ k x y, l[k]? = some x → l[k + 1]? = some y → due x ∧ y = body x)) ∧
  (let at_ := fun (s : State) (who : Issuer) (act : Mask) (i sp : Nat) (o : Barrier) => act ≠ 0 ∧ ∃ h wid b,
     who = .warp h wid ∧ s.block? h = some b ∧ i < kdBarriers b.kd ∧ sp < kdSpan b.kd ∧
     s.badIn (barrierKey h sp i) 16 = false ∧ s.barrier h sp i = o
   let clear := fun (s : State) (who : Issuer) (w : Warp) (act : Mask) (i sp : Nat) => s.formClear who w act (barrierVa sp i) 16 = true
   let becomes := fun (s t : State) (who : Issuer) (i sp : Nat) (o : Barrier) => ∃ h wid, who = .warp h wid ∧
     (∀ k, k < 16 → t.byte (barrierKey h sp i + k) = BitVec.ofNat 8 (o.toNat / 256 ^ k)) ∧
     ∀ a, (a < barrierKey h sp i ∨ barrierKey h sp i + 16 ≤ a) → t.byte a = s.byte a
   let goes := fun (w : Warp) (who : Issuer) (p : PathEntry) (t : State) => ∃ v, t.warp? who = some v ∧ w.WentOn p v ∧ w.SameData v
   let traps := fun (s : State) (who : Issuer) (_ : Warp) (p : PathEntry) (act : Mask) (i reason : Nat) (t : State) =>
     t = s.takeTrap who 0x05 act (i + reason * 2 ^ 32) p.pc
   let ix := fun (w : Warp) (j : BarIx) => match j with
     | .bidx i => i.toNat
     | .reg a => (w.word a.toNat 0).toNat % 256
   let ixRd := fun (j : BarIx) => match j with
     | .bidx _ => []
     | .reg a => span 1 a
   let bounds := fun (i : Instr) (h : Hdr) (rd : List Nat) (ix sp : Warp → Nat) =>
     Completes i h .shared rd [] none
       (fun s who w _ act => act ≠ 0 ∧ ((∃ q, who = .seq q) ∨ ∃ blk wid b, who = .warp blk wid ∧ s.block? blk = some b ∧
         kdBarriers b.kd ≤ ix w))
       (fun s who w p act t => t = s.takeTrap who 0x03 act (ix w) p.pc) ∧
     Completes i h .shared rd [] none
       (fun s who w _ act => act ≠ 0 ∧ ∃ blk wid b, who = .warp blk wid ∧ s.block? blk = some b ∧ ix w < kdBarriers b.kd ∧
         kdSpan b.kd ≤ sp w)
       (fun s who w p act t => t = s.takeTrap who 0x03 act (sp w) p.pc)
   let at' := fun (rmt : Bool) (spc : BitVec 2) (w : Warp) => if rmt then spc.toNat else w.spos
   (∀ x : BarInit, bounds (.barInit x) x.h (ixRd x.ix ++ if x.off then [] else spanB 1 x.b ++ span 1 x.c)
     (fun w => ix w x.ix) (·.spos)) ∧
   (∀ x : BarExpect, bounds (.barExpect x) x.h (ixRd x.ix ++ spanB 1 x.b) (fun w => ix w x.ix) (at' x.rmt x.spc)) ∧
   (∀ x : BarArrive, bounds (.barArrive x) x.h (ixRd x.ix) (fun w => ix w x.ix) (at' x.rmt x.spc)) ∧
   (∀ x : BarWait, bounds (.barWait x) x.h (ixRd x.ix ++ spanB 1 x.b) (fun w => ix w x.ix) (·.spos)) ∧
   (∀ x : BarInit,
     let rd := ixRd x.ix ++ if x.off then [] else spanB 1 x.b ++ span 1 x.c
     let t_ := fun (w : Warp) => w.srcB32 x.b 0
     let c_ := fun (w : Warp) => (w.word x.c.toNat 0).toNat
     let bad := fun (w : Warp) => 32768 < t_ w ∨ 2 ^ 24 ≤ c_ w ∨ (t_ w = 0 ∧ c_ w = 0)
     Completes (.barInit x) x.h .shared rd [] none
       (fun s who w _ act => x.off = true ∧ clear s who w act (ix w x.ix) w.spos ∧ ∃ o, at_ s who act (ix w x.ix) w.spos o)
       (fun s who w p _ t => goes w who p t ∧ becomes s t who (ix w x.ix) w.spos ⟨false, false, 0, 0, 0, 0, 0⟩) ∧
     Completes (.barInit x) x.h .shared rd [] none
       (fun s who w _ act => x.off = false ∧ ¬ bad w ∧ clear s who w act (ix w x.ix) w.spos ∧ s.early = [] ∧ (∀ b ∈ s.blocks, b.overflow = []) ∧
         ∃ o, o.armed = false ∧ at_ s who act (ix w x.ix) w.spos o)
       (fun s who w p _ t => goes w who p t ∧
         becomes s t who (ix w x.ix) w.spos (Barrier.complete ⟨true, false, 0, t_ w, 0, c_ w, c_ w⟩)) ∧
     Completes (.barInit x) x.h .shared rd [] none
       (fun s who w _ act => x.off = false ∧ ∃ o, o.armed = true ∧ at_ s who act (ix w x.ix) w.spos o)
       (fun s who w p act t => traps s who w p act (ix w x.ix) 1 t) ∧
     Completes (.barInit x) x.h .shared rd [] none
       (fun s who w _ act => x.off = false ∧ bad w ∧ ∃ o, o.armed = false ∧ at_ s who act (ix w x.ix) w.spos o)
       (fun s who w p act t => traps s who w p act (ix w x.ix) 5 t)) ∧
   (∀ x : BarExpect,
     let sp := fun (w : Warp) => if x.rmt then x.spc.toNat else w.spos
     let n := fun (w : Warp) => w.srcB32 x.b 0
     let form := Completes (.barExpect x) x.h .shared (ixRd x.ix ++ spanB 1 x.b) [] none
     form (fun s who w _ act => clear s who w act (ix w x.ix) (sp w) ∧ ∃ o, o.armed = true ∧ o.expb + n w < 2 ^ 32 ∧ at_ s who act (ix w x.ix) (sp w) o)
       (fun s who w p _ t => ∃ h wid, who = .warp h wid ∧ goes w who p t ∧ becomes s t who (ix w x.ix) (sp w)
         (Barrier.complete { s.barrier h (sp w) (ix w x.ix) with expb := (s.barrier h (sp w) (ix w x.ix)).expb + n w })) ∧
     form (fun s who w _ act => ∃ o, o.armed = true ∧ 2 ^ 32 ≤ o.expb + n w ∧ at_ s who act (ix w x.ix) (sp w) o)
       (fun s who w p act t => traps s who w p act (ix w x.ix) 3 t) ∧
     form (fun s who w _ act => ∃ o, o.armed = false ∧ at_ s who act (ix w x.ix) (sp w) o)
       (fun s who w p act t => traps s who w p act (ix w x.ix) 2 t)) ∧
   (∀ x : BarArrive,
     let sp := fun (w : Warp) => if x.rmt then x.spc.toNat else w.spos
     let n := fun (act : Mask) => ((List.range 32).filter fun L => act.getLsbD L).length
     let form := Completes (.barArrive x) x.h .shared (ixRd x.ix) [] none
     form (fun s who w _ act => s.quiet who act = true ∧ ∃ o, o.armed = true ∧ o.arrt + n act ≤ 65535 ∧ at_ s who act (ix w x.ix) (sp w) o)
       (fun s who w p act t => ∃ h wid, who = .warp h wid ∧ goes w who p t ∧ becomes s t who (ix w x.ix) (sp w)
         (Barrier.complete { s.barrier h (sp w) (ix w x.ix) with arrt := (s.barrier h (sp w) (ix w x.ix)).arrt + n act })) ∧
     form (fun s who w _ act => ∃ o, o.armed = true ∧ 65535 < o.arrt + n act ∧ at_ s who act (ix w x.ix) (sp w) o)
       (fun s who w p act t => traps s who w p act (ix w x.ix) 3 t) ∧
     form (fun s who w _ act => ∃ o, o.armed = false ∧ at_ s who act (ix w x.ix) (sp w) o)
       (fun s who w p act t => traps s who w p act (ix w x.ix) 2 t)) ∧
   ∀ x : BarWait,
     let form := Completes (.barWait x) x.h .shared (ixRd x.ix ++ spanB 1 x.b) [] none
     let key := fun (who : Issuer) (w : Warp) (k : Nat) => ∃ h wid, who = .warp h wid ∧ k = barrierKey h w.spos (ix w x.ix)
     let bit := fun (w : Warp) => bitAt (w.srcB32 x.b 0) 0
     form (fun s who w _ act => clear s who w act (ix w x.ix) w.spos ∧ ∃ o, at_ s who act (ix w x.ix) w.spos o ∧
         ((w.hold = .none ∧ o.armed = true ∧ o.phase ≠ bit w) ∨ ∃ k, key who w k ∧ w.hold = .barWait k (bit w) (some true)))
       (fun s who w p _ t => ∃ v, s.RetiredIn who w x.h t v ∧ w.WentOn p v ∧ w.SameData v) ∧
     form (fun s who w _ act => ∃ o k, o.armed = true ∧ o.phase = bit w ∧ at_ s who act (ix w x.ix) w.spos o ∧
         key who w k ∧ (w.hold = .none ∨ w.hold = .barWait k (bit w) none))
       (fun s who w _ _ t => ∃ k v, key who w k ∧ v = { w.waiting s.cycle with hold := .barWait k (bit w) none } ∧
         t = (s.setWarp who v).idle) ∧
     form (fun s who w _ act => w.hold = .none ∧ ∃ o, o.armed = false ∧ at_ s who act (ix w x.ix) w.spos o)
       (fun s who w p act t => traps s who w p act (ix w x.ix) 2 t) ∧
     form (fun s who w _ act => ∃ o k, at_ s who act (ix w x.ix) w.spos o ∧ key who w k ∧ w.hold = .barWait k (bit w) (some false))
       (fun s who w p act t => traps s who w p act (ix w x.ix) 4 t))

/-- A committed or retired run moves its counter past the longest marked initial run and no further, and the marks that stay
are those at or above it (R200). The ring forms (R200, R201) at a good descriptor: QCLAIM with room returns
CLAIM and moves it by n with predicate 0, without room returns CLAIM with predicate 1 and moves nothing; QAWAIT first in the
queue with n committed positions returns HEAD and moves it by n, else it waits; QCOMMIT and QRETIRE of unmarked claimed, or
awaited, positions move COMMIT or RETIRE. The memory is that of writing the counters back, to the host with Relaxed Ordering
clear for a release at SYSTEM scope or behind a fence of one (R267). A descriptor that fails a check faults the job: its warps
are gone and its blocks stopped (R201). Each acts where the earlier accesses that R252 puts before it are performed and the
regulators let it through; what a hung sequencer does is not stated here (R456).
Where it rests on a choice of the model: log entries 44, 76. -/
def Obligations.RingFormsMoveTheCounters : Prop :=
  (∀ (r : Ring) (m : RingMarks) (ps : List Nat),
     (let q := commitMarks r m ps
      r.commit ≤ q.1.commit ∧ (∀ p, r.commit ≤ p → p < q.1.commit → p ∈ m.commits ++ ps) ∧
       q.1.commit ∉ m.commits ++ ps ∧ (∀ p, p ∈ q.2.commits ↔ p ∈ m.commits ++ ps ∧ q.1.commit ≤ p) ∧
       q.1.claim = r.claim ∧ q.1.head = r.head ∧ q.1.retire = r.retire) ∧
     let q := retireMarks r m ps
     r.retire ≤ q.1.retire ∧ (∀ p, r.retire ≤ p → p < q.1.retire → p ∈ m.retires ++ ps) ∧
       q.1.retire ∉ m.retires ++ ps ∧ (∀ p, p ∈ q.2.retires ↔ p ∈ m.retires ++ ps ∧ q.1.retire ≤ p) ∧
       q.1.claim = r.claim ∧ q.1.head = r.head ∧ q.1.commit = r.commit) ∧
  (let reads := fun (s u : State) (who : Issuer) (w : Warp) (a : Reg) (act : Mask) (r : Ring) =>
     act ≠ 0 ∧ s.issueCheck (s.agentOf who w) act 64 false false (fun _ => w.group 2 a.toNat 0) = none ∧
     s.formClear who w act (w.group 2 a.toNat 0) 64 = true ∧ (s.gate (s.agentOf who w) (w.group 2 a.toNat 0) true).2 = false ∧
     s.ringAt (s.agentOf who w) (w.group 2 a.toNat 0) = (u, .ok r)
   let ring := fun (s u : State) (who : Issuer) (w : Warp) (a : Reg) (act : Mask) (n : Nat) (r : Ring) =>
     reads s u who w a act r ∧ r.fault n = none ∧ s.cutOff who = false
   let broken := fun (s : State) (who : Issuer) (w : Warp) (a : Reg) (act : Mask) (n : Nat) =>
     ∃ u r h wid b j, reads s u who w a act r ∧ r.fault n ≠ none ∧ who = .warp h wid ∧ s.block? h = some b ∧
       s.job? b.job = some j ∧ j.gone = false
   let stops := fun (s : State) (who : Issuer) (t : State) => ∃ h wid b, who = .warp h wid ∧ s.block? h = some b ∧
     t.warp? who = none ∧ ∀ c ∈ t.blocks, c.job = b.job → c.halted = true
   let wrote := fun (u x : State) (who : Issuer) (w : Warp) (s : State) (a : Reg) (act : Mask) (rel : Bool) (r : Ring) =>
     u.putRing (s.agentOf who w) (w.group 2 a.toNat 0) r ((rel && r.scope == 3) || w.sysRel &&& act != 0) = (x, .ok ())
   let marks := fun (u s : State) (who : Issuer) (w : Warp) (a : Reg) => u.marks (u.ringKey (s.agentOf who w) (w.group 2 a.toNat 0))
   (∀ x : QclaimOp,
     let n := fun (w : Warp) => w.srcB32 x.b 0
     let form := Completes (.qclaim x) x.h .shared (span 2 x.a ++ spanB 1 x.b) (span 2 x.d) none
     form (fun s who w _ act => ∃ u r y, ring s u who w x.a act (n w) r ∧ r.claim + n w - r.retire ≤ r.cap ∧
         wrote u y who w s x.a act false { r with claim := r.claim + n w })
       (fun s who w _ act t => ∃ u r y v, ring s u who w x.a act (n w) r ∧
         wrote u y who w s x.a act false { r with claim := r.claim + n w } ∧ t.mem = y.mem ∧ t.warp? who = some v ∧
         w.Wrote v 2 x.d act (fun _ => r.claim) ∧ w.WrotePred v x.pd.toNat act (fun _ => false)) ∧
     form (fun s who w _ act => broken s who w x.a act (n w)) (fun s who _ _ _ t => stops s who t) ∧
     form (fun s who w _ act => ∃ u r, ring s u who w x.a act (n w) r ∧ r.cap < r.claim + n w - r.retire)
       fun s who w _ act t => ∃ u r v, ring s u who w x.a act (n w) r ∧ t.mem = u.mem ∧ t.warp? who = some v ∧
         w.Wrote v 2 x.d act (fun _ => r.claim) ∧ w.WrotePred v x.pd.toNat act (fun _ => true)) ∧
   (∀ x : QawaitOp,
     let n := fun (w : Warp) => w.srcB32 x.b 0
     let form := Completes (.qawait x) x.h .shared (span 2 x.a ++ spanB 1 x.b) (span 2 x.d) none
     form (fun s who w _ act => ∃ u r y, ring s u who w x.a act (n w) r ∧ n w ≠ 0 ∧ n w ≤ r.commit - r.head ∧
         (marks u s who w x.a).waiters.headD who = who ∧ wrote u y who w s x.a act false { r with head := r.head + n w })
       (fun s who w _ act t => ∃ u r y v, ring s u who w x.a act (n w) r ∧
         wrote u y who w s x.a act false { r with head := r.head + n w } ∧ t.mem = y.mem ∧ t.warp? who = some v ∧
         w.Wrote v 2 x.d act fun _ => r.head) ∧
     form (fun s who w _ act => broken s who w x.a act (n w)) (fun s who _ _ _ t => stops s who t) ∧
     form (fun s who w _ act => ∃ u r, ring s u who w x.a act (n w) r ∧ n w ≠ 0 ∧ r.commit - r.head < n w)
       fun s who w _ act t => ∃ (u : State) (r : Ring) (v : Warp), ring s u who w x.a act (n w) r ∧ t.mem = u.mem ∧ t.warp? who = some v ∧ v.paths = w.paths ∧ w.SameRegs v) ∧
   (∀ x : QposOp,
     let n := fun (w : Warp) => w.srcB32 x.b 0
     let c := fun (w : Warp) => w.group 2 x.c.toNat 0
     Completes (.qcommit x) x.h .shared (span 2 x.a ++ spanB 1 x.b ++ span 2 x.c) [] none
       (fun s who w _ act => s.quiet who act = true ∧ n w ≠ 0 ∧ broken s who w x.a act (n w)) (fun s who _ _ _ t => stops s who t) ∧
     Completes (.qcommit x) x.h .shared (span 2 x.a ++ spanB 1 x.b ++ span 2 x.c) [] none
       (fun s who w _ act => s.quiet who act = true ∧ ∃ u r y, ring s u who w x.a act (n w) r ∧ n w ≠ 0 ∧ r.commit ≤ c w ∧ c w + n w ≤ r.claim ∧
         (∀ p ∈ (marks u s who w x.a).commits, p < c w ∨ c w + n w ≤ p) ∧
         wrote u y who w s x.a act true (commitMarks r (marks u s who w x.a) (rangeFrom (c w) (n w))).1)
       fun s who w _ act t => ∃ u r y, ring s u who w x.a act (n w) r ∧
         wrote u y who w s x.a act true (commitMarks r (marks u s who w x.a) (rangeFrom (c w) (n w))).1 ∧ t.mem = y.mem) ∧
   ∀ x : QposOp,
     let n := fun (w : Warp) => w.srcB32 x.b 0
     let c := fun (w : Warp) => w.group 2 x.c.toNat 0
     Completes (.qretire x) x.h .shared (span 2 x.a ++ spanB 1 x.b ++ span 2 x.c) [] none
       (fun s who w _ act => s.quiet who act = true ∧ n w ≠ 0 ∧ broken s who w x.a act (n w)) (fun s who _ _ _ t => stops s who t) ∧
     Completes (.qretire x) x.h .shared (span 2 x.a ++ spanB 1 x.b ++ span 2 x.c) [] none
       (fun s who w _ act => s.quiet who act = true ∧ ∃ u r y, ring s u who w x.a act (n w) r ∧ n w ≠ 0 ∧ r.retire ≤ c w ∧ c w + n w ≤ r.head ∧
         (∀ p ∈ (marks u s who w x.a).retires, p < c w ∨ c w + n w ≤ p) ∧
         wrote u y who w s x.a act true (retireMarks r (marks u s who w x.a) (rangeFrom (c w) (n w))).1)
       fun s who w _ act t => ∃ u r y, ring s u who w x.a act (n w) r ∧
         wrote u y who w s x.a act true (retireMarks r (marks u s who w x.a) (rangeFrom (c w) (n w))).1 ∧ t.mem = y.mem)

/-- PUSH to the copy engine or the traversal unit (R203 to R205, R210, R292): the lowest lanes of `active` that find
room are accepted, one command each, in lane order, with the 64 bytes of the lane's registers; PD is 0 in the
accepted lanes and 1 in the other lanes of `active`. PUSH to a ring accepts as the room of the ring allows: the
records go to consecutive positions from CLAIM, which then count as claimed and committed; with no room nothing is
accepted and no byte of memory changes. EVSIG (R206, R347) adds to the event's count at its home, modulo 2^32, or
makes the event live first, and nothing when a hung sequencer issues it (R456).
Where it rests on a choice of the model: log entry 44. -/
def Obligations.PushAndEvsigAct : Prop :=
  (∀ x : PushOp,
     let rec_ := fun (w : Warp) (L : Nat) => BitVec.ofNat 512 (w.group 16 x.c.toNat L)
     let clear := fun (w : Warp) (act : Mask) (r : Ring) => r.scope == 3 || w.sysRel &&& act != 0
     let pd := fun (w v : Warp) (act : Mask) (acc : List Nat) => w.WrotePred v x.pd.toNat act fun L => !acc.contains L
     (Completes (.push x) x.h .shared (span 16 x.c) [] (some .cp)
       (fun s who _ _ act => x.tgt = 1 ∧ act ≠ 0 ∧ s.quiet who (BitVec.allOnes 32) = true ∧ ∃ h wid b, who = .warp h wid ∧ s.block? h = some b)
       fun s who w p act t => ∃ v h wid b, who = .warp h wid ∧ s.block? h = some b ∧ t.warp? who = some v ∧ w.WentOn p v ∧
         let room := 256 - (s.copies.filter fun c => c.die == b.die && c.core == w.core && !c.started).length
         let acc := (lanesOf act).take room
         (∃ l : List CopyCmd, t.copies = s.copies ++ l ∧ l.map (·.word) = acc.map (rec_ w) ∧
           ∀ c ∈ l, c.die = b.die ∧ c.core = w.core ∧ c.who = who ∧ c.started = false) ∧
         pd w v act acc ∧ w.SameRegs v ∧ ∀ a, t.byte a = s.byte a) ∧
     (Completes (.push x) x.h .shared (span 16 x.c) [] (some .cp)
       (fun s who _ _ act => x.tgt = 2 ∧ act ≠ 0 ∧ s.quiet who (BitVec.allOnes 32) = true ∧ ∃ h wid b, who = .warp h wid ∧ s.block? h = some b)
       fun s who w p act t => ∃ v h wid b, who = .warp h wid ∧ s.block? h = some b ∧ t.warp? who = some v ∧ w.WentOn p v ∧
         let room := 448 - (s.travQ.filter fun c => c.die == b.die && c.cluster == b.cluster).length
         let acc := (lanesOf act).take room
         (∃ l : List TravCmd, t.travQ = s.travQ ++ l ∧ l.map (·.word) = acc.map (rec_ w) ∧
           ∀ c ∈ l, c.die = b.die ∧ c.cluster = b.cluster ∧ c.who = who) ∧
         pd w v act acc ∧ w.SameRegs v ∧ ∀ a, t.byte a = s.byte a) ∧
     Completes (.push x) x.h .shared (span 2 x.a ++ span 16 x.c) [] (some .cp)
       (fun s who w _ act => x.tgt = 0 ∧ act ≠ 0 ∧ s.cutOff who = false ∧ s.quiet who act = true ∧
         s.issueCheck (s.agentOf who w) act 64 false false (fun _ => w.group 2 x.a.toNat 0) = none ∧
         (s.gate (s.agentOf who w) (w.group 2 x.a.toNat 0) true).2 = false ∧
         ∃ u r, s.ringAt (s.agentOf who w) (w.group 2 x.a.toNat 0) = (u, .ok r) ∧ r.fault 0 = none ∧
           let acc := (lanesOf act).take (r.cap - (r.claim - r.retire))
           (u.gateSlots (s.agentOf who w) r (rangeFrom r.claim acc.length)).2 = false ∧ (acc ≠ [] → ∃ y z, u.putRecords (s.agentOf who w) w x.c r (acc.zipIdx.map fun q => (q.1, r.claim + q.2)) = (y, .ok ()) ∧
             y.putRing (s.agentOf who w) (w.group 2 x.a.toNat 0)
               (commitMarks { r with claim := r.claim + acc.length } (y.marks (y.ringKey (s.agentOf who w) (w.group 2 x.a.toNat 0)))
                 (rangeFrom r.claim acc.length)).1 (clear w act r) = (z, .ok ())))
       fun s who w p act t => ∃ u r v, s.ringAt (s.agentOf who w) (w.group 2 x.a.toNat 0) = (u, .ok r) ∧
         let acc := (lanesOf act).take (r.cap - (r.claim - r.retire))
         t.warp? who = some v ∧ w.WentOn p v ∧ pd w v act acc ∧ w.SameRegs v ∧ (acc = [] → t.mem = u.mem) ∧
         (acc ≠ [] → ∃ y z, u.putRecords (s.agentOf who w) w x.c r (acc.zipIdx.map fun q => (q.1, r.claim + q.2)) = (y, .ok ()) ∧
           y.putRing (s.agentOf who w) (w.group 2 x.a.toNat 0)
             (commitMarks { r with claim := r.claim + acc.length } (y.marks (y.ringKey (s.agentOf who w) (w.group 2 x.a.toNat 0)))
               (rangeFrom r.claim acc.length)).1 (clear w act r) = (z, .ok ()) ∧ t.mem = z.mem)) ∧
  (∀ x : EvsigOp, Completes (.evsig x) x.h .shared (if x.ea then span 1 x.a else []) [] none
     (fun s who _ _ act => act ≠ 0 ∧ s.quiet who act = true ∧ s.cutOff who = true)
     (fun s who w p _ t => ∃ v, t.warp? who = some v ∧ w.WentOn p v ∧ w.SameData v ∧ t.dieA = s.dieA ∧ t.dieB = s.dieB)) ∧
  (∀ x : EvsigOp, Completes (.evsig x) x.h .shared (if x.ea then span 1 x.a else []) [] none
     (fun s who w _ act => act ≠ 0 ∧ s.quiet who act = true ∧ s.cutOff who = false ∧
       let e : BitVec 16 := if x.ea then (w.word x.a.toNat 0).setWidth 16 else x.ev
       (((s.die (s.evHome e)).event? e).isSome = true ∨ (s.die (s.evHome e)).events.length < 8192))
     fun s who w p _ t => ∃ v c, t.warp? who = some v ∧ w.WentOn p v ∧ w.SameData v ∧ (∀ a, t.byte a = s.byte a) ∧
       let e : BitVec 16 := if x.ea then (w.word x.a.toNat 0).setWidth 16 else x.ev
       (t.die (s.evHome e)).event? e = some c ∧
         c.count = ((((s.die (s.evHome e)).event? e).map (·.count)).getD 0) + BitVec.ofNat 32 (x.bym1.toNat + 1))

/-- TAKE asks the Percolator for a chunk: its quad counts as unwritten until TAKE_SERVE, which writes first
record, count and address of the chunk in the lanes of the TAKE, or zeros for the count and address when no
record is left, and the records dealt leave the instance (R39, R207). PUBLISH enters a request for its window;
WINDOW_SWITCH of one that waits for nothing exchanges the window's backings (R209, R223).
Where it rests on a choice of the model: log entries 9, 29. -/
def Obligations.TakeAndPublishAreServed : Prop :=
  (∀ x : DOnly, Completes (.take x) x.h .compute [] (span 4 x.d) none (fun _ _ _ _ act => act ≠ 0)
    fun s who w p act t => ∃ v r, t.warp? who = some v ∧ w.WentOn p v ∧ w.SameRegs v ∧ t.takes = s.takes ++ [r] ∧
      r.id = s.nextId ∧ r.who = who ∧ r.lanes = act ∧ r.dreg = x.d.toNat ∧
      v.pend = w.pend ++ [⟨s.nextId, act, span 4 x.d, true⟩] ∧ ∀ a, t.byte a = s.byte a) ∧
  (∀ (s : State) (r : TakeReq) (j : Job) (i : Inst) (w : Warp),
    s.takes.find? (fun q => q.id == r.id) = some r → s.warp? r.who = some w →
    s.job? r.job = some j → j.batch = none → j.inst? r.inst = some i → r.dreg + 4 ≤ 384 →
    ∃ t v, exec (.takeServe r.id) s = .next t ∧ t.warp? r.who = some v ∧ (∀ a, t.byte a = s.byte a) ∧
      (∀ q ∈ v.pend, q.id ≠ r.id) ∧ (∀ q ∈ t.takes, q.id ≠ r.id) ∧
      let got := fun (k : Nat) => ∀ L, L < 32 → r.lanes.getLsbD L = true → v.word (r.dreg + k) L =
        (if i.remaining = 0 ∨ r.zero = true ∨ s.leavesLaunch j.id i.no r.die = true then
          (if k = 0 then BitVec.ofNat 32 (j.count - i.remaining) else 0)
        else
          let n := min (max j.minChunk (ceilDiv i.remaining (2 * s.residents j.id i.no))) i.remaining
          if k = 0 then BitVec.ofNat 32 (j.count - i.remaining)
          else if k = 1 then BitVec.ofNat 32 n
          else if n = 0 then 0
          else BitVec.ofNat 32 ((j.recs + (j.count - i.remaining) * j.recSize) / 2 ^ (32 * (k - 2))))
      got 0 ∧ got 1 ∧ got 2 ∧ got 3) ∧
  (∀ x : PublishOp, Completes (.publish x) x.h .shared [] [] (some .cp)
    (fun s who _ _ act => act ≠ 0 ∧ ∃ h wid b j, who = .warp h wid ∧ s.block? h = some b ∧ s.job? b.job = some j ∧
      x.win.toNat < j.windows.length)
    fun s who w p _ t => ∃ v q, t.warp? who = some v ∧ w.WentOn p v ∧ w.SameRegs v ∧ t.pubs = s.pubs ++ [q] ∧
      q.id = s.nextId ∧ q.who = who ∧ q.win = x.win.toNat ∧ (∀ a, t.byte a = s.byte a) ∧ (⟨.cp, s.nextId, 1⟩ : Op) ∈ v.ops) ∧
  ∀ (s : State) (q : PubReq) (j : Job), s.pubs.find? (fun r => r.id == q.id) = some q → q.before = [] →
    s.job? q.job = some j →
    ∃ t k, exec (.windowSwitch q.id) s = .next t ∧ t.job? q.job = some k ∧ (∀ r ∈ t.pubs, r.id ≠ q.id) ∧
      (∀ a, t.byte a = s.byte a) ∧ k.windows.length = j.windows.length ∧
      ∀ n x y, j.windows[n]? = some x → k.windows[n]? = some y →
        y.pub = (if n = q.win then !x.pub else x.pub) ∧ y.va = x.va ∧ y.size = x.size ∧ y.bpa0 = x.bpa0 ∧ y.bpa1 = x.bpa1

/-! ## Group 0xB_ -/

/-- The tile forms (R231): with tiles below TILES and FIFOs below FIFOS, one operation enters the stream of the
unit that the form names, with its registers as they stand; MLD's registers count as unwritten. An index that is
not below its limit gives the bounds trap 0x03, unretired, and nothing enters. With no lane in `active` only the
path goes on. -/
def Obligations.TileFormsEnterTheirStream : Prop :=
  let unit := fun (w : Warp) (u : UnitSel) => match u with
    | none => w.part / 4
    | some m => m.toNat
  let form := fun (i : Instr) (h : Hdr) (rd wr : List Nat) (u : UnitSel) (tiles fifos : List Nat) (src : Warp → Nat → List Word) =>
    Completes i h .compute rd wr (some .tl)
      (fun s who _ _ act => act ≠ 0 ∧ ∃ blk wid b, who = .warp blk wid ∧ s.block? blk = some b ∧
        (∀ k ∈ tiles, k < kdTiles b.kd) ∧ ∀ k ∈ fifos, k < kdFifos b.kd)
      (fun s who w p act t => s.EntersStreams i h who w p act wr [unit w u] (fun _ => act) (src w) none t) ∧
    Completes i h .compute rd wr (some .tl)
      (fun s who _ _ act => act ≠ 0 ∧ ∃ blk wid b, who = .warp blk wid ∧ s.block? blk = some b ∧
        ((∃ k ∈ tiles, kdTiles b.kd ≤ k) ∨ ∃ k ∈ fifos, kdFifos b.kd ≤ k))
      (fun s who _ p act t => ∃ k, k ∈ tiles ++ fifos ∧
        t = s.takeTrap who 0x03 act k p.pc) ∧
    Completes i h .compute rd wr (some .tl) (fun _ _ _ _ act => act = 0)
      fun s who w p _ t => ∃ v, s.Retired who w h t v ∧ w.WentOn p v ∧ w.SameData v
  let mma := fun (i : MmaOp → Instr) => ∀ x : MmaOp,
    form (i x) x.h [] [] x.unit [x.acc.toNat] [x.fa.toNat, x.fb.toNat] fun _ _ => []
  let regs := fun (x : MmovOp) => rangeFrom x.r.toNat (2 ^ x.nc.toNat)
  mma .mmaM32N32K64 ∧ mma .mmaM32N64K64 ∧ mma .mmaM32N16K128 ∧ mma .mmaM32N32K32 ∧ mma .mmaM32N64K32 ∧
  mma .mmaM32N32K128 ∧ mma .mmaM32N32K8 ∧
  (∀ x : MscaleOp, form (.mscale x) x.h [x.a.toNat] [] x.unit [x.td.toNat, x.ts.toNat] [x.fs.toNat]
    fun w L => [w.word x.a.toNat L]) ∧
  (∀ x : MzeroOp, form (.mzero x) x.h [] [] x.unit [x.acc.toNat] [] fun _ _ => []) ∧
  (∀ x : MmovOp, form (.mld x) x.h [] (regs x) x.unit [x.acc.toNat] [] fun _ _ => []) ∧
  (∀ x : MmovOp, form (.mst x) x.h (regs x) [] x.unit [x.acc.toNat] [] fun w L => (regs x).map fun r => w.word r L) ∧
  (∀ x : MmodeOp, form (.mmode x) x.h [] [] x.unit [] [] fun _ _ => []) ∧
  ∀ x : MepiOp, form (.mepi x) x.h (if x.ce then [x.b.toNat, x.c.toNat] else []) [] x.unit [x.acc.toNat]
    (if x.be then [x.fs.toNat] else []) fun w L => [w.word x.b.toNat L, w.word x.c.toNat L]

/-- FPUSH (R232, R242): one run queues at the FIFO's write port; lane L's share of it is its n registers, as they
stand or converted and packed, and zeros outside `active`; the TL counter rises by one. FIFO_RUN_APPEND then moves
as many bytes of the run as the FIFO has room for, in order; with the last byte the run leaves and the FPUSH is
complete. -/
def Obligations.FpushRunsEnterTheFifo : Prop :=
  (∀ x : FpushOp,
    let n := 2 ^ x.nr.toNat
    let width := if x.cv then x.fmt.width else 32
    let code := fun (w : Warp) (L i : Nat) =>
      if x.cv then x.fmt.encode x.rm x.sat false (f32v (w.word (x.a.toNat + i) L)) % 2 ^ width
      else (w.word (x.a.toNat + i) L).toNat
    let share := fun (w : Warp) (act : Mask) (L : Nat) =>
      if act.getLsbD L then ((List.range n).map fun i => code w L i * 2 ^ (width * i)).sum else 0
    Completes (.fpush x) x.h .compute (rangeFrom x.a.toNat n) [] (some .tl)
      (fun s who _ _ act => act ≠ 0 ∧ ∃ blk wid b, who = .warp blk wid ∧ s.block? blk = some b ∧ x.fifo.toNat < kdFifos b.kd)
      (fun s who w p act t => ∃ blk wid b b' v r, who = .warp blk wid ∧ s.block? blk = some b ∧ t.block? blk = some b' ∧
        s.RetiredIn who w x.h t v ∧ w.WentOn p v ∧ w.SameRegs v ∧ w.SamePreds v ∧ w.SameCC v ∧
        v.counter .tl = w.counter .tl + 1 ∧
        b' = b.setFifo (fifoKey w.spos x.fifo.toNat)
          { b.fifo (fifoKey w.spos x.fifo.toNat) with runs := (b.fifo (fifoKey w.spos x.fifo.toNat)).runs ++ [r] } ∧
        r.feed = false ∧ r.id = s.nextId ∧ r.who = who ∧ r.closed = true ∧
        r.data = (List.range 32).flatMap fun L => toBytes (n * width / 8) (share w act L)) ∧
    Completes (.fpush x) x.h .compute (rangeFrom x.a.toNat n) [] (some .tl)
      (fun s who _ _ act => act ≠ 0 ∧ ∃ blk wid b, who = .warp blk wid ∧ s.block? blk = some b ∧ kdFifos b.kd ≤ x.fifo.toNat)
      (fun s who _ p act t => t = s.takeTrap who 0x03 act x.fifo.toNat p.pc)) ∧
  ∀ (s : State) (handle spos fifo : Nat) (b : Block) (r : FifoRun) (rs : List FifoRun) (w : Warp),
    let f := b.fifo (fifoKey spos fifo)
    let room := 65536 - (f.bytes.filter fun x => x.isSome).length
    s.block? handle = some b → b.halted = false → f.runs = r :: rs → r.feed = false → s.warp? r.who = some w →
    ∃ t, exec (.fifoRunAppend handle spos fifo) s = .next t ∧
      t.block? handle = some (b.setFifo (fifoKey spos fifo)
        { f with
          bytes := f.bytes ++ (r.data.take room).map some
          runs := if r.data.length ≤ room ∧ r.closed = true then rs else { r with data := r.data.drop room } :: rs }) ∧
      (r.data.length ≤ room → r.closed = true → ∃ v, t.warp? r.who = some v ∧ ∀ o ∈ v.ops, o.id = r.id →
        ∃ o' ∈ w.ops, o'.id = r.id ∧ o'.cls = o.cls ∧ o.left = o'.left - 1) ∧
      ∀ a, t.byte a = s.byte a

/-- STREAM_OPERATION (R230, R233, R237 to R241, R243, R244): an operation at the head whose FIFO bytes are not all
present waits; one whose bytes are present performs on its lanes' rows and leaves the stream. MZERO clears the
rows; MST stores its words; MMODE sets the unit's mode; MLD writes its lanes' registers; MSCALE, MEPI and, where
no row shadow disagrees, MMA give each element the value of its rule, and no other element of a tile changes. A float MMA
adds its products group by group in ascending k, 16 of them for 8-bit inputs, 8 for fp16 and bf16, one for fp32 (R105, R106),
each group's exact sum S (NaN, an infinity, or exact with a zero counted as +0; one product of fp32 keeps its sign, R108)
rounded once into the element. `b` is the block once the operations that had arrived are in their streams.
Where it rests on a choice of the model: log entry 36 (the zero product of MSCALE, the NaN of MEPI without a bias). -/
def Obligations.StreamOperationsPerformTheHead : Prop :=
  let at_ := fun (s : State) (handle spos unit : Nat) (b : Block) (o : StreamOp) (os : List StreamOp) =>
    ∃ b0, s.block? handle = some b0 ∧ s.arrived b0 spos = b ∧ b.stream (unitKey spos unit) = o :: os
  let head := fun (s : State) (handle spos unit : Nat) (b : Block) (o : StreamOp) (os : List StreamOp) =>
    at_ s handle spos unit b o os ∧ s.bad = []
  let rows := fun (b b' : Block) (key : Nat) (o : StreamOp) (tile c0 n : Nat) (f : Nat → Nat → Word) =>
    ∀ tl r c, tl < 128 → r < 32 → c < 64 → b'.elem key tl r c =
      if tl = tile ∧ o.lanes.getLsbD r = true ∧ c0 ≤ c ∧ c < c0 + n then f r (c - c0) else b.elem key tl r c
  (∀ s handle spos unit b o os, at_ s handle spos unit b o os → b.bytesReady spos o = false →
    (∀ x, o.instr ≠ .creplay x) → (∀ x, o.instr ≠ .cinit x) → (∀ x, o.instr ≠ .cmps x) → (∀ x, o.instr ≠ .cflush x) →
    (∀ x, o.instr ≠ .cread x) → (∀ x, o.instr ≠ .cretire x) →
    exec (.streamOperation handle spos unit) s = .next (s.setBlock b)) ∧
  (∀ s handle spos unit b o os x, head s handle spos unit b o os → o.instr = .mzero x →
    ∃ t b', exec (.streamOperation handle spos unit) s = .next t ∧ s.HeadDone handle spos unit os t b' ∧
      rows b b' (unitKey spos unit) o x.acc.toNat 0 64 fun _ _ => 0) ∧
  (∀ s handle spos unit b o os x, head s handle spos unit b o os → o.instr = .mst x →
    (∀ L, o.lanes.getLsbD L = true → (o.srcOf L).length = 2 ^ x.nc.toNat) → x.col.toNat + 2 ^ x.nc.toNat ≤ 64 →
    ∃ t b', exec (.streamOperation handle spos unit) s = .next t ∧ s.HeadDone handle spos unit os t b' ∧
      rows b b' (unitKey spos unit) o x.acc.toNat x.col.toNat (2 ^ x.nc.toNat) fun L j => (o.srcOf L).getD j 0) ∧
  (∀ s handle spos unit b o os x, head s handle spos unit b o os → o.instr = .mmode x →
    ∃ t b', exec (.streamOperation handle spos unit) s = .next t ∧ s.HeadDone handle spos unit os t b' ∧
      b'.tiles = b.tiles ∧ (b'.unit (unitKey spos unit)).mode = x.rm ∧
      ∀ key, key ≠ unitKey spos unit → b'.unit key = b.unit key) ∧
  (∀ s handle spos unit b o os x w, head s handle spos unit b o os → o.instr = .mld x → s.warp? o.who = some w →
    x.r.toNat + 2 ^ x.nc.toNat ≤ 384 →
    ∃ t b' v, exec (.streamOperation handle spos unit) s = .next t ∧ s.HeadDone handle spos unit os t b' ∧
      b'.tiles = b.tiles ∧ t.warp? o.who = some v ∧ (∀ q ∈ v.pend, q.id ≠ o.id) ∧
      ∀ r L, L < 32 → v.word r L =
        if o.lanes.getLsbD L = true ∧ x.r.toNat ≤ r ∧ r < x.r.toNat + 2 ^ x.nc.toNat
        then b.elem (unitKey spos unit) x.acc.toNat L (x.col.toNat + (r - x.r.toNat)) else w.word r L) ∧
  (∀ s handle spos unit b o os x sb, head s handle spos unit b o os → o.instr = .mscale x →
    b.bytesReady spos o = true → (b.takeBytes spos o).2 = [sb] → sb.length = 4 * (16 * 2 ^ x.nw.toNat) →
    16 * x.col.toNat + 16 * 2 ^ x.nw.toNat ≤ 64 →
    let mode := (b.unit (unitKey spos unit)).mode
    ∃ t b', exec (.streamOperation handle spos unit) s = .next t ∧ s.HeadDone handle spos unit os t b' ∧
      rows b b' (unitKey spos unit) o x.td.toNat (16 * x.col.toNat) (16 * 2 ^ x.nw.toNat) fun L j =>
        let word := fun (k : Nat) => BitVec.ofNat 32 (ofBytes ((sb.drop (4 * k)).take 4))
        let old := fun (tl : Nat) => b.elem (unitKey spos unit) tl L (16 * x.col.toNat + j)
        let scale := rndF32 mode ((f32v ((o.srcOf L).headD 0)).mul (f32v (word j)))
        let value := if x.si then Fv.ofInt (old x.ts.toNat).toInt else f32v (old x.ts.toNat)
        rndF32 mode ((f32v (old x.td.toNat)).add mode ((f32v scale).mul value))) ∧
  (∀ s handle spos unit b o os x sb lo hi, head s handle spos unit b o os → o.instr = .mepi x →
    b.bytesReady spos o = true → (b.takeBytes spos o).2 = (if x.be then [sb] else []) →
    (x.be = true → sb.length = 4 * (16 * 2 ^ x.nw.toNat)) → 16 * x.col.toNat + 16 * 2 ^ x.nw.toNat ≤ 64 →
    (x.ce = true → ∀ low, lowLane o.lanes = some low → o.srcOf low = [lo, hi]) →
    let mode := (b.unit (unitKey spos unit)).mode
    ∃ t b', exec (.streamOperation handle spos unit) s = .next t ∧ s.HeadDone handle spos unit os t b' ∧
      rows b b' (unitKey spos unit) o x.acc.toNat (16 * x.col.toNat) (16 * 2 ^ x.nw.toNat) fun L j =>
        let e := b.elem (unitKey spos unit) x.acc.toNat L (16 * x.col.toNat + j)
        let bias := BitVec.ofNat 32 (ofBytes ((sb.drop (4 * j)).take 4))
        if x.it then
          let m := if x.be then e + bias else e
          let m' := if m.toInt < lo.toInt then lo else m
          if x.ce then (if hi.toInt < m'.toInt then hi else m') else m
        else if f32v e = .nan then rndF32 mode .nan
        else
          let m := if x.be then rndF32 mode ((f32v e).add mode (f32v bias)) else e
          let m' := if f32v lo ≠ .nan ∧ (f32v m).ltTotal (f32v lo) = true then lo else m
          if x.ce = true ∧ f32v m ≠ .nan then
            (if f32v hi ≠ .nan ∧ (f32v hi).ltTotal (f32v m') = true then hi else m')
          else m) ∧
  ∀ s handle spos unit b o os x as bs, head s handle spos unit b o os → mmaOf o.instr = some x → s.upsets = [] →
    b.bytesReady spos o = true → (b.takeBytes spos o).2 = [as, bs] →
    let N := (mmaShape o.instr).1
    let K := (mmaShape o.instr).2
    let fb := x.bfmt.getD x.fmt
    let key := unitKey spos unit
    let old := fun (L j : Nat) => if x.za then 0 else b.elem key x.acc.toNat L (16 * x.col.toNat + j)
    let a := fun (L : Nat) => ((elemsOf x.fmt as).drop (L * K)).take K
    let col := fun (j : Nat) => ((elemsOf fb bs).drop (j * K)).take K
    let value := fun (L j : Nat) => mmaElem x.fmt fb (b.unit key).mode (old L j) (a L) (col j)
    16 * x.col.toNat + N ≤ 64 →
    (∀ L, o.lanes.getLsbD L = true →
      rowMismatch x.fmt fb K N ((List.range N).map (old L)) ((List.range N).map (value L)) (a L) ((List.range N).map col) = false) →
    ∃ t b', exec (.streamOperation handle spos unit) s = .next t ∧ s.HeadDone handle spos unit os t b' ∧
      rows b b' key o x.acc.toNat (16 * x.col.toNat) N value ∧
      (x.fmt.isInt = true → ∀ L j, value L j =
        BitVec.ofInt 32 ((old L j).toInt + (((a L).zip (col j)).map fun p => x.fmt.toInt p.1 * fb.toInt p.2).sum)) ∧
      (x.fmt.isInt = false → ∀ L j, (a L).length = K → (col j).length = K →
        let g := if x.fmt = .fp32 then 1 else if x.fmt = .fp16 ∨ x.fmt = .bf16 then 8 else 16
        let product := fun (k : Nat) => (x.fmt.decode ((a L).getD k 0)).mul (fb.decode ((col j).getD k 0))
        let scaled := fun (E : Int) (v : Fv) => match v with
          | .fin s m e => (if s then -1 else 1) * ((m * 2 ^ (e - E).toNat : Nat) : Int)
          | _ => 0
        let above := fun (E : Int) (v : Fv) => match v with
          | .fin _ _ e => E ≤ e
          | _ => False
        let sums := fun (ps : List Fv) (S : Fv) =>
          ((.nan ∈ ps ∨ (.inf false ∈ ps ∧ .inf true ∈ ps)) → S = .nan) ∧
          (∀ s, .nan ∉ ps → .inf s ∈ ps → .inf (!s) ∉ ps → S = .inf s) ∧
          (.nan ∉ ps → .inf false ∉ ps → .inf true ∉ ps → ∃ s m e, S = .fin s m e ∧ (m = 0 → s = false) ∧
            ∀ E, above E S → (∀ p ∈ ps, above E p) → scaled E S = (ps.map (scaled E)).sum)
        ∃ acc : Nat → Word, acc 0 = old L j ∧ acc (K / g) = value L j ∧ ∀ i, i < K / g →
          ∃ S, (if g = 1 then S = product i else sums ((List.range g).map fun k => product (g * i + k)) S) ∧
            acc (i + 1) = rndF32 (b.unit key).mode ((f32v (acc i)).add (b.unit key).mode S))

/-! ## Group 0xC_ -/

/-- The compositor forms (R275, R286, R287) with every slot of `active` below SLOTS, and for CINIT with CFG = 1 a
32-byte aligned LOGBASE and an LCAP below 2^24: one operation enters the stream of each unit that holds a slot of
its lanes (with CFG = 1 of every unit, with the configuration). A slot at or above SLOTS gives the bounds trap with
exactly its lanes; a misaligned LOGBASE the alignment trap, an LCAP too large the bounds trap, with `active`. -/
def Obligations.SlotFormsEnterTheirStreams : Prop :=
  let slot := fun (a : Reg) (w : Warp) (L : Nat) => (w.word a.toNat L).toNat
  let form := fun (i : Instr) (h : Hdr) (rd wr : List Nat) (a : Reg) (ok : Warp → Prop) (cfg : Warp → Option (List Word))
      (src : Warp → Nat → List Word) =>
    Completes i h .compute rd wr (some .tl)
      (fun s who w _ act => act ≠ 0 ∧ ok w ∧ ∃ blk wid b, who = .warp blk wid ∧ s.block? blk = some b ∧
        ∀ L, act.getLsbD L = true → slot a w L < kdSlots b.kd)
      (fun s who w p act t => ∃ units : List Nat, ∃ lanes : Nat → Mask,
        (∀ m, m ∈ units ↔ m < 4 ∧ ((cfg w).isSome = true ∨ ∃ L, act.getLsbD L = true ∧ slot a w L % 4 = m)) ∧
        (∀ m L, L < 32 → (lanes m).getLsbD L = (act.getLsbD L && decide (slot a w L % 4 = m))) ∧
        s.EntersStreams i h who w p act wr units lanes (fun L => w.word a.toNat L :: src w L) (cfg w) t) ∧
    Completes i h .compute rd wr (some .tl)
      (fun s who w _ act => ∃ blk wid b L, who = .warp blk wid ∧ s.block? blk = some b ∧
        act.getLsbD L = true ∧ kdSlots b.kd ≤ slot a w L)
      (fun s who w p act t => ∃ blk wid b bad low, who = .warp blk wid ∧ s.block? blk = some b ∧
        (∀ L, L < 32 → bad.getLsbD L = (act.getLsbD L && decide (kdSlots b.kd ≤ slot a w L))) ∧ lowLane bad = some low ∧
        t = s.takeTrap who 0x03 bad (slot a w low) p.pc) ∧
    Completes i h .compute rd wr (some .tl) (fun _ _ _ _ act => act = 0)
      fun s who w p _ t => ∃ v, s.Retired who w h t v ∧ w.WentOn p v ∧ w.SameData v
  let plain := fun (i : Instr) (h : Hdr) (rd wr : List Nat) (a : Reg) (src : Warp → Nat → List Word) =>
    form i h rd wr a (fun _ => True) (fun _ => none) src
  let base := fun (c : CinitCfg) (w : Warp) => w.group 2 c.c.toNat 0
  let cap := fun (c : CinitCfg) (w : Warp) => (w.word c.e.toNat 0).toNat
  (∀ x : CinitOp, x.cfg = none → plain (.cinit x) x.h [x.a.toNat] [] x.a fun _ _ => []) ∧
  (∀ (x : CinitOp) (c : CinitCfg), x.cfg = some c →
    let rd := [x.a.toNat] ++ (spanB 1 c.b ++ span 2 c.c ++ span 1 c.e)
    form (.cinit x) x.h rd [] x.a (fun w => base c w % 32 = 0 ∧ cap c w < 2 ^ 24)
      (fun w => some [BitVec.ofNat 32 (w.srcB32 c.b 0), w.word c.c.toNat 0, w.word (c.c.toNat + 1) 0, w.word c.e.toNat 0])
      (fun _ _ => []) ∧
    Completes (.cinit x) x.h .compute rd [] (some .tl)
      (fun s who w _ act => act ≠ 0 ∧ (base c w % 32 ≠ 0 ∨ 2 ^ 24 ≤ cap c w) ∧ ∃ blk wid b, who = .warp blk wid ∧
        s.block? blk = some b ∧ ∀ L, act.getLsbD L = true → slot x.a w L < kdSlots b.kd)
      fun s who w p act t => t = s.takeTrap who
        (if base c w % 32 = 0 then 0x03 else 0x02) act (if base c w % 32 = 0 then cap c w else base c w) p.pc) ∧
  (∀ x : CmpsOp, plain (.cmps x) x.h ([x.a.toNat] ++ rangeFrom x.c.toNat 4) [] x.a fun w L =>
    (rangeFrom x.c.toNat 4).map fun r => w.word r L) ∧
  (∀ x : AOnly, plain (.cflush x) x.h [x.a.toNat] [] x.a fun _ _ => []) ∧
  (∀ x : CreadOp, plain (.cread x) x.h [x.a.toNat] (rangeFrom x.d.toNat 8) x.a fun _ _ => []) ∧
  (∀ x : CretireOp, plain (.cretire x) x.h [x.a.toNat] [] x.a fun _ _ => []) ∧
  ∀ x : CreplayOp, plain (.creplay x) x.h (([x.a.toNat] ++ rangeFrom x.b.toNat 4) ++ rangeFrom x.c.toNat 4 ++ [x.e.toNat])
    ((rangeFrom x.d.toNat 8 ++ rangeFrom x.c.toNat 4) ++ [x.e.toNat]) x.a fun w L =>
      w.word x.e.toNat L :: (rangeFrom x.b.toNat 4 ++ rangeFrom x.c.toNat 4).map fun r => w.word r L

/-- The layout of a slot (R276): a slot whose counts and entries fit their fields is read back as it was written.
STREAM_OPERATION of a compositor operation of one lane (R278 to R281, R287, R288), with no log write due: CINIT
resets the slot and its cull bit; CMPS drops and counts a term that is invalid or meets a retired slot, buffers a
timely one in key order behind equal keys, and with six entries already buffered commits the front of the seven;
CFLUSH commits the entries from the front while the slot is not retired, each commit under R280 and R281; CFLUSH of a
retired or empty slot and CRETIRE of a retired one change nothing; CRETIRE retires the slot, with FL = 1 after it has
flushed it, drops its entries and posts the cull. No other slot changes. -/
def Obligations.SlotOperationsAct : Prop :=
  (∀ s : Slot, s.lp < 2 ^ 24 → s.nc < 2 ^ 16 → s.nl < 2 ^ 8 → s.nd < 2 ^ 8 → s.front < 2 ^ 32 → s.ch.length = 4 →
     s.ents.length ≤ 6 → Slot.ofBits s.toBits = s) ∧
  (let act := fun (s : State) (handle spos unit : Nat) (pre : StreamOp → Slot → Prop) (post : Block → Block → StreamOp → Nat → Slot → Slot → Prop) =>
     ∀ b0 b o os L, s.block? handle = some b0 → s.arrived b0 spos = b → b.stream (unitKey spos unit) = o :: os →
       o.lanes = 1#32 <<< L → L < 32 → o.begun = false → alook 32 o.src = none → s.parks = [] → s.bad = [] →
       let k := slotKey spos ((o.srcOf L).headD 0).toNat
       let old := Slot.ofBits (b.slot k)
       pre o old → ∃ t b' new, exec (.streamOperation handle spos unit) s = .next t ∧
         s.HeadDone handle spos unit os t b' ∧ b'.slot k = new.toBits ∧ (∀ j, j ≠ k → b'.slot j = b.slot j) ∧
         b'.tiles = b.tiles ∧ b'.units = b.units ∧ post b b' o k old new
   let term := fun (o : StreamOp) => termOf ((o.srcOf ((lowLane o.lanes).getD 0)).drop 1)
   let noLog := fun (old : Slot) => old.loge = false
   let drops := fun (old new : Slot) (n : Nat) => new = { old with nd := min 255 (old.nd + n) }
   let rnd := rndF32 .nearestEven
   let commits := fun (thr : Word) (late : Bool) (x y : Slot) (c : BitVec 128) (rest : List (BitVec 128)) =>
     let w := rnd ((f32v x.t).mul (FFmt.f16.decode (entAlpha c)))
     let t := rnd ((f32v x.t).sub .nearestEven (f32v w))
     let out := (f32v t).lt (f32v thr)
     y.t = t ∧
     y.ch = x.ch.zipIdx.map (fun p => rnd (((f32v w).mul (FFmt.f16.decode (entColour c p.2))).add .nearestEven (f32v p.1))) ∧
     y.front = (if late then x.front else entKey c) ∧ y.nc = min 65535 (x.nc + 1) ∧
     y.nl = (if late then min 255 (x.nl + 1) else x.nl) ∧ y.ret = out ∧
     y.ents = (if out then [] else rest) ∧ y.nd = (if out then min 255 (x.nd + rest.length) else x.nd) ∧
     y.lp = x.lp ∧ y.loge = x.loge ∧ y.lfull = x.lfull
   let flushes := fun (thr : Word) (old new : Slot) (n : Nat) => ∃ x : Nat → Slot, x 0 = old ∧ x n = new ∧
     (new.ret = true ∨ new.ents = []) ∧ ∀ i, i < n → (x i).ret = false ∧ ∃ c rest, (x i).ents = c :: rest ∧
       commits thr false (x i) (x (i + 1)) c rest
   ∀ (s : State) (handle spos unit : Nat),
     act s handle spos unit (fun o _ => ∃ x, o.instr = .cinit x)
       (fun _ b' o k _ new => ∃ x, o.instr = .cinit x ∧
         new = ⟨false, x.log, false, 0, 0, 0, 0, 0, 0x3F800000, [0, 0, 0, 0], []⟩ ∧ sget false b'.cull k = false) ∧
     act s handle spos unit (fun o old => (∃ x, o.instr = .cmps x) ∧ (old.ret = true ∨ term o = none))
       (fun b b' _ _ old new => drops old new 1 ∧ b'.dropped = b.dropped + 1 ∧ b'.cull = b.cull) ∧
     act s handle spos unit (fun o old => (∃ x, o.instr = .cmps x) ∧ old.ret = false ∧ old.ents.length < 6 ∧
         ∃ e, term o = some e ∧ old.front ≤ entKey e)
       (fun b b' o _ old new => b'.dropped = b.dropped ∧ b'.cull = b.cull ∧ ∃ e, term o = some e ∧
         new = { old with ents := old.ents.takeWhile (fun q => entKey q ≤ entKey e) ++ e ::
           old.ents.dropWhile (fun q => entKey q ≤ entKey e) }) ∧
     act s handle spos unit (fun o old => (∃ x, o.instr = .cmps x) ∧ old.ret = false ∧ noLog old ∧
         ∃ e, term o = some e ∧ (entKey e < old.front ∨ old.ents.length = 6))
       (fun b b' o k old new => ∃ e c rest, term o = some e ∧
         (if entKey e < old.front then c = e ∧ rest = old.ents
           else c :: rest = old.ents.takeWhile (fun q => entKey q ≤ entKey e) ++ e ::
             old.ents.dropWhile (fun q => entKey q ≤ entKey e)) ∧
         let late := decide (entKey e < old.front)
         commits (b.unit (unitKey spos unit)).thr late old new c rest ∧
         b'.late = b.late + (if late then 1 else 0) ∧ b'.dropped = b.dropped + (if new.ret then rest.length else 0) ∧
         (new.ret = true → sget false b'.cull k = true) ∧ (new.ret = false → b'.cull = b.cull)) ∧
     act s handle spos unit (fun o old => (∃ x, o.instr = .cflush x) ∧ old.ret = false ∧ noLog old)
       (fun b b' _ k old new => ∃ n, flushes (b.unit (unitKey spos unit)).thr old new n ∧ b'.late = b.late ∧
         b'.dropped = b.dropped + (if new.ret then old.ents.length - n else 0) ∧
         (new.ret = true → sget false b'.cull k = true) ∧ (new.ret = false → b'.cull = b.cull)) ∧
     act s handle spos unit (fun o old => (∃ x, o.instr = .cretire x ∧ x.fl = true) ∧ old.ret = false ∧ noLog old)
       (fun b b' _ k old new => ∃ n mid, flushes (b.unit (unitKey spos unit)).thr old mid n ∧ b'.late = b.late ∧
         new = { mid with ret := true, nd := min 255 mid.nd } ∧ new.ents = [] ∧
         b'.dropped = b.dropped + (if mid.ret then old.ents.length - n else 0) ∧ sget false b'.cull k = true) ∧
     act s handle spos unit
       (fun o old => ((∃ x, o.instr = .cflush x) ∧ (old.ret = true ∨ old.ents = [])) ∨ ((∃ x, o.instr = .cretire x) ∧ old.ret = true))
       (fun b b' _ _ old new => new = old ∧ b'.dropped = b.dropped ∧ b'.cull = b.cull) ∧
     act s handle spos unit (fun o old => (∃ x, o.instr = .cretire x ∧ x.fl = false) ∧ old.ret = false)
       (fun b b' _ k old new => new = { old with ret := true, nd := min 255 (old.nd + old.ents.length), ents := [] } ∧
         b'.dropped = b.dropped + old.ents.length ∧ sget false b'.cull k = true))

/-- STREAM_OPERATION of a CREAD or a CREPLAY of one lane (R288, R326 to R329): CREAD gives its octet the words of the
slot's header; CREPLAY with cursor 0 gives zeros and keeps C and E, with a cursor above LCAP the RANGE flag and
cursor 0, and with an entry the derivatives of R328, its flags, key and T, and the cursor less one. The registers
then count as written when no other operation of the instruction is left.
Where it rests on a choice of the model: log entry 38. -/
def Obligations.CreadAndCreplayWriteTheirLanes : Prop :=
  let head := fun (s : State) (handle spos unit : Nat) (b : Block) (o : StreamOp) (os : List StreamOp) (L : Nat) (w : Warp) =>
    (∃ b0, s.block? handle = some b0 ∧ s.arrived b0 spos = b) ∧ b.stream (unitKey spos unit) = o :: os ∧
    o.lanes = 1#32 <<< L ∧ L < 32 ∧ s.parks = [] ∧ s.bad = [] ∧ s.warp? o.who = some w
  let kept := fun (w v : Warp) (L : Nat) (regs : List Nat) => ∀ r k, k < 32 → (k ≠ L ∨ r ∉ regs) → v.word r k = w.word r k
  (∀ s handle spos unit b o os L w x, head s handle spos unit b o os L w → o.instr = .cread x → o.begun = false →
    alook 32 o.src = none → x.d.toNat + 8 ≤ 384 →
    ∃ t b' v, exec (.streamOperation handle spos unit) s = .next t ∧ s.HeadDone handle spos unit os t b' ∧
      t.warp? o.who = some v ∧ kept w v L (rangeFrom x.d.toNat 8) ∧
      ∀ k, k < 8 → v.word (x.d.toNat + k) L =
        wordAt (b.slot (slotKey spos ((o.srcOf L).headD 0).toNat)).toNat k) ∧
  ∀ s handle spos unit b o os L w x slot n g0 g1 g2 g3 u0 u1 u2 u3, head s handle spos unit b o os L w →
    o.instr = .creplay x → o.srcOf L = [slot, n, g0, g1, g2, g3, u0, u1, u2, u3] →
    x.d.toNat + 8 ≤ 384 → x.c.toNat + 4 ≤ 384 → x.e.toNat < 384 →
    (∀ r ∈ rangeFrom x.d.toNat 8, r ∉ rangeFrom x.c.toNat 4 ∧ r ≠ x.e.toNat) → x.e.toNat ∉ rangeFrom x.c.toNat 4 →
    let cfg := b.unit (unitKey spos unit)
    let done := fun (s' : State) (d : Nat → Word) (us : Nat → Word) (e : Word) => ∃ t b' v,
      exec (.streamOperation handle spos unit) s = .next t ∧ t.block? handle = some b' ∧
      (b'.stream (unitKey spos unit)).map (·.id) = os.map (·.id) ∧ (∀ a, t.byte a = s'.byte a) ∧
      t.warp? o.who = some v ∧ kept w v L (rangeFrom x.d.toNat 8 ++ rangeFrom x.c.toNat 4 ++ [x.e.toNat]) ∧
      (∀ k, k < 8 → v.word (x.d.toNat + k) L = d k) ∧ (∀ k, k < 4 → v.word (x.c.toNat + k) L = us k) ∧ v.word x.e.toNat L = e
    let keep := fun (k : Nat) => w.word (x.c.toNat + k) L
    let g := fun (k : Nat) => f32v ([g0, g1, g2, g3].getD k 0)
    let u := fun (k : Nat) => f32v ([u0, u1, u2, u3].getD k 0)
    let rnd := rndF32 .nearestEven
    (n = 0 → done s (fun _ => 0) keep (w.word x.e.toNat L)) ∧
    (n ≠ 0 → cfg.lcap.toNat < n.toNat → done s (fun k => if k = 5 then 0x40000 else 0) keep 0) ∧
    ∀ s' e, n ≠ 0 → n.toNat ≤ cfg.lcap.toNat →
      let va := cfg.logbase.toNat + 32 * (slot.toNat * cfg.lcap.toNat + n.toNat - 1)
      let q := s.setBlock b
      let ag := q.compAgent b spos
      let acc := q.replayAcc b (unitKey spos unit) o
      acc.lanes.all (fun l => q.mayPerformAt (fun _ => false) acc l ((q.pieces acc l).map Piece.asRc)) = true →
      (isLocal va = true ∨ (q.gatePa ag.tenant (q.asks ag va false ⟨true, false, false⟩) = (q, false) ∧
        q.lacks ag va ⟨true, false, false⟩ = false)) → va < 2 ^ 52 →
      q.loadNat ag va 32 = (s', .ok e) → s'.warp? o.who = some w → s'.block? handle = some b →
      ((bits e 223 192 ≠ slot.toNat ∨ bits e 191 177 ≠ 0) → done s' (fun k => if k = 5 then 0x80000 else 0) keep 0) ∧
      (bits e 223 192 = slot.toNat → bits e 191 177 = 0 →
        let c := fun (k : Nat) => FFmt.f16.decode (bits e (111 + 16 * k) (96 + 16 * k))
        let a := f32v (wordAt e 2)
        let tb := wordAt e 1
        let p := fun (k : Nat) => (g k).mul ((c k).sub .nearestEven (u k))
        done s' (fun k => match k with
            | 0 => rnd ((f32v tb).mul ((((p 0).add .nearestEven (p 1)).add .nearestEven (p 2)).add .nearestEven (p 3)))
            | 5 => BitVec.ofNat 32 (bits e 175 160 + bits e 176 176 * 2 ^ 16 + 2 ^ 17)
            | 6 => wordAt e 0
            | 7 => if f32v tb = .nan then rnd .nan else tb
            | k + 1 => rnd ((g k).mul (f32v (wordAt e 7))))
          (fun k => rnd ((a.mul (c k)).add .nearestEven (((Fv.fin false 1 0).sub .nearestEven a).mul (u k))))
          (n - 1))

/-! ## Group 0xD_ and the control registers -/

/-- TIME (R373) gives DTIME in the lanes of `active` or once. WAITT (R374) retires when its target, taken at the first
issue and kept from then on, is not above DTIME or no lane is in `active`, and else holds its warp with nothing
changed; WAITT_TARGET_REACHED retires it once DTIME has reached the target and not before. PCLS (R375) sets the class
of its block, CKPT (R377) the live mask, the CKPT number and the instance's estimate of the work left, with a stop
request pending the cut of the block, and SWPT (R376) moves the lanes of `active` to CODE + the entry of the table of
the posted level + 16; an SW at or above SWCOUNT gives the bounds trap and a bad target the alignment trap. With no
lane in `active` each only goes on. -/
def Obligations.TimePowerAndCheckpointForms : Prop :=
  (let now := fun (s : State) (who : Issuer) => (s.die (s.dieOf who)).dtime
   (∀ x : DOnly, LaneCompletes (.time x) x.h [] (rangeFrom x.d.toNat 2) fun s who w _ act v =>
     w.Result v 2 x.d act fun _ => now s who) ∧
   (∀ x : WaittOp,
     let target := fun (s : State) (who : Issuer) (w : Warp) =>
       if x.rel then (now s who + w.group 2 x.a.toNat 0) % 2 ^ 64 else w.group 2 x.a.toNat 0
     let form := Completes (.waitt x) x.h .shared (rangeFrom x.a.toNat 2) [] none
     form (fun s who w _ act => act = 0 ∨ (w.hold = .none ∧ target s who w ≤ now s who) ∨
         ∃ t h, w.hold = .waitt t h ∧ t ≤ now s who)
       (fun s who w p _ t => ∃ v, s.Retired who w x.h t v ∧ w.WentOn p v ∧ w.SameData v) ∧
     form (fun s who w _ act => act ≠ 0 ∧ w.hold = .none ∧ now s who < target s who w)
       (fun s who w _ _ t => ∃ v, t.warp? who = some v ∧ v.hold = .waitt (target s who w) x.h ∧ v.paths = w.paths ∧
         w.SameRegs v ∧ ∀ a, t.byte a = s.byte a) ∧
     form (fun s who w _ act => act ≠ 0 ∧ ∃ n h, w.hold = .waitt n h ∧ now s who < n)
       (fun s who w _ _ t => ∃ v n h, t.warp? who = some v ∧ w.hold = .waitt n h ∧ v.hold = .waitt n x.h ∧
         v.paths = w.paths ∧ w.SameRegs v ∧ ∀ a, t.byte a = s.byte a)) ∧
   ∀ (s : State) (who : Issuer) (w : Warp) (p : PathEntry) (n : Nat) (h : Hdr),
     s.warp? who = some w → w.hold = .waitt n h → w.active = some p →
     (now s who < n → exec (.waittTargetReached who) s = .next s) ∧
     (n ≤ now s who → s.barred who w = false → w.stepping = false →
       let u := s.onClock (s.clockKey who)
       ∃ t v, exec (.waittTargetReached who) s = .next (t.onClock s.clockOf) ∧ u.Retired who w h t v ∧ w.WentOn p v ∧
         w.SameData v)) ∧
  (let on := fun (s : State) (who : Issuer) (b : Block) => ∃ h wid, who = .warp h wid ∧ s.block? h = some b
   let off := fun (i : Instr) (h : Hdr) (rd : List Nat) => Completes i h .compute rd [] none (fun _ _ _ _ act => act = 0)
     fun s who w p _ t => ∃ v, s.Retired who w h t v ∧ w.WentOn p v ∧ w.SameData v
   (∀ x : PclsOp,
     off (.pcls x) x.h (spanB 1 x.b) ∧
     Completes (.pcls x) x.h .compute (spanB 1 x.b) [] none (fun s who _ _ act => act ≠ 0 ∧ ∃ b, on s who b)
       fun s who w p _ t => ∃ v b, on s who b ∧ s.RetiredIn who w x.h t v ∧ w.WentOn p v ∧ w.SameData v ∧
         on t who { b with cls := if w.srcB32 x.b 0 ≤ 3 then w.srcB32 x.b 0 else 3 }) ∧
   (∀ x : CkptOp,
     off (.ckpt x) x.h (span 1 x.a ++ span 1 x.b) ∧
     Completes (.ckpt x) x.h .compute (span 1 x.a ++ span 1 x.b) [] none
       (fun s who _ _ act => act ≠ 0 ∧ ∃ b j i, on s who b ∧ s.job? b.job = some j ∧ j.inst? b.inst = some i)
       fun s who w p _ t => ∃ v b b' j i, on s who b ∧ on t who b' ∧ s.job? b.job = some j ∧ j.inst? b.inst = some i ∧
         s.RetiredIn who w x.h t v ∧ w.WentOn p v ∧ w.SameData v ∧
         b'.lmask = w.word x.b.toNat 0 ∧ b'.ckno = some x.ck ∧
         (kdCkptns b.kd = 0 → b'.cut = b.cut ∧ b'.stopReq = b.stopReq) ∧
         (kdCkptns b.kd ≠ 0 → b'.ckptSince = (s.die b.die).dtime ∧ b'.stopReq = none ∧
           b'.cut = match b.stopReq with
             | some r => some ⟨(s.die b.die).dtime, r, x.ck, false⟩
             | none => b.cut) ∧
         ∃ j', t.job? b.job = some j' ∧ j' = j.setInst { i with estimate := (w.word x.a.toNat 0).toNat }) ∧
   ∀ x : SwptOp,
     let va := fun (s : State) (b : Block) => kdSwt b.kd (kdVmap b.kd (s.posted b.die b.cluster)) + 4 * x.sw.toNat
     let tgt := fun (b : Block) (n : Nat) => (kdCode b.kd + n + 16) % 2 ^ 64
     let form := Completes (.swpt x) x.h .compute [] [] none
     off (.swpt x) x.h [] ∧
     form (fun s who _ _ act => act ≠ 0 ∧ ∃ b, on s who b ∧ kdSwcount b.kd ≤ x.sw.toNat)
       (fun s who _ p act t => t = s.takeTrap who 0x03 act x.sw.toNat p.pc) ∧
     form (fun s who w _ act => act ≠ 0 ∧ ∃ b u n, on s who b ∧ x.sw.toNat < kdSwcount b.kd ∧ isLocal (va s b) = false ∧
         (s.gate (s.agentOf who w) (va s b) false).2 = false ∧ s.loadNat (s.agentOf who w) (va s b) 4 = (u, .ok n) ∧ (tgt b n % 16 ≠ 0 ∨ 2 ^ 52 ≤ tgt b n))
       (fun s who w p act t => ∃ b u n, on s who b ∧ s.loadNat (s.agentOf who w) (va s b) 4 = (u, .ok n) ∧
         t = u.takeTrap who 0x02 act (tgt b n) p.pc) ∧
     form (fun s who w p act => act ≠ 0 ∧ ∃ b u n, on s who b ∧ x.sw.toNat < kdSwcount b.kd ∧ isLocal (va s b) = false ∧
         (s.gate (s.agentOf who w) (va s b) false).2 = false ∧ s.loadNat (s.agentOf who w) (va s b) 4 = (u, .ok n) ∧ tgt b n % 16 = 0 ∧ tgt b n < 2 ^ 52 ∧
         (u.deep who = true ∨ (w.paths.filter fun q => !q.spilled).length + (if p.mask &&& ~~~act = 0 then 0 else 1) ≤ 16))
       fun s who w p act t => ∃ v b u n, on s who b ∧ s.loadNat (s.agentOf who w) (va s b) 4 = (u, .ok n) ∧
         t.warp? who = some v ∧ w.SameRegs v ∧ w.SamePreds v ∧ w.SameCC v ∧ (∀ a, t.byte a = u.byte a) ∧
         (∀ L, act.getLsbD L = true → v.Stands L (BitVec.ofNat 48 (tgt b n / 16)) p.jidx false) ∧
         ∀ L, p.mask.getLsbD L = true → act.getLsbD L = false → v.Stands L (p.pc + 1) p.jidx false)

/-- CSR.RD (R165) with lane 0 in `active`: a readable number gives its register in lane 0 or once; the registers that
every sequencer holds are spelt out, with DTIMELO latching DTIMEHI; TDROP's read clears it; a Percolator or Trivet
register that is plain gives what was last written. CSR.WR: IRQMASK takes the value, IRQACK clears the pending bits
named, and a plain Percolator register takes a value without reserved bits; nothing else changes. Without lane 0
nothing is read or written; a number that is unassigned, or not readable or writable on this sequencer, raises the
illegal-instruction trap.
Where it rests on a choice of the model: log entry 2. -/
def Obligations.CsrFormsReadAndWrite : Prop :=
  (∀ x : CsrRd,
     let n := x.csr.toNat
     let form := Completes (.csrRd x) x.h .privileged [] (span 1 x.d) none
     let gives := fun (s : State) (who : Issuer) (w : Warp) (p : PathEntry) (act : Mask) (t : State) (value : Nat) =>
       ∃ v, s.RetiredIn who w x.h t v ∧ w.WentOn p v ∧ w.Result v 1 x.d (act &&& 1) fun _ => value
     form (fun _ who _ _ _ => ∃ q, who = .seq q ∧ (csrAccess q.trivet n).reads = false)
       (fun s who _ p _ t => t = s.takeTrap who 0x01 p.mask 0 p.pc) ∧
     form (fun _ who _ _ act => act.getLsbD 0 = false ∧ ∃ q, who = .seq q ∧ (csrAccess q.trivet n).reads = true)
       (fun s who w p _ t => ∃ v, s.Retired who w x.h t v ∧ w.WentOn p v ∧ w.SameData v) ∧
     form (fun _ who _ _ act => act.getLsbD 0 = true ∧ n ∈ [0x000, 0x001, 0x002, 0x010, 0x011] ∧ ∃ q, who = .seq q)
       (fun s who w p act t => ∃ q, who = .seq q ∧
         gives s who w p act t (match n with
           | 0x000 => (if q.trivet then 1 else 0) + 4 * (q.num % 4) + (if q.die then 16 else 0)
           | 0x001 => (s.die q.die).dtime % 2 ^ 32
           | 0x002 => (s.seq q).dtimeHi.toNat
           | 0x010 => (s.seq q).irqPend.toNat
           | _ => (s.seq q).irqMask.toNat) ∧
         (n = 0x001 → (t.seq q).dtimeHi = BitVec.ofNat 32 ((s.die q.die).dtime / 2 ^ 32)) ∧
         (n ≠ 0x001 → t.seqs = s.seqs)) ∧
     form (fun _ who _ _ act => act.getLsbD 0 = true ∧ 0x100 ≤ n ∧ n < 0x200 ∧ n % 16 = 8 ∧ ∃ q, who = .seq q ∧ q.trivet = false)
       (fun s who w p act t => ∃ q, who = .seq q ∧
         gives s who w p act t (sget 0 (s.die q.die).tdrop ((n - 0x100) / 16)).toNat ∧
         sget 0 (t.die q.die).tdrop ((n - 0x100) / 16) = 0) ∧
     form (fun _ who _ _ act => act.getLsbD 0 = true ∧ ∃ q, who = .seq q ∧ q.trivet = false ∧ percAccess n = .both ∧
         n ≠ 0x350 ∧ n ≠ 0x361)
       (fun s who w p act t => ∃ q, who = .seq q ∧
         gives s who w p act t (sget (csrDefault n) (s.die q.die).pcsr n : Word).toNat ∧ t.dieA = s.dieA ∧ t.dieB = s.dieB) ∧
     form (fun s who _ _ act => act.getLsbD 0 = true ∧ ∃ q, who = .seq q ∧ q.trivet = true ∧ trivAccess n = .both ∧
         (n = 0x100 → (s.die q.die).pwrPending = none))
       (fun s who w p act t => ∃ q, who = .seq q ∧
         gives s who w p act t (sget (tcsrDefault n) (s.die q.die).tcsr n : Word).toNat ∧ t.dieA = s.dieA ∧ t.dieB = s.dieB)) ∧
  (∀ x : CsrWr,
     let n := x.csr.toNat
     let form := Completes (.csrWr x) x.h .privileged (span 1 x.a) [] none
     let leaves := fun (s : State) (who : Issuer) (w : Warp) (p : PathEntry) (t u : State) =>
       ∃ v, t.warp? who = some v ∧ w.WentOn p v ∧ w.SameData v ∧ { t with cycle := s.cycle, warps := s.warps } = u
     form (fun _ who _ _ _ => ∃ q, who = .seq q ∧ (csrAccess q.trivet n).writes = false)
       (fun s who _ p _ t => t = s.takeTrap who 0x01 p.mask 0 p.pc) ∧
     form (fun _ who _ _ act => act.getLsbD 0 = false ∧ ∃ q, who = .seq q ∧ (csrAccess q.trivet n).writes = true)
       (fun s who w p _ t => leaves s who w p t s) ∧
     form (fun s who _ _ act => s.cutOff who = true ∧ act.getLsbD 0 = true ∧ n ∈ [0x011, 0x012, 0x200] ∧ ∃ q, who = .seq q)
       (fun s who w p _ t => leaves s who w p t s) ∧
     form (fun s who _ _ act => s.cutOff who = false ∧ act.getLsbD 0 = true ∧ n = 0x011 ∧ ∃ q, who = .seq q)
       (fun s who w p _ t => ∃ q, who = .seq q ∧ leaves s who w p t (s.setSeq q { s.seq q with irqMask := w.word x.a.toNat 0 })) ∧
     form (fun s who _ _ act => s.cutOff who = false ∧ act.getLsbD 0 = true ∧ n = 0x012 ∧ ∃ q, who = .seq q)
       (fun s who w p _ t => ∃ q, who = .seq q ∧
         leaves s who w p t (s.setSeq q { s.seq q with irqPend := (s.seq q).irqPend &&& ~~~(w.word x.a.toNat 0) })) ∧
     form (fun s who w _ act => s.cutOff who = false ∧ act.getLsbD 0 = true ∧ percValid n (w.word x.a.toNat 0).toNat = true ∧
         ((0x200 ≤ n ∧ n < 0x300 ∧ n % 4 < 2) ∨ (0x300 ≤ n ∧ n < 0x330) ∨ (0x380 ≤ n ∧ n < 0x400 ∧ n % 4 ≠ 2) ∨ n = 0x360 ∨
           (0x100 ≤ n ∧ n < 0x200 ∧ (n % 16 = 1 ∨ n % 16 = 2 ∨ (4 ≤ n % 16 ∧ n % 16 < 8)))) ∧ ∃ q, who = .seq q ∧ q.trivet = false)
       (fun s who w p _ t => ∃ q, who = .seq q ∧ leaves s who w p t (s.setDie q.die { s.die q.die with
         pcsr := sset (csrDefault n) (s.die q.die).pcsr n (w.word x.a.toNat 0) })))

/-! ## Register events -/

/-- Register writes and reads through the system function and TLB invalidation, carve-outs and events (R335 to R338,
R347, R348, R366, R400, R442, R455, R466). A plain register takes a value without reserved bits and nothing else
changes; a reserved value changes no register and posts the kind 11 record of reason 1; TLBINV queues an
invalidation, whose completion removes the cached translations named and no others; TWAYS queues a change, and
CARVE_OUT_CHANGE_COMPLETE puts it in force; TDROP's read clears it; EVCOUNT sets the selected event's count, EVCTL_RESET
zeroes it, and EVCTL_FREE frees an entry without waits and else posts the record of reason 7.
Where it rests on a choice of the model: log entry 45. -/
def Obligations.RegisterEventsActOnTheirRegisters : Prop :=
  (∀ (s : State) (d : DieId) (n : Nat) (v : Word), n < 0x1000 →
    (((0x200 ≤ n ∧ n < 0x300 ∧ n % 4 < 2) ∨ (0x300 ≤ n ∧ n < 0x330) ∨ n = 0x360 ∨
        (0x380 ≤ n ∧ n < 0x400 ∧ n % 4 ≠ 2) ∨ (0x100 ≤ n ∧ n < 0x200 ∧ (n % 16 = 1 ∨ n % 16 = 2 ∨ (4 ≤ n % 16 ∧ n % 16 < 8)))) →
      percValid n v.toNat = true →
      exec (.registerWrite d false n v) s = .next (s.setDie d { s.die d with pcsr := sset (csrDefault n) (s.die d).pcsr n v })) ∧
    ((percAccess n).writes = true → percValid n v.toNat = false →
      exec (.registerWrite d false n v) s = .next (s.post11 d 0 0xFFFF 1 0 (n + if d then 0x2000 else 0) v.toNat)) ∧
    ((percAccess n).writes = false → exec (.registerWrite d false n v) s = .next s) ∧
    (n ∈ [0x104, 0x105, 0x106, 0x110, 0x111, 0x112] → trivValid n v.toNat = true →
      exec (.registerWrite d true n v) s = .next (s.setDie d { s.die d with tcsr := sset (tcsrDefault n) (s.die d).tcsr n v }))) ∧
  (∀ (s : State) (d : DieId) (v : Word), 120 ≤ v.toNat → v.toNat ≤ 450 → ∃ t, exec (.pwrlim d v) s = .next t ∧
    ∀ e, if (s.die e).frozen = true then t.die e = { s.die e with pwrPending := some v }
      else t.die e = { s.die e with tcsr := sset (tcsrDefault 0x100) (s.die e).tcsr 0x100 v }) ∧
  (∀ (s : State) (d : DieId) (v : Word), (v.toNat < 120 ∨ 450 < v.toNat) →
    exec (.pwrlim d v) s = .next (s.post11 d 0 0xFFFF 1 0 (0x100 + 0x1000 + if d then 0x2000 else 0) v.toNat)) ∧
  (∀ (s : State) (d : DieId) (v : Word), v.toNat < 32 → exec (.tlbinv d v) s = .next (s.setDie d { s.die d with
    tlbBusy := (s.die d).tlbBusy ++ [(v.toNat % 16, decide (16 ≤ v.toNat), (s.die d).dtime)] })) ∧
  (∀ (s : State) (d : DieId) (ten : Nat) (all : Bool) (at_ : Nat) (l : List (Nat × Bool × Nat)),
    (s.die d).tlbBusy = (ten, all, at_) :: l → (s.die d).percQ = [] →
    ∃ t, exec (.tlbInvalidationComplete d) s = .next t ∧ (t.die d).tlbBusy = l ∧ (∀ a, t.byte a = s.byte a) ∧
      (∀ e, e ∈ t.tlb ↔ e ∈ s.tlb ∧ ¬ (e.die = d ∧ (all = true ∨ e.tenant = ten))) ∧
      ∀ q ∈ t.parks, ¬ (q.die = d ∧ (all = true ∨ q.tenant = ten) ∧ q.reason = 1)) ∧
  (∀ (s : State) (d : DieId) (t : Nat) (v : Word), t < 16 → exec (.tways d t v) s = .next (s.setDie d { s.die d with
    pcsr := sset 0 (s.die d).pcsr (0x103 + 16 * t) v, twaysQ := (s.die d).twaysQ ++ [(t, v)] })) ∧
  (∀ (s : State) (d : DieId) (k : Nat) (v : Word) (l : List (Nat × Word)), (s.die d).twaysQ = (k, v) :: l →
    (∃ e, (s.die (s.evHome (v.extractLsb' 16 16))).event? (v.extractLsb' 16 16) = some e) →
    ∃ t, exec (.carveOutChangeComplete d) s = .next t ∧ (t.die d).twaysQ = l ∧ (∀ a, t.byte a = s.byte a) ∧
      sget 0 (t.die d).ways k = v.setWidth 16 ∧ ∀ m ∈ t.msc, m ∈ s.msc) ∧
  (∀ (s : State) (d : DieId) (t : Nat), exec (.tdrop d t) s =
    .next (s.setDie d { s.die d with tdrop := sset 0 (s.die d).tdrop t 0 })) ∧
  (∀ (s : State) (d : DieId) (v : Word) (c : EvEntry),
    (s.die (s.evHome (s.evsel d))).event? (s.evsel d) = some c → c.waits = [] → c.chained = [] →
    (∃ t, exec (.evcount d v) s = .next t ∧ (t.die (s.evHome (s.evsel d))).event? (s.evsel d) = some { c with count := v } ∧
      (∀ e, e ≠ s.evsel d → ∀ h, (t.die h).event? e = (s.die h).event? e) ∧ ∀ a, t.byte a = s.byte a) ∧
    (∃ t, exec (.evctlFree d) s = .next t ∧ (t.die (s.evHome (s.evsel d))).event? (s.evsel d) = none ∧
      (∀ e, e ≠ s.evsel d → ∀ h, (t.die h).event? e = (s.die h).event? e) ∧ ∀ a, t.byte a = s.byte a)) ∧
  (∀ (s : State) (d : DieId) (c : EvEntry), (s.die (s.evHome (s.evsel d))).event? (s.evsel d) = some c →
    (∃ t, exec (.evctlReset d) s = .next t ∧ (t.die (s.evHome (s.evsel d))).event? (s.evsel d) = some { c with count := 0 } ∧
      ∀ a, t.byte a = s.byte a) ∧
    ((c.waits ≠ [] ∨ c.chained ≠ []) →
      exec (.evctlFree d) s = .next (s.post11 d 0 0xFFFF 7 0 (s.evsel d).toNat c.waits.length)))

/-- Ring control (R339, R340, R357): with EN clear, or set before, SRCTL and QMCTL only store the value; when EN is set and
the descriptor can be read, a submission ring that obeys R81, of MODULE or SYSTEM scope with room for a card, is enabled
and any other stays disabled with the record of reason 2; a node ring with two good descriptors is served, its committed positions
stamped with the present time; a commit write advances COMMIT by its increment or is ignored with the record of reason 3.
A record that its ring takes leaves the held ones and raises vector 1 (R398).
Where it rests on a choice of the model: log entry 49. -/
def Obligations.RingControlAndRecords : Prop :=
  (∀ (s : State) (d : DieId) (r : Nat) (v : Word), r < 64 → v.toNat < 64 → (s.die d).percQ = [] →
    let put := fun (u : State) (w : Word) => u.setCsr d (0x202 + 4 * r) w
    let was := (sget 0 (s.die d).pcsr (0x202 + 4 * r) : Word).getLsbD 4
    ((v.getLsbD 4 = false ∨ was = true) → exec (.srctl d r v) s = .next (put s v)) ∧
    ∀ u b, v.getLsbD 4 = true → was = false →
      s.percLoad (percAgent d (v.toNat % 16)) (s.srd d r) 64 = (u, .ok b) →
      ((2 ≤ (Ring.ofBytes b).scope ∧ 2 ≤ (Ring.ofBytes b).log2cap ∧ (Ring.ofBytes b).wellShaped = true) →
        exec (.srctl d r v) s = .next (put u v)) ∧
      (((Ring.ofBytes b).scope < 2 ∨ (Ring.ofBytes b).log2cap < 2 ∨ (Ring.ofBytes b).wellShaped = false) →
        exec (.srctl d r v) s = .next ((put u (v - 16)).post11 d (v.toNat % 16) 0xFFFF 2 1 r (s.srd d r)))) ∧
  (∀ (s : State) (d : DieId) (q : Nat) (v : Word), q < 32 → percValid (0x382 + 4 * q) v.toNat = true → (s.die d).percQ = [] →
    let was := (sget 0 (s.die d).pcsr (0x382 + 4 * q) : Word).getLsbD 4
    (v.getLsbD 4 = false → ∃ t, exec (.qmctl d q v) s = .next t ∧ sget 0 (t.die d).pcsr (0x382 + 4 * q) = v ∧
      (∀ e ∈ (t.die d).stamps, e.1 ≠ q) ∧ ∀ a, t.byte a = s.byte a) ∧
    (v.getLsbD 4 = true → was = true → exec (.qmctl d q v) s = .next (s.setCsr d (0x382 + 4 * q) v)) ∧
    ∀ u b u' k, v.getLsbD 4 = true → was = false →
      s.percStep (percAgent d (v.toNat % 16)) (100 + q) (s.qmd d q) 64 = (u, .ok b) → (Ring.ofBytes b).nodekd ≠ 0 →
      (Ring.ofBytes b).scope ≠ 0 → (Ring.ofBytes b).wellShaped = true →
      u.percStep (percAgent d (v.toNat % 16)) (100 + q) (Ring.ofBytes b).nodekd 256 = (u', .ok k) →
      kdOk (word2048 k) = true → kdBarriersOk (word2048 k) = true →
      ∃ t, exec (.qmctl d q v) s = .next t ∧ sget 0 (t.die d).pcsr (0x382 + 4 * q) = v ∧ (∀ a, t.byte a = u'.byte a) ∧
        (q, (Ring.ofBytes b).commit, (u'.die d).dtime) ∈ (t.die d).stamps ∧ ∀ e ∈ (t.die d).granted, e.1 ≠ 100 + q) ∧
  (∀ (s : State) (d : DieId) (who : RegWriter) (r : Nat) (v : Word), r < 64 →
    let ctl := s.srctl d r
    let g := percAgent d (ctl % 16)
    (actsFor who (ctl % 16) = false →
      exec (.srcmt d who r v) s = .next (s.post11 d (writerTenant who) 0xFFFF 3 1 r v.toNat)) ∧
    ∀ u b y, actsFor who (ctl % 16) = true → bitAt ctl 5 = false → (s.die d).percQ = [] →
      (s.gate g (s.srd d r) true).2 = false → s.percLoad g (s.srd d r) 64 = (u, .ok b) →
      let x := Ring.ofBytes b
      x.wellShaped = true →
      let inc := (v.toNat + 2 ^ 32 - x.commit % 2 ^ 32) % 2 ^ 32
      (inc % 4 ≠ 0 → exec (.srcmt d who r v) s = .next (u.post11 d (writerTenant who) 0xFFFF 3 3 r v.toNat)) ∧
      (inc % 4 = 0 → inc ≤ x.cap - (x.commit - x.retire) →
        u.putRing g (s.srd d r) { x with commit := x.commit + inc } x.system = (y, .ok ()) →
        ∃ t, exec (.srcmt d who r v) s = .next t ∧ t.mem = y.mem ∧ t.jobs = y.jobs)) ∧
  ∀ (s : State) (d : DieId) (t : Nat) (h : Held) (u y : State) (r : Ring),
    (s.die d).held.filter (fun k => k.tenant == t) = [h] → s.terr d t ≠ 0 → s.percParked d (200 + t) = false →
    (s.gate (percAgent d t) (s.terr d t) false).2 = false → s.ringAt (percAgent d t) (s.terr d t) = (u, .ok r) →
    r.wellShaped = true → 2 ≤ r.scope → (u.gate (percAgent d t) (r.slot r.claim) true).2 = false →
    u.appendGranule (percAgent d t) (s.terr d t) (u.heldBytes d h) = (y, .done) →
    (y.die d).held = (s.die d).held → (y.die d).percQ = [] →
    ∃ z, exec (.errorRecordDeferredWrite d t) s = .next z ∧ z.mem = y.mem ∧ (z.die d).held = (s.die d).held.erase h ∧
      z.msix = y.msix ++ [(t, 1)]

/-- Sequencers and their supervision (R165, R166, R380, R381, R456 to R459, R463): DTIMELO latches DTIMEHI, IRQACK
clears the bits named, an interrupt line becomes pending, a heartbeat is counted; an image is rejected, or staged,
committed, kept by its first heartbeat within 1 ms, or rolled back after it; a first hang restarts the four
front-end sequencers, a second one within 10 ms halts the Percolator; a hung power sequencer freezes the grants at
levels of at most 2; a lockstep mismatch resets the Trivet.
Where it rests on a choice of the model: log entries 58, 60, 61. -/
def Obligations.SupervisionEvents : Prop :=
  (∀ (s : State) (q : SeqId), exec (.dtimelo q) s =
    .next (s.setSeq q { s.seq q with dtimeHi := BitVec.ofNat 32 ((s.die q.die).dtime / 2 ^ 32) })) ∧
  (∀ (s : State) (q : SeqId) (v : Word),
    (((s.seq q).halted = true ∨ s.cutOff (.seq q) = true) → exec (.irqack q v) s = .next s) ∧
    ((s.seq q).halted = false → s.cutOff (.seq q) = false → exec (.irqack q v) s =
      .next (s.setSeq q { s.seq q with irqPend := (s.seq q).irqPend &&& ~~~v }))) ∧
  (∀ (s : State) (q : SeqId) (l : BitVec 5), ∃ t, exec (.interruptLine q l) s = .next t ∧
    (t.seq q).irqPend = (s.seq q).irqPend ||| (1#32 <<< l.toNat) ∧ (t.seq q).irqMask = (s.seq q).irqMask ∧
    ∀ k, k ≠ q → t.seq k = s.seq k) ∧
  (∀ (s : State) (q : SeqId) (v : Word), (q.trivet = true ∨ q.num < 4) →
    (s.seq q).halted = false → (s.seq q).isolated = false → s.cutOff (.seq q) = false →
    (s.die q.die).fw ≠ .quiescing → (∀ e ∈ (s.die q.die).events, e.chained = []) →
    exec (.hbeat q v) s = .next (s.setSeq q { s.seq q with lastBeat := (s.die q.die).dtime, awaitBeat := false })) ∧
  (∀ (s : State) (d : DieId) (v : Word),
    let missed := (s.die d).fw = .quiescing ∧ (s.die d).fwImage = true ∧ (s.die d).powerBeat + 1000000 < (s.die d).dtime
    (missed → exec (.hbeat ⟨d, false, 4⟩ v) s = .next s) ∧
    (¬ missed → ∃ t, exec (.hbeat ⟨d, false, 4⟩ v) s = .next t ∧
      (t.die d).powerBeat = (s.die d).dtime ∧ (t.die d).frozenGrants = false ∧ (t.die d).pwrPending = none ∧
      (∀ x, (s.die d).pwrPending = some x → sget (tcsrDefault 0x100) (t.die d).tcsr 0x100 = x))) ∧
  (∀ (s : State) (d : DieId) (power : Bool) (n : Nat), (s.die d).fw ≠ .quiescing →
    exec (.fwcmdStage d power false n) s = .next (s.setDie d { s.die d with fw := .rejected }) ∧
    (n < Config.rollbackCount d → exec (.fwcmdStage d power true n) s = .next (s.setDie d { s.die d with fw := .rejected })) ∧
    (Config.rollbackCount d ≤ n → ∃ t, exec (.fwcmdStage d true true n) s = .next t ∧ (t.die d).fw = .quiescing ∧
      (t.die d).fwImage = true ∧ (t.die d).fwVersion = n ∧ (t.die d).frozenGrants = true ∧
      (t.die d).slotP = (s.die d).slotP ∧ (t.die d).slotA = (s.die d).slotA) ∧
    (Config.rollbackCount d ≤ n → ∃ t, exec (.fwcmdStage d false true n) s = .next t ∧ (t.die d).fw = .quiescing ∧ (t.die d).fwImage = false ∧
      (t.die d).fwVersion = n ∧ (t.die d).slotA = (s.die d).slotA ∧
      ∀ k, k < 4 → (t.seq ⟨d, false, k⟩).awaitBeat = true ∧ (t.seq ⟨d, false, k⟩).halted = false)) ∧
  (∀ (s : State) (d : DieId) (power : Bool),
    (((s.die d).fw ≠ .running ∨ (s.die d).fwImage ≠ power) → exec (.fwcmdCommit d power) s = .next s) ∧
    ((s.die d).fw = .running → (s.die d).fwImage = power → ∃ t, exec (.fwcmdCommit d power) s = .next t ∧
      (t.die d).fw = .committed ∧ (t.die d).slotA = (!power != (s.die d).slotA) ∧
      (t.die d).slotP = (power != (s.die d).slotP) ∧ (t.die d).version = (s.die d).fwVersion)) ∧
  (∀ (s : State) (d : DieId), (s.die d).fw = .quiescing → (s.die d).fwImage = true →
    (s.die d).dtime ≤ (s.die d).powerBeat + 1000000 → ∃ t, exec (.firmwareFirstHeartbeat d) s = .next t ∧
      (t.die d).fw = .running ∧ (t.die d).frozenGrants = false) ∧
  (∀ (s : State) (d : DieId), (s.die d).fw = .quiescing → (s.die d).fwImage = true →
    ((s.die d).dtime < (s.die d).powerBeat + 1000000 → exec (.firmwareRollback d) s = .next s) ∧
    ((s.die d).powerBeat + 1000000 ≤ (s.die d).dtime → ∃ t, exec (.firmwareRollback d) s = .next t ∧
      (t.die d).fw = .rolledBack ∧ (t.die d).slotA = (s.die d).slotA ∧ (t.die d).version = (s.die d).version ∧
      (t.die d).frozenGrants = (s.die d).frozenGrants ∧ (t.die d).pwrPending = (s.die d).pwrPending ∧
      (t.die d).levels = (s.die d).levels.map fun p => (p.1, if p.2 ≤ 2 then p.2 else 2))) ∧
  (∀ (s : State) (d : DieId) (n : Nat) (x : SeqRec), n < 4 → alook ⟨d, false, n⟩ s.seqs = some x → (s.die d).serving = true →
    (s.die d).halted = false → (s.die d).fw ≠ .quiescing → x.halted = false → x.isolated = false →
    ((s.die d).dtime < x.lastBeat + 1000000 → exec (.sequencerHang d n) s = .next s) ∧
    (x.lastBeat + 1000000 ≤ (s.die d).dtime → (∀ t ∈ (s.die d).hangs, t + 10000000 < (s.die d).dtime) →
      ∃ t, exec (.sequencerHang d n) s = .next t ∧ (t.die d).hangs = (s.die d).hangs ++ [(s.die d).dtime] ∧
        (t.die d).halted = false ∧ (∀ k, k < 4 → (t.seq ⟨d, false, k⟩).awaitBeat = true) ∧ ∀ a, t.byte a = s.byte a) ∧
    (x.lastBeat + 1000000 ≤ (s.die d).dtime → (∃ t ∈ (s.die d).hangs, (s.die d).dtime ≤ t + 10000000) →
      (s.dieA.busy = true ∨ s.dieB.busy = true) → ∃ t, exec (.sequencerHang d n) s = .next t ∧ (t.die d).halted = true ∧
        (t.seq ⟨d, false, n⟩).isolated = true)) ∧
  (∀ (s : State) (d : DieId), (s.die d).serving = true →
    ((s.die d).dtime < (s.die d).powerBeat + 1000000 → exec (.powerSequencerHang d) s = .next s) ∧
    ((s.die d).powerBeat + 1000000 ≤ (s.die d).dtime → exec (.powerSequencerHang d) s = .next (s.setDie d { s.die d with
      frozenGrants := true, levels := (s.die d).levels.map fun p => (p.1, if p.2 ≤ 2 then p.2 else 2) }))) ∧
  ∀ (s : State) (d : DieId), ∃ t, exec (.lockstepMismatch d) s = .next t ∧
    (∀ n, 0x110 ≤ n → sget (tcsrDefault n) (t.die d).tcsr n = tcsrDefault n) ∧
    (∀ n, n < 0x110 → sget (tcsrDefault n) (t.die d).tcsr n = sget (tcsrDefault n) (s.die d).tcsr n) ∧
    (t.seq ⟨d, true, 0⟩).halted = false ∧ (t.seq ⟨d, true, 0⟩).lastBeat = (s.die d).dtime ∧
    (∀ k, k < 4 → (alook ⟨d, false, k⟩ s.seqs).isSome = true → (t.seq ⟨d, false, k⟩).lastBeat = (s.die d).dtime) ∧
    t.jobs = s.jobs ∧ ∀ a, t.byte a = s.byte a

/-! ## Power, boot, the host and failures -/

/-- Power (R11, R12, R367 to R371, R459, R460): POWER_REQUEST at a boundary posts what each cluster's blocks ask
for, level 0 without one, and grants no level above a request, within the power limit or all zero, and none while
grants are frozen; LEVEL_CHANGE takes one step of a cluster to its posted level, raising the rail before the ratio
and lowering it after; a core without a warp is gated after 20 µs and woken when the arbiter has room; a power limit
that falls below 160 W asks for one die and one that rises to 200 W for two, and with no job on the module the one die goes
out of service, or the other comes back, in the same step; a thermal trip changes no grant, job or
byte.
Where it rests on a choice of the model: log entries 13, 34, 62 to 64. -/
def Obligations.PowerEvents : Prop :=
  (∀ (s : State) (d : DieId), ((s.die d).serving = false ∨ (s.die d).dtime / 20000 ≤ (s.die d).powerAt) →
    exec (.powerRequest d) s = .next s) ∧
  (∀ (s : State) (d : DieId), (s.die d).serving = true → (s.die d).powerAt < (s.die d).dtime / 20000 →
    ∃ t, exec (.powerRequest d) s = .next t ∧ (t.die d).powerAt = (s.die d).dtime / 20000 ∧ t.die (!d) = s.die (!d) ∧
      (∀ c, c < 12 → (∀ b ∈ s.blocks, ¬ (b.die = d ∧ b.cluster = c)) → sget 0 (t.die d).requests c = 0) ∧
      (∀ c m, c < 12 →
        (∃ b ∈ s.blocks, b.die = d ∧ b.cluster = c ∧ min b.cls (bits (s.csr d (0x100 + 16 * b.tenant)) 7 6) = m) →
        (∀ b ∈ s.blocks, b.die = d → b.cluster = c → min b.cls (bits (s.csr d (0x100 + 16 * b.tenant)) 7 6) ≤ m) →
        sget 0 (t.die d).requests c = [2, 4, 6, 7].getD m 7) ∧
      ((s.die d).frozen = true → (t.die d).levels = (s.die d).levels) ∧
      ((s.die d).frozen = false → (∀ c, sget 0 (t.die d).levels c ≤ sget 0 (t.die d).requests c) ∧
        ((∀ c, c < 12 → sget 0 (t.die d).levels c = 0) ∨
          Config.estimatedPower (t.dieA.levelList ++ t.dieB.levelList) ≤ s.powerLimit d))) ∧
  (∀ (s : State) (d : DieId) (c : Nat), c < 12 →
    let l := sget 0 (s.die d).levels c
    let rail := [600, 620, 640, 660, 700, 740, 780, 850].getD l 850
    let ratio := [6, 8, 9, 10, 12, 13, 14, 16].getD l 16
    let raised := s.setDie d { s.die d with rails := sset 600 (s.die d).rails c rail }
    (sget 600 (s.die d).rails c < rail → exec (.levelChange d c) s = .next raised) ∧
    (rail ≤ sget 600 (s.die d).rails c → sget 6 (s.die d).ratios c ≠ ratio →
      exec (.levelChange d c) s = .next (s.setDie d { s.die d with ratios := sset 6 (s.die d).ratios c ratio })) ∧
    (rail ≤ sget 600 (s.die d).rails c → sget 6 (s.die d).ratios c = ratio → exec (.levelChange d c) s = .next raised)) ∧
  (∀ (s : State) (d : DieId) (core at_ : Nat), (s.die d).corePower core = .holding at_ →
    ((s.die d).dtime < at_ + 20000 → exec (.corePowerGate d core) s = .next s) ∧
    (at_ + 20000 ≤ (s.die d).dtime → (∀ p ∈ s.warps, s.placeOf p ≠ some (d, core)) →
      ∃ t, exec (.corePowerGate d core) s = .next t ∧ (t.die d).corePower core = .gated ∧
        (∀ k, k ≠ core → (t.die d).corePower k = (s.die d).corePower k) ∧ ∀ a, t.byte a = s.byte a)) ∧
  (∀ (s : State) (d : DieId) (core at_ : Nat), (s.die d).corePower core = .waking at_ →
    let recent := (s.die d).wakes.filter fun t => decide ((s.die d).dtime < t + 400)
    (4 ≤ recent.length → exec (.coreWake d core) s = .next s) ∧
    (recent.length < 4 → ∃ t, exec (.coreWake d core) s = .next t ∧
      (t.die d).corePower core = .holding (s.die d).dtime ∧ (t.die d).wakes = recent ++ [(s.die d).dtime])) ∧
  (∀ (s : State) (d : DieId),
    let l := (sget (tcsrDefault 0x100) (s.die d).tcsr 0x100 : Word).toNat
    let u := s.setDie d { s.die d with limitSeen := l }
    let fell := l < 160 ∧ 160 ≤ (s.die d).limitSeen ∧ s.dieA.serving = true ∧ s.dieB.serving = true
    let rose := 200 ≤ l ∧ (s.die d).limitSeen < 200 ∧ (s.dieA.serving = false ∨ s.dieB.serving = false)
    (((s.die d).frozen = true ∨ (s.die d).serving = false ∨ s.dieA.busy = true ∨ s.dieB.busy = true) →
      exec (.powerLimitTransition d) s = .next s) ∧
    ((s.die d).frozen = false → (s.die d).serving = true → s.dieA.busy = false → s.dieB.busy = false →
      (fell → exec (.powerLimitTransition d) s = exec (.diemodeSingle d s.dieA.halted) u) ∧
      (rose → exec (.powerLimitTransition d) s = exec (.diemodeBoth d) u) ∧
      (fell → s.jobs = [] → s.blocks = [] →
        (∀ x, (s.die x).lost = false ∧ (s.die x).withdrawing = false ∧ ∀ q, q < 32 → bitAt (s.qmctl x q) 4 = false) →
        ∃ t, exec (.powerLimitTransition d) s = .next t ∧ (t.die (!s.dieA.halted)).serving = false ∧
          (t.die (!s.dieA.halted)).lost = true ∧ (t.die s.dieA.halted).serving = true ∧ (t.die d).limitSeen = l ∧
          t.dieA.busy = false ∧ t.dieB.busy = false ∧ t.csr false 0x350 = (if s.dieA.halted then 2 else 1) ∧
          ∀ a, t.byte a = s.byte a) ∧
      (rose → (s.die (!d)).withdrawing = true → (s.die (!d)).serving = false → (s.die d).withdrawing = false → s.apart = [] →
        s.poison = [] →
        ∃ t, exec (.powerLimitTransition d) s = .next t ∧ (t.die (!d)).serving = true ∧ (t.die (!d)).lost = false ∧
          (t.die (!d)).withdrawing = false ∧ (t.die d).limitSeen = l ∧ t.csr false 0x350 = 0 ∧ t.csr true 0x350 = 0 ∧
          ∀ a, t.byte a = s.byte a) ∧
      (¬ fell → ¬ rose → exec (.powerLimitTransition d) s = .next u))) ∧
  ∀ (s : State) (d : DieId), ∃ t, exec (.thermalTrip d) s = .next t ∧ t.jobs = s.jobs ∧ t.blocks = s.blocks ∧
    t.warps = s.warps ∧ (t.die d).levels = (s.die d).levels ∧ (t.die d).requests = (s.die d).requests ∧
    t.die (!d) = s.die (!d) ∧ ∀ a, t.byte a = s.byte a

/-- One die and back (R360 to R362, R378, R439, R452): a DIEMODE write while BUSY reads 1 is ignored; with no job
on the module the transition to a survivor ends at once, with the other die out of service and its events with the
survivor; the return brings that die back with the survivor's time; a Trivet heartbeat is noted; the eighth failed
retry starts a retraining; a die is declared lost only with cause, and is then out of service.
Where it rests on a choice of the model: log entries 51, 52, 88. -/
def Obligations.DieTransitions : Prop :=
  (∀ (s : State) (d v : DieId), (s.dieA.busy = true ∨ s.dieB.busy = true) →
    exec (.diemodeSingle d v) s = .next s ∧ exec (.diemodeBoth d) s = .next s) ∧
  (∀ (s : State) (d v : DieId), s.dieA.busy = false → s.dieB.busy = false → s.jobs = [] → s.blocks = [] →
    (∀ x, (s.die x).serving = true ∧ (s.die x).lost = false ∧ (s.die x).withdrawing = false ∧
      (∀ q, q < 32 → bitAt (s.qmctl x q) 4 = false) ∧ ∀ e ∈ (s.die x).events, e.chained = []) →
    ∃ t, exec (.diemodeSingle d v) s = .next t ∧ (t.die (!v)).serving = false ∧ (t.die (!v)).lost = true ∧
      (t.die v).serving = true ∧ t.dieA.busy = false ∧ t.dieB.busy = false ∧
      (t.die v).events = (s.die v).events ++ (s.die (!v)).events ∧
      t.csr false 0x350 = (if v then 2 else 1) ∧ t.csr true 0x350 = (if v then 2 else 1) ∧ ∀ a, t.byte a = s.byte a) ∧
  (∀ (s : State) (d l : DieId), s.dieA.busy = false → s.dieB.busy = false → (s.die l).withdrawing = true →
    (s.die l).serving = false → (s.die (!l)).withdrawing = false → s.apart = [] → s.poison = [] →
    ∃ t, exec (.diemodeBoth d) s = .next t ∧ (t.die l).serving = true ∧ (t.die l).lost = false ∧
      (t.die l).withdrawing = false ∧ (t.die l).dtime = (s.die (!l)).dtime ∧ t.csr l 0x350 = 0 ∧ t.csr (!l) 0x350 = 0 ∧
      (∀ a, t.byte a = s.byte a) ∧ ∀ e, e ∈ (t.die l).events ↔ e ∈ (s.die (!l)).events ∧ e.name.getLsbD 15 = l) ∧
  (∀ (s : State) (d : DieId), ((s.die (!d)).lost = true → exec (.trivetHeartbeat d) s = .next s) ∧
    ((s.die (!d)).lost = false → exec (.trivetHeartbeat d) s = .next (s.setDie d { s.die d with trivetBeat := (s.die d).dtime }))) ∧
  (∀ (s : State) (d : DieId), exec (.linkRetry d) s = .next (s.setDie d (if (s.die d).retries < 8
    then { s.die d with retries := (s.die d).retries + 1, retrainAt := none }
    else { s.die d with retries := 0, retrainAt := some (s.die d).dtime }))) ∧
  ∀ (s : State) (l : DieId),
    let x := s.die (!l)
    ((x.dtime < x.trivetBeat + 300000 ∧ (∀ t, x.retrainAt = some t → x.dtime < t + 50000)) →
      exec (.dieLost l) s = .next s) ∧
    ((s.die l).lost = false → x.lost = false → (x.trivetBeat + 300000 ≤ x.dtime ∨ ∃ t, x.retrainAt = some t ∧ t + 50000 ≤ x.dtime) →
      ∃ t, exec (.dieLost l) s = .next t ∧ (t.die l).lost = true ∧ (t.die l).serving = false ∧
        (t.die l).withdrawing = false ∧ (∀ b ∈ t.blocks, b.die ≠ l) ∧ t.dieA.busy = false ∧ t.dieB.busy = false)

/-- Boot, device time, gates and attestation (R378 to R381, R384, R386): of two slots the passing image of higher version
runs, slot 0 in a tie; POWER_ON of a module that is down brings up the dies whose three images have a passing slot and
whose test succeeds, with the measurements of the images that run (slot 0 of one that no slot runs of) and DIEMODE naming a
lone die, and changes nothing of one that is up; a configuration request succeeds once boot has ended, with or without a die; device time steps only before the
first admission; the gate list goes on by one of 256 once its interval has passed; an SPDM request adds its answer once
the die is up: the version is 1.3, the algorithms ECDSA on P-256 with SHA-256, the measurements the three digests.
Where it rests on a choice of the model: log entries 69 to 71, 86, 104. -/
def Obligations.BootTimeAndAttestation : Prop :=
  (∀ (d : DieId) (x y : Nat),
    let ok := fun (i : Nat) => Config.imageVerifies i = true ∧ Config.rollbackCount d ≤ Config.imageVersion i
    (ok x → (ok y → Config.imageVersion y ≤ Config.imageVersion x) → bootSlot d x y = some 0) ∧
    (ok y → (ok x → Config.imageVersion x < Config.imageVersion y) → bootSlot d x y = some 1) ∧
    (¬ ok x → ¬ ok y → bootSlot d x y = none)) ∧
  (∀ (s : State) (a b : Bool) (images : List Nat),
    let bundle := fun (d : DieId) => if d then images.drop 6 else images.take 6
    let slot := fun (d : DieId) (k : Nat) => bootSlot d (imageAt (bundle d) k 0) (imageAt (bundle d) k 1)
    let ok := fun (d : DieId) => (if d then b else a) && [0, 1, 2].all fun k => (slot d k).isSome
    ((s.dieA.up = true ∨ s.dieB.up = true) → exec (.powerOn a b images) s = .next s) ∧
    (s.dieA.up = false → s.dieB.up = false → ∃ t, exec (.powerOn a b images) s = .next t ∧
      (∀ d, (t.die d).serving = ok d ∧ (t.die d).lost = !ok d ∧ (t.die d).dtime = 0 ∧
        (t.die d).measured = [0, 1, 2].map fun k => Config.sha256 (imageAt (bundle d) k ((slot d k).getD 0))) ∧
      t.csr false 0x350 = (if ok false = true ∧ ok true = false then 1 else if ok false = false ∧ ok true = true then 2 else 0) ∧
      (∀ d n, n < 4 → ok d = true → ∃ w, t.warp? (.seq ⟨d, false, n⟩) = some w ∧ w.launched = 1 ∧
        (∀ r L, w.word r L = 0) ∧ (t.seq ⟨d, false, n⟩).halted = false) ∧ ∀ x, t.byte x = s.byte x)) ∧
  (∀ (s : State) (d : DieId), exec (.configurationRequest d) s =
    .next (s.setDie d { s.die d with config := (s.die d).config ++ [s.dieA.up || s.dieA.lost || s.dieB.up || s.dieB.lost] })) ∧
  (∀ (s : State) (d : DieId) (o : Int),
    ((s.dieA.admitted = true ∨ s.dieB.admitted = true) → exec (.ptpMessage d o) s = .next s) ∧
    (s.dieA.admitted = false → s.dieB.admitted = false → 0 < o → ∃ t, exec (.ptpMessage d o) s = .next t ∧
      ∀ e, t.die e = { s.die e with dtime := (s.die e).dtime + o.toNat })) ∧
  (∀ (s : State) (d : DieId) (p : Bool),
    let k := if p then 1 else 0
    let x := s.die d
    let i := sget 0 x.gates k
    let until_ := sget 0 x.gateSince k + sget 0 x.gateList (256 * k + i) / 256
    (x.dtime < until_ → exec (.qbvGateEvent d p) s = .next s) ∧
    (until_ ≤ x.dtime → ∃ t, exec (.qbvGateEvent d p) s = .next t ∧
      sget 0 (t.die d).gates k = (i + 1) % 256 ∧ sget 0 (t.die d).gateSince k = x.dtime ∧
      sget 0 (t.die d).gates (1 - k) = sget 0 x.gates (1 - k) ∧
      sget 0 (t.die d).gateSince (1 - k) = sget 0 x.gateSince (1 - k) ∧
      t = s.setDie d { x with gates := (t.die d).gates, gateSince := (t.die d).gateSince })) ∧
  let spdm := fun (i : DieId → Instr) (code : Nat) => ∀ (s : State) (d : DieId),
    ((s.die d).up = false → exec (i d) s = .next s) ∧
    ((s.die d).up = true → ∃ t body, exec (i d) s = .next t ∧
      t = { s with freeCtr := s.freeCtr + 1 }.setDie d { s.die d with spdm := (s.die d).spdm ++ [(code, body)] })
  spdm .getVersion 0 ∧ spdm .getCapabilities 1 ∧ spdm .negotiateAlgorithms 2 ∧ spdm .getDigests 3 ∧
  spdm .getCertificate 4 ∧ spdm .challenge 5 ∧ spdm .getMeasurements 6 ∧
  ∀ (s : State) (d : DieId), (s.die d).up = true →
    (∃ t body, exec (.getVersion d) s = .next t ∧ (t.die d).spdm = (s.die d).spdm ++ [(0, toBytes 2 0x1300 ++ body)]) ∧
    (∃ t body, exec (.negotiateAlgorithms d) s = .next t ∧
      (t.die d).spdm = (s.die d).spdm ++ [(2, toBytes 4 0x10 ++ toBytes 4 1 ++ body)]) ∧
    ∃ t, exec (.getMeasurements d) s = .next t ∧
    (t.die d).spdm = (s.die d).spdm ++ [(6, (s.die d).measured.flatMap fun m => toBytes 32 m.toNat)]

/-- The host and ingest (R269, R385, R387, R388, R438): a host write stores its bytes and no others, and to an absent die is
dropped and counted; a host read completes with the bytes, and without a present home with Unsupported Request; a
CSI-2 receiver discards and counts a frame of a type that it does not accept; a frame for a full ring is dropped and
counted; one that finds its ring, buffer and granule is written and committed.
Where it rests on a choice of the model: log entries 14, 22, 68, 85. -/
def Obligations.HostAndIngest : Prop :=
  (∀ (s : State) (pa : Nat) (data : List Byte) (h : DieId), data ≠ [] → homeOf pa = some h →
    homeOf (pa + data.length - 1) = some h →
    ((s.die h).lost = false → ∃ t, exec (.hostWrite pa data) s = .next t ∧
      (∀ k, k < data.length → t.byte (pa + k) = data.getD k 0) ∧ ∀ a, (a < pa ∨ pa + data.length ≤ a) → t.byte a = s.byte a) ∧
    ((s.die h).lost = true → exec (.hostWrite pa data) s =
      .next (s.setDie (!h) { s.die (!h) with hostDropped := (s.die (!h)).hostDropped + 1 }))) ∧
  (∀ (s : State) (pa len : Nat),
    (homeOf pa = none → exec (.hostRead pa len) s = .next { s with hostIn := s.hostIn ++ [(pa, [], false)] }) ∧
    ∀ h, homeOf pa = some h → homeOf (pa + len - 1) = some h →
      ((s.die h).lost = true → exec (.hostRead pa len) s = .next { s with hostIn := s.hostIn ++ [(pa, [], false)] }) ∧
      ((s.die h).lost = false → s.poison = [] → ∃ t, exec (.hostRead pa len) s = .next t ∧
        t.hostIn = s.hostIn ++ [(pa, (List.range len).map fun k => s.byte (pa + k), true)] ∧ ∀ a, t.byte a = s.byte a)) ∧
  (∀ (s : State) (d : DieId) (k receiver channel code : Nat) (data : List Byte),
    ((4 ≤ receiver ∨ 4 ≤ channel) → ∀ ty, exec (.ingestFrame d k ⟨.csi receiver channel ty, data⟩) s = .next s) ∧
    (8 ≤ channel → ∀ port, exec (.ingestFrame d k ⟨.ethernet port channel, data⟩) s = .next s) ∧
    (receiver < 4 → channel < 4 → (s.die d).serving = true →
      exec (.ingestFrame d k ⟨.csi receiver channel (.other code), data⟩) s = .next (s.setDie d { s.die d with
        discarded := sset 0 (s.die d).discarded receiver (sget 0 (s.die d).discarded receiver + 1) }))) ∧
  ∀ (s : State) (d : DieId) (k : Nat) (src : FrameSource) (data : List Byte) (u : State) (r : Ring),
    let i : Ingest := sget ⟨0, 0, false⟩ (s.die d).ingest k
    let g := ingestAgent d (ingestTen i.desc)
    let size := ingestBufsz i.desc
    (match src with
      | .csi m c ty => m < 4 ∧ c < 4 ∧ ∀ x, ty ≠ .other x
      | .ethernet _ c => c < 8) →
    k < 24 → (s.die d).serving = true → ingestOk i.desc = true → s.frames = [] → (s.gate g (ingestRing i.desc) true).2 = false → s.ringAt g (ingestRing i.desc) = (u, .ok r) →
    r.wellShaped = true → r.orderOk = true →
    (r.cap ≤ r.claim - r.retire → ∃ t, exec (.ingestFrame d k ⟨src, data⟩) s = .next t ∧ t.mem = s.mem ∧
      sget ⟨0, 0, false⟩ (t.die d).ingest k = { i with dropped := i.dropped + 1 }) ∧
    ∀ v x y, r.claim - r.retire < r.cap →
      (u.gateAll g (ingestBuf i.desc + r.claim % r.cap * size) (min data.length size) true).2 = false →
      (u.gate g (r.base + 64 * (r.claim % r.cap)) true).2 = false →
      u.save g (ingestBuf i.desc + r.claim % r.cap * size) (data.take size) = (v, .ok ()) →
      v.save g (r.base + 64 * (r.claim % r.cap)) (frameGranule data.length (decide (size < data.length)) (v.die d).dtime) = (x, .ok ()) →
      x.putRing g (ingestRing i.desc) (commitMarks { r with claim := r.claim + 1 }
        (x.marks (x.ringKey g (ingestRing i.desc))) [r.claim]).1 r.system = (y, .ok ()) →
      ∃ t, exec (.ingestFrame d k ⟨src, data⟩) s = .next t ∧ t.mem = y.mem

/-- Memory errors, hung engines and spares (R428 to R431, R448, R453 to R455, R461, R462): PATROL counts what it
corrected and posts nothing; an error found poisons its sector with a record to tenant 0, one of these arrays that an access
meets without; one of a local array that a job meets marks its eight bytes and stops the blocks of the instance; an engine that
works and has delivered nothing for 1 ms is hung, loses its started work and has its restart counted, which marks its core at
RSTHR; a row that has reached SPTHR is spared and counted, no other is, and a vault without a spare marks its core; a marked core without a block takes a
spare or leaves service.
Where it rests on a choice of the model: log entries 65 to 67. -/
def Obligations.ErrorsAndSpares : Prop :=
  (∀ (s : State) (d : DieId) (vaults : Bool) (l : List (Nat × Nat)), ∃ t, exec (.patrol d vaults l) s = .next t ∧
    sget 0 (t.die d).corrected (if vaults then 3 else 1) = sget 0 (s.die d).corrected (if vaults then 3 else 1) + l.length ∧
    (t.die d).held = (s.die d).held ∧ t.poison = s.poison ∧ t.jobs = s.jobs ∧ ∀ a, t.byte a = s.byte a) ∧
  (∀ (s : State) (pa : Nat) (c : Bool) (h : DieId), homeOf pa = some h → (s.die h).lost = false →
    exec (.uncorrectableErrorFound pa c) s = .next (({ s with
      poison := s.poison.filter (fun e => e.1 != pa / 64) ++ [(pa / 64, [])] } : State).post h 0
        [word0 4 0 h 0xFFFF ((if c then 2 else 1) * 2 ^ 24 + 2 * 2 ^ 16), pa / 64 * 64, (s.die h).dtime] 0 0)) ∧
  (∀ (s : State) (job array core pa : Nat) (h : DieId), (array = 1 ∨ array = 2) → homeOf pa = some h → (s.die h).lost = false →
    exec (.uncorrectableErrorConsumed job array core pa) s =
      .next { s with poison := s.poison.filter (fun e => e.1 != pa / 64) ++ [(pa / 64, [])] }) ∧
  (∀ (s : State) (job core off : Nat) (b : Block) (j : Job) (i : Inst), s.blocks = [b] → b.job = job → b.halted = false →
    b.cluster * 4 + b.base ≤ core → core < b.cluster * 4 + b.base + kdSpan b.kd → core < 48 →
    s.job? job = some j → j.gone = false → j.inst? b.inst = some i → j.batch = none → j.mayKill = true → i.switched = false →
    i.rollbacks < 3 → j.windows = [] → s.terr j.die j.tenant = 0 → s.terr j.die 0 = 0 →
    ∃ t, exec (.uncorrectableErrorConsumed job 4 core off) s = .next t ∧
      scratchPhys b.die core off / 8 ∈ t.bad ∧ ∀ c ∈ t.blocks, c.halted = true) ∧
  (∀ (s : State) (d : DieId) (core : Nat),
    let works := ∃ c ∈ s.copies, c.die = d ∧ c.core = core ∧ c.started = true ∧ s.copyHeld c = false
    let last := (alook core (s.die d).worked).getD 0
    let l := (s.die d).restarts ++ [(core, (s.die d).dtime)]
    let due := (s.die d).tcsrAt 0x112 ≠ 0 ∧ (s.die d).tcsrAt 0x112 ≤ inDay l core (s.die d).dtime
    ((¬ works ∨ (s.die d).dtime < last + 1000000) → exec (.engineHung d (.copy core)) s = .next s) ∧
    (works → last + 1000000 ≤ (s.die d).dtime →
      ∃ t, exec (.engineHung d (.copy core)) s = .next t ∧
        (∀ c ∈ t.copies, ¬ (c.die = d ∧ c.core = core ∧ c.started = true)) ∧
        (due → (t.die d).restarts = l.filter (fun r => r.1 != core) ∧ core ∈ (t.die d).marked ++ (t.die d).retired) ∧
        (¬ due → (t.die d).restarts = l ∧ (t.die d).marked = (s.die d).marked))) ∧
  (∀ (s : State) (d : DieId) (vault row : Nat), vault < 48 → (s.die d).rowDue vault row = true →
    ∃ t, exec (.vaultRowSpare d vault row) s = .next t ∧
      if sparesLeft d vault (sget 0 (s.die d).rowsSpared vault) = true
      then sget 0 (t.die d).rowsSpared vault = sget 0 (s.die d).rowsSpared vault + 1 ∧ (t.die d).rowDue vault row = false
      else vault ∈ (t.die d).marked ++ (t.die d).retired ∧ (t.die d).rowsSpared = (s.die d).rowsSpared) ∧
  (∀ (s : State) (d : DieId) (vault row : Nat), vault < 48 → (s.die d).rowDue vault row = false → s.bad = [] →
    exec (.vaultRowSpare d vault row) s = .next s) ∧
  ∀ (s : State) (d : DieId) (core : Nat),
    (((s.die d).marked.contains core = false ∨ ∃ b ∈ s.blocks, b.spans d core = true) → exec (.coreSpare d core) s = .next s) ∧
    ((s.die d).marked.contains core = true → (∀ b ∈ s.blocks, b.spans d core = false) →
      ∃ t, exec (.coreSpare d core) s = .next t ∧ core ∉ (t.die d).marked ∧
        if (s.die d).spares.length < 4 then (t.die d).spares = (s.die d).spares ++ [(core, (s.die d).spares.length)] ∧
          sget 0 (t.die d).rowsSpared core = 0 ∧ ∀ e ∈ (t.die d).dpCount ++ (t.die d).restarts, e.1 ≠ core
        else core ∈ (t.die d).retired)

/-! ## The copy engine and the traversal unit -/

/-- The copy engine (R212 to R225). Position x of row r of plane p of a command lies at the base plus the strides, and
a command has XLEN × rows × planes positions, a PUBLISH none (R214). An unstarted command that may not start waits;
one with a failing field faults its job with the field's low bit; the last piece of a COPY, MULTICAST or STORE writes
the bytes that its source holds at every destination, that of a FEED joins its run, which closes; a PUBLISH switches
its window. A byte credit adds the bytes delivered to its armed barrier, or parks them for an unarmed one; a command
with every byte and credit done, and no remote write outstanding, leaves, and its PUSH has one part less.
Where it rests on a choice of the model: log entries 9, 23, 30. -/
def Obligations.CopyEngineEvents : Prop :=
  (∀ (c : CopyCmd) (p r x : Nat), x < c.xlen → r < c.rows → p < c.planes →
     let i := (p * c.rows + r) * c.xlen + x
     (c.opc ≠ 4 → i < c.total) ∧
     c.srcAt i = (((c.src : Int) + p * signedOf 32 (c.field 319 288) + r * signedOf 32 (c.field 287 256) + x) % 2 ^ 64).toNat ∧
     c.dstAt i = (((c.dst : Int) + p * signedOf 32 (c.field 383 352) + r * signedOf 32 (c.field 351 320) + x) % 2 ^ 64).toNat) ∧
  (let ev := fun (c : CopyCmd) => if c.opc = 1 then Instr.multicast c.die c.core c.block
     else if c.opc = 2 then Instr.feed c.die c.core c.block
     else if c.opc = 3 then Instr.store c.die c.core c.block
     else if c.opc = 4 then Instr.copyEnginePublish c.die c.core c.block else Instr.copy c.die c.core c.block
   let only := fun (s : State) (b : Block) (c : CopyCmd) => s.block? c.block = some b ∧ s.copiesOf c.die c.core c.block = [c]
   let oneLess := fun (w v : Warp) (id : Nat) => ∀ o ∈ v.ops, o.id = id → ∃ q ∈ w.ops, q.id = id ∧ q.cls = o.cls ∧ o.left = q.left - 1
   (∀ s b c j, only s b c → c.started = false → s.job? b.job = some j →
     (s.mayStart b c = false → exec (ev c) s = .next s) ∧
     ∀ bit, s.mayStart b c = true → s.copyError b j c = some bit → exec (ev c) s = .next (s.commandError b c 1 bit)) ∧
   (∀ s b c u y bs, only s b c → c.started = true → c.opc < 4 → c.opc ≠ 2 → c.moved < c.total → s.copyHeld c = false → c.snap = [] →
     c.pieceAt c.moved = c.total - c.moved → (∀ h, s.copyRemote c = some h → s.tagHeld c.die h.1 = false) →
     let g := s.copyAgent c c.spos
     s.gate g (c.srcAt c.moved) false = (s, false) → (c.opc = 1 ∨ s.gate g (c.dstAt c.moved) true = (s, false)) →
     s.load g (c.srcAt c.moved) (c.total - c.moved) = (u, .ok bs) →
     u.copyPut c (c.dstAt c.moved) bs (if c.opc = 1 then c.targets else [c.spos]) = (y, .ok ()) →
     ∃ t, exec (ev c) s = .next t ∧ t.mem = y.mem ∧ ∀ d ∈ t.copies, d.id = c.id → d.moved = c.total) ∧
   (∀ s b c u bs, only s b c → c.started = true → c.opc = 2 → c.moved < c.total → s.copyHeld c = false → c.snap = [] →
     c.pieceAt c.moved = c.total - c.moved →
     let g := s.copyAgent c c.spos
     let f := b.fifo (fifoKey c.spos c.fifo)
     s.gate g (c.srcAt c.moved) false = (s, false) →
     s.load g (c.srcAt c.moved) (c.total - c.moved) = (u, .ok bs) → u.block? c.block = some b →
     (∀ r ∈ f.runs, ¬ (r.feed = true ∧ r.id = c.id)) →
     ∃ t, exec (.feed c.die c.core c.block) s = .next t ∧
       t.block? c.block = some (b.setFifo (fifoKey c.spos c.fifo) { f with runs := f.runs ++ [⟨true, c.id, c.who, bs, true⟩] }) ∧
       ∀ a, t.byte a = u.byte a) ∧
   (∀ s b c j w, only s b c → c.started = false → c.opc = 4 → s.job? b.job = some j → s.mayStart b c = true →
     s.copyError b j c = none → s.warp? c.who = some w →
     ∃ t j' v, exec (.copyEnginePublish c.die c.core c.block) s = .next t ∧ t.job? b.job = some j' ∧
       j'.windows.length = j.windows.length ∧
       (∀ k x, j.windows[k]? = some x → j'.windows[k]? = some (if k = c.src % 256
         then { x with pub := !x.pub, undo := x.undo.filter fun e => e.1 != b.inst } else x)) ∧
       (∀ d ∈ t.copies, d.id ≠ c.id) ∧ t.warp? c.who = some v ∧ oneLess w v c.op ∧ ∀ a, t.byte a = s.byte a) ∧
   (∀ (s : State) (id spos : Nat) (c : CopyCmd) (b : Block), s.copies.find? (fun d => d.id == id) = some c → s.block? c.block = some b →
     c.started = true → c.sigv = true → spos ∈ c.targets → c.creditedAt spos < s.delivered c → c.stuck = none → b.halted = false →
     s.badIn (barrierKey b.handle spos c.sig) 16 = false →
     let n := min 512 (s.delivered c - c.creditedAt spos)
     let o := s.barrier b.handle spos c.sig
     let k := barrierKey b.handle spos c.sig
     (o.armed = true → o.arrb + n < 2 ^ 32 → ∃ t, exec (.byteCredit id spos) s = .next t ∧
       (∀ i, i < 16 → t.byte (k + i) = BitVec.ofNat 8 ((Barrier.complete { o with arrb := o.arrb + n }).toNat / 256 ^ i)) ∧
       (∀ a, (a < k ∨ k + 16 ≤ a) → t.byte a = s.byte a) ∧
       ∀ d, t.copies.find? (fun e => e.id == id) = some d → d.creditedAt spos = c.creditedAt spos + n) ∧
     (o.armed = false → s.early = [] → b.overflow = [] → ∃ t, exec (.byteCredit id spos) s = .next t ∧
       t.early = [⟨b.die, b.cluster * 4 + b.base + spos, b.handle, c.sig, n⟩] ∧ ∀ a, t.byte a = s.byte a)) ∧
   ∀ (s : State) (id : Nat) (c : CopyCmd) (w : Warp), s.copies.find? (fun d => d.id == id) = some c → s.warp? c.who = some w →
     let done := c.started = true ∧ s.delivered c = c.total ∧ (∀ r ∈ s.remotes, r.cmd ≠ some id) ∧ (c.sigv = true → ∀ p ∈ c.targets, c.creditedAt p = c.total)
     (¬ done → exec (.copyCommandComplete id) s = .next s) ∧
     (done → ∃ t v, exec (.copyCommandComplete id) s = .next t ∧ t.copies = s.copies.filter (fun d => d.id != id) ∧
       t.warp? c.who = some v ∧ oneLess w v c.op))

/-- The traversal unit (R292 to R304, R309 to R320): a unit takes the first command in ring order that no earlier one of
its block and no condition holds, and no other; one with a failing field faults its job; CTXSET stores its context and
completes; RAY, CONE and FRUSTUM start a query that has captured its context, with one item at the root, or none when it
is invalid; a null reference ends an item, a misaligned one with the map error; a node is read in pieces; of an inner node
whose boxes ask for no split the nearest child comes next and the others are kept in order; a user leaf gives a beam one
LEAF record; an instance is entered with its reference added to the chain; a committed record leaves its path; a query
with nothing left commits DONE and completes its PUSH; a pending continuation starts a path.
Where it rests on a choice of the model: log entries 9, 42, 43. -/
def Obligations.TraversalEvents : Prop :=
  let ev := fun (c : TravCmd) =>
    let o := (TravWord.ofBits c.word).opc
    if o = 1 then Instr.ray c.die c.cluster c.block else if o = 2 then Instr.cone c.die c.cluster c.block
    else if o = 3 then Instr.frustum c.die c.cluster c.block else Instr.ctxset c.die c.cluster c.block
  let first := fun (s : State) (b : Block) (c : TravCmd) => s.block? c.block = some b ∧ s.nextTrav c.die c.cluster = some c
  let oneLess := fun (w v : Warp) (id : Nat) => ∀ o ∈ v.ops, o.id = id → ∃ q ∈ w.ops, q.id = id ∧ q.cls = o.cls ∧ o.left = q.left - 1
  let at_ := fun (s : State) (q : Query) (p : TravPath) (i : Item) => s.query? q.id = some q ∧ q.path? p.id = some p ∧
    q.closed = false ∧ s.parks = [] ∧ p.out = [] ∧ p.spill = [] ∧ p.waiting = [] ∧ p.cur = some i
  let sees := fun (s u : State) (q : Query) (p : TravPath) (i : Item) (r : TravPath) =>
    (s.setQuery (q.setPath p)).readNode q p i 64 = (u, some r) ∧ (u.query? q.id).isSome = true ∧
      ∀ x ∈ i.needs r, (alook x.1 r.seen).isSome = true
  let now := fun (t : State) (q : Query) (p : TravPath) (mapF : Bool) => ∃ r, t.query? q.id = some r ∧ r.path? p.id = some p ∧ r.mapF = mapF
  (∀ (s : State) (c : TravCmd), s.travReady c = true ↔ ∃ b, s.block? c.block = some b ∧ b.halted = false ∧ b.cut = none ∧ s.travWait b c = true ∧
    s.entriesUsed c.die c.cluster < 256 ∧ s.contextsUsed c.die c.cluster < 256 ∧ s.unitConts c.die c.cluster = []) ∧
  (∀ (s : State) (d : DieId) (cl : Nat) (c : TravCmd), s.nextTrav d cl = some c →
    let ring := s.travQ.filter fun e => e.die == d && e.cluster == cl
    ∃ k, ring[k]? = some c ∧ s.travReady c = true ∧ ∀ j e, j < k → ring[j]? = some e → e.block ≠ c.block ∧
      (s.travReady e = false ∨ ∃ (m : Nat) (e' : TravCmd), m < j ∧ ring[m]? = some e' ∧ e'.block = e.block)) ∧
  (∀ (s : State) (d : DieId) (cl blk : Nat), (∀ c, s.nextTrav d cl = some c → c.block ≠ blk) →
    exec (.ctxset d cl blk) s = .next s ∧ exec (.ray d cl blk) s = .next s ∧ exec (.cone d cl blk) s = .next s ∧
      exec (.frustum d cl blk) s = .next s) ∧
  (∀ s b c, first s b c →
    (∀ bit, travError b c.word = some bit → exec (ev c) s = .next (s.travCommandError b c 1 bit)) ∧
    ∀ w, travError b c.word = none → s.warp? c.who = some w →
      let o := (TravWord.ofBits c.word).opc
      let k := (TravWord.ofBits c.word).ctx
      (o = 0 → ∃ t b' v, exec (ev c) s = .next t ∧ t.block? c.block = some b' ∧ sget 0 b'.ctxs k = c.word ∧
        (∀ m, m ≠ k → sget 0 b'.ctxs m = sget 0 b.ctxs m) ∧ t.travQ = s.travQ.erase c ∧
        t.warp? c.who = some v ∧ oneLess w v c.op) ∧
      (o ≠ 0 → ∃ t q, exec (ev c) s = .next t ∧ t.queries = s.queries ++ [q] ∧
        t.travQ = s.travQ.erase c ∧ q.id = s.nextId ∧ q.who = c.who ∧ q.op = c.op ∧ q.word = c.word ∧
        q.ctx = sget 0 b.ctxs k ∧ q.invalid = (startShape c.word).isNone ∧
        q.paths = [newPath 0 ((startShape c.word).map fun sh => ⟨ctxRoot (sget 0 b.ctxs k), sh, [], sh.near, 0⟩)] ∧
        ∀ a, t.byte a = s.byte a)) ∧
  (∀ s q p i, at_ s q p i → i.ref.toNat < 2 ^ 30 → ∃ t, exec (.nodeVisit q.id p.id) s = .next t ∧
    now t q { p with cur := none, seen := [] } q.mapF) ∧
  (∀ s q p i, at_ s q p i → (i.ref.toNat / 2 ^ 30 = 1 ∧ i.ref.toNat % 8 ≠ 0 ∨ i.ref.toNat / 2 ^ 30 = 2 ∧ i.ref.toNat % 2 ≠ 0) →
    ∃ t, exec (.nodeVisit q.id p.id) s = .next t ∧ now t q { p with cur := none, seen := [] } true) ∧
  (∀ (s u v : State) (q : Query) (p : TravPath) (i : Item) (o n : Nat) (bs : List Byte),
    let va := (ctxMap q.ctx + 32 * (i.ref.toNat % 2 ^ 30)) % 2 ^ 64
    s.gate (s.travAgent q) ((va + o) % 2 ^ 64) false = (u, false) →
    u.load (s.travAgent q) ((va + o) % 2 ^ 64) n = (v, .ok bs) →
    s.readPiece q p i o n = (v.setQuery (q.setPath { p with seen := p.seen ++ [(o, bs)] }), some { p with seen := p.seen ++ [(o, bs)] })) ∧
  (∀ s u q p i r, at_ s q p i → i.ref.toNat / 2 ^ 30 = 1 → i.ref.toNat % 8 = 0 → i.nest < 4096 → sees s u q p i r →
    let kept := survivors q.grid i.shape (r.node 256)
    let item := fun (c : Child) => ({ i with ref := c.ref, key := c.key, nest := i.nest + 1 } : Item)
    (kept.1 = [] → ∃ t, exec (.nodeVisit q.id p.id) s = .next t ∧ now t q { p with cur := none, seen := [] } (q.mapF || kept.2)) ∧
    ∀ c cs, kept.1 = c :: cs → (i.shape.splittable = false ∨ ∀ x ∈ kept.1, x.cls ≠ .some) → cs.length + p.stack.length ≤ 32 →
      ∃ t, exec (.nodeVisit q.id p.id) s = .next t ∧
        now t q { p with cur := some (item c), stack := cs.map item ++ p.stack, seen := [] } (q.mapF || kept.2)) ∧
  (∀ s u q p i r apex d du dv near far lg i0 j0 depth, at_ s q p i → i.ref.toNat / 2 ^ 30 = 3 →
    i.shape = .beam apex d du dv near far lg i0 j0 depth → sees s u q p i r → ofBytes ((r.node 8).take 1) = 2 → q.w.culle = false →
    ∃ t, exec (.nodeVisit q.id p.id) s = .next t ∧ now t q { p with
      cur := none
      seen := []
      out := [q.record 1 (i0 + j0 * 2 ^ 8 + lg * 2 ^ 16) (i.key.toNat + i.ref.toNat * 2 ^ 32 +
        ofBytes (((r.node 416).drop 4).take 4) * 2 ^ 64 + ofBytes (((r.node 416).drop 2).take 2) * 2 ^ 96) i.chain] } q.mapF) ∧
  (∀ s u q p i r ref, at_ s q p i → i.ref.toNat / 2 ^ 30 = 2 → i.ref.toNat % 2 = 0 → i.chain.length < 4 → sees s u q p i r →
    ref = BitVec.ofNat 32 (ofBytes (((r.node 64).drop 48).take 4)) → refType ref ≠ 0 → refBroken ref = false →
    ∃ t sh, exec (.nodeVisit q.id p.id) s = .next t ∧ sh = i.shape.transform (nodeWords (r.node 64) 0 12) ∧
      now t q { p with seen := [], cur := some { i with ref := ref, shape := sh, chain := i.chain ++ [i.ref], key := sh.near } } q.mapF) ∧
  (∀ s u q p r rest, s.query? q.id = some q → q.path? p.id = some p → p.out = r :: rest → s.parks = [] →
    s.commitRecord q r = (u, .done) → u.query? q.id = some q → ∃ t q', exec (.recordCommit q.id p.id) s = .next t ∧ t.mem = u.mem ∧
      t.query? q.id = some q' ∧ q'.path? p.id = some { p with out := rest } ∧ q'.nrec = q.nrec + 1) ∧
  (∀ s u q w, s.query? q.id = some q → q.closed = false → s.parks = [] → s.conts = [] →
    (∀ p ∈ q.paths, p.cur = none ∧ p.stack = [] ∧ p.spill = [] ∧ p.out = [] ∧ p.waiting = []) →
    s.commitRecord q q.doneRecord = (u, .done) → q.w.sigv = false → u.warp? q.who = some w → (u.block? q.block).isSome = true →
    ∃ t v, exec (.done q.id) s = .next t ∧ t.mem = u.mem ∧ t.query? q.id = none ∧ t.warp? q.who = some v ∧ oneLess w v q.op) ∧
  ∀ s d cl c q l, s.unitConts d cl = c :: l → s.contextsUsed d cl < 256 → s.query? c.query = some q →
    ∃ t q', exec (.continuationStart d cl) s = .next t ∧ t.conts = s.conts.erase c ∧ t.query? q.id = some q' ∧
      q'.paths = q.paths ++ [newPath q.nextPath (some c.item)] ∧ ∀ a, t.byte a = s.byte a

/-! ## Jobs, blocks and their timing -/

/-- Placement and its end (R26, R27, R33 to R37, R41, R351, R370, R414 to R416): with one instance in the ready queue,
a place for its next block and its cores awake, the block is placed there with fresh state and a warp at its first
instruction for each seat, or resumed from its record with the registers, paths and records of its warps; a busy
block stays, and an idle one leaves.
Where it rests on a choice of the model: log entries 9, 46. -/
def Obligations.BlocksComeAndGo : Prop :=
  let due := fun (s : State) (d : DieId) (j : Job) (i : Inst) => s.paused d = false ∧ s.serves d = true ∧ s.queue = [(j, i)] ∧
    s.heldBack j i = false ∧ j.coop = false ∧ s.job? j.id = some j ∧ j.inst? i.no = some i ∧ ∀ b ∈ s.blocks, b.order < s.nextId
  let awake := fun (s : State) (d : DieId) (x : Spot) (span : Nat) => ∀ c, x.cluster * 4 + x.base ≤ c → c < x.cluster * 4 + x.base + span →
    (s.die d).corePower c ≠ .gated ∧ ∀ at_, (s.die d).corePower c ≠ .waking at_
  (∀ s d j i x, due s d j i → s.ctxRecs = [] →
    s.chooseDie (fun _ => false) (s.launchDies j i.no) j.kd (kdSeats j.kd) = some (d, x) → awake s d x (kdSpan j.kd) →
    ∃ t b ws, exec (.blockPlace d) s = .next t ∧ t.blocks = s.blocks ++ [b] ∧ t.warps = s.warps ++ ws ∧
      b.handle = s.nextId ∧ b.job = j.id ∧ b.inst = i.no ∧ b.no = i.nextBlock ∧ b.tenant = j.tenant ∧ b.die = d ∧
      b.cluster = x.cluster ∧ b.base = x.base ∧ b.kd = j.kd ∧ b.cls = 1 ∧ b.tiles = [] ∧ b.slots = [] ∧ b.units = [] ∧ b.fifos = [] ∧
      b.streams = [] ∧ b.coming = [] ∧ b.ctxs = [] ∧ b.cull = [] ∧ b.halted = false ∧ b.cut = none ∧ b.stopReq = none ∧
      (∀ p ∈ ws, p.2.vregs = [] ∧ p.2.gregs = [] ∧ p.2.preds = [] ∧ p.2.ops = [] ∧ p.2.joins = [] ∧ p.2.step = false ∧ p.2.frozen = none ∧
        ∃ q ∈ kdSeats j.kd, p.1 = .warp s.nextId q.wid ∧ p.2.role = q.role ∧ p.2.spos = q.spos ∧ p.2.budget = q.budget ∧
          p.2.launched = q.lanes ∧ p.2.core = x.cluster * 4 + x.base + q.spos ∧
          p.2.paths = [⟨q.lanes, BitVec.ofNat 48 ((kdCode j.kd + roleEntry j.kd q.role) / 16), 0, false, false⟩]) ∧
      ∀ a, t.byte a = s.byte a) ∧
  (∀ s d j i x c, due s d j i → s.ctxRecs = [c] → c.job = j.id → c.inst = i.no → c.credits = [] → c.block.kd = j.kd →
    s.recParked d j.id i.no = false → s.chooseDie (fun _ => false) (s.launchDies j i.no) j.kd c.seats = some (d, x) →
    ∀ u, s.readRecords d j [c] = (u, true) → due u d j i → u.ctxRecs = [c] →
    u.chooseDie (fun _ => false) (u.launchDies j i.no) j.kd c.seats = some (d, x) → awake u d x (kdSpan j.kd) →
    ∃ t b ws, exec (.blockResume d) s = .next t ∧ t.blocks = u.blocks ++ [b] ∧ t.warps = u.warps ++ ws ∧ t.ctxRecs = [] ∧
      b.handle = c.block.handle ∧ b.no = c.block.no ∧ b.die = d ∧ b.cluster = x.cluster ∧ b.base = x.base ∧ b.slots = c.block.slots ∧
      b.units = c.block.units ∧ b.fifos = c.block.fifos ∧ b.ctxs = c.block.ctxs ∧ b.cull = c.block.cull ∧ b.cut = none ∧
      (∀ e, e ∈ b.tiles ↔ e ∈ c.block.tiles ∧ bitAt c.block.lmask.toNat (e.1 / 2048 % 128 / 4) = true) ∧
      (∀ p ∈ ws, ∃ q ∈ c.warps, p.1 = q.1 ∧ p.2.vregs = q.2.vregs ∧ p.2.gregs = q.2.gregs ∧ p.2.preds = q.2.preds ∧
        p.2.paths = q.2.paths ∧ p.2.joins = q.2.joins ∧ p.2.frozen = q.2.frozen ∧ p.2.hold = q.2.hold) ∧ ∀ a, t.byte a = u.byte a) ∧
  (∀ s d j i c u, due s d j i → s.ctxRecs = [c] → c.job = j.id → c.inst = i.no → s.recParked d j.id i.no = false →
    (s.planFor j i).isSome = true → (∀ p, s.planFor j i = some p → p.1.head? = some d) → s.readRecords d j [c] = (u, false) →
    exec (.blockResume d) s = .next u) ∧
  (∀ s d, s.nextPlacement d = none → exec (.blockPlace d) s = .next s ∧ exec (.blockResume d) s = .next s) ∧
  ∀ (s : State) (h : Nat) (b : Block), s.block? h = some b →
    (s.blockBusy b = true → exec (.blockResourcesReturn h) s = .next s) ∧
    (s.blockBusy b = false → ∃ t, exec (.blockResourcesReturn h) s = .next t ∧ ∀ c ∈ t.blocks, c.handle ≠ h)

/-- Admission and release (R39, R40, R341, R343, R344, R357 to R359): a ring that is not next in turn gives nothing, and
one that is gives its card a job with a number and, without waits, its release time; a released job gets instance 0, a periodic
one its next instance when its time has come; a node batch gets its job, with the node kernel's descriptor as it is read then,
and its positions leave HEAD; an instance that is not complete stays and the last complete one of an aperiodic job takes the job
with it.
Where it rests on a choice of the model: log entries 9, 50, 57. -/
def Obligations.JobsComeAndGo : Prop :=
  (∀ (s : State) (d : DieId) (ring : Nat),
    let turn := (rangeFrom ((s.die d).lastRing + 1) 64).map (· % 64)
    let ten := s.srctl d ring % 16
    let g := percAgent d ten
    ((s.paused d = true ∨ (s.die d).serving = false ∨ turn.find? (s.ringDue d) ≠ some ring) → exec (.cardAdmission d ring) s = .next s) ∧
    ∀ u1 u2 u3 y b cb kd ws, s.paused d = false → (s.die d).serving = true → turn.find? (s.ringDue d) = some ring →
      s.percStep g ring (s.srd d ring) 64 = (u1, .ok b) →
      let r := Ring.ofBytes b
      r.wellShaped = true → u1.refused g (s.srd d ring) ⟨true, true, false⟩ = false →
      r.head + 4 ≤ r.commit → u1.percSteps g ring ((List.range 4).map fun k => r.slot (r.head + k)) = (u2, .ok cb) →
      u2.checkCard g ring (word2048 cb) = (u3, .ok kd ws) → (u3.gate g (s.srd d ring) true).2 = false →
      u3.putRing g (s.srd d ring) { r with head := r.head + 4, retire := r.retire + 4 } r.system = (y, .ok ()) →
      (word2048 cb).getLsbD 32 = false → (∀ k, k < 4 → (word2048 cb).getLsbD (528 + 64 * k) = false) →
      ∃ t, exec (.cardAdmission d ring) s = .next t ∧ t.mem = y.mem ∧ (t.die d).jobNo = (y.die d).jobNo + 1 ∧ (t.die d).admitted = true ∧
        (t.die d).lastRing = ring ∧ ∃ j ∈ t.jobs, j.card = word2048 cb ∧ j.kd = kd ∧ j.windows = ws ∧ j.tenant = ten ∧ j.ring = ring ∧ j.die = d ∧
          j.no = (y.die d).jobNo.toNat ∧ j.open_ = [] ∧ j.rel = some (y.die d).dtime ∧ j.insts = [] ∧ j.nextInst = 0) ∧
  (∀ (s : State) (id : Nat) (j : Job), s.job? id = some j →
    (j.rel = none → exec (.jobRelease id) s = .next s ∧ exec (.instanceRelease id) s = .next s) ∧
    ∀ r, j.rel = some r → j.gone = false → j.cancelled = false → j.coop = false →
      let has := fun (t : State) (no at_ : Nat) => ∃ j' i, t.job? id = some j' ∧ j'.insts = j.insts ++ [i] ∧ j'.nextInst = no + 1 ∧
        i.no = no ∧ i.rel = at_ ∧ i.first = false ∧ i.remaining = j.count ∧ i.nextBlock = 0 ∧
        i.deadline = if cardField j.card 383 352 = 0 then none else some (at_ + cardField j.card 383 352)
      (j.nextInst = 0 → j.batch = none → ∃ t, exec (.jobRelease id) s = .next t ∧ has t 0 r) ∧
      (j.nextInst ≠ 0 → exec (.jobRelease id) s = .next s) ∧
      (j.nextInst ≠ 0 → j.period ≠ 0 → r + j.nextInst * j.period ≤ (s.die j.die).dtime →
        ∃ t, exec (.instanceRelease id) s = .next t ∧ has t j.nextInst (r + j.nextInst * j.period)) ∧
      ((s.die j.die).dtime < r + j.nextInst * j.period → exec (.instanceRelease id) s = .next s)) ∧
  (∀ (s : State) (d : DieId), (s.paused d = true ∨ s.serves d = false ∨ (s.unreadableRing d = none ∧ s.pickRing d = none)) →
    exec (.nodeBatch d) s = .next s) ∧
  (∀ (s u y : State) (d : DieId) (q : Nat) (r : Ring) (b : List Byte), s.paused d = false → s.serves d = true →
    s.unreadableRing d = none → s.pickRing d = some (q, r) →
    let g := percAgent d (s.qmctl d q % 16)
    let n := min 32 (min (r.commit - r.head) (r.cap - r.head % r.cap))
    (s.gate g (s.qmd d q) true).2 = false → r.wellShaped = true →
    s.percLoad g r.nodekd 256 = (u, .ok b) → kdOk (word2048 b) = true → kdBarriersOk (word2048 b) = true →
    u.putRing g (s.qmd d q) { r with head := r.head + n } r.system = (y, .ok ()) →
    ∃ t, exec (.nodeBatch d) s = .next t ∧ t.mem = y.mem ∧ ∃ j ∈ t.jobs, j.id = y.nextId ∧ j.tenant = s.qmctl d q % 16 ∧ j.kd = word2048 b ∧
      ∃ k, j.batch = some k ∧ k.die = d ∧ k.ring = q ∧ k.pos = r.head ∧ k.count = n ∧ k.dealt = false) ∧
  ∀ (s : State) (id : Nat) (j : Job), s.job? id = some j →
    ((∀ i ∈ j.insts, s.isComplete j i = false) → exec (.launchComplete id) s = .next s) ∧
    ∀ i, j.insts = [i] → s.isComplete j i = true → j.gone = false → j.period = 0 → (∀ b ∈ s.blocks, b.job ≠ id) →
      ∃ t, exec (.launchComplete id) s = .next t ∧ t.job? id = none

/-- Cuts (R399, R404 to R412, R427): a block that is not drained keeps its cut, and so does one whose instance has no budget
left; one drained within 2 µs leaves its cores with a context record that holds its warps, once its die's Percolator has
written it through tenant 0's tables; while that write waits the block stays as it is. A drain that has not ended in 2 µs, or
ended later, kills the job, or faults it.
Where it rests on a choice of the model: log entries 54, 55, 82. -/
def Obligations.CutsEndInARecord : Prop :=
  ∀ (s : State) (h : Nat) (b : Block) (k : Cut) (j : Job), s.block? h = some b → b.cut = some k → s.job? b.job = some j →
    let now := (s.die b.die).dtime
    let spent := ∃ i, j.inst? b.inst = some i ∧ s.budgetOf j ≤ s.budgetCount j i
    let b' := s.arriveAll b
    let u := s.setBlock b'
    let c := u.recordOf b' k j
    let g := percAgent b.die 0
    let inTime := u.drained b' = true ∧ ¬ spent ∧ (k.writing = true ∨ now ≤ k.since + 2000)
    ((u.drained b' = false ∨ spent) → exec (.cutDrainEnd h) s = .next u) ∧
    (inTime → s.parks = [] → (u.gateAll g c.place c.bytes.length true).2 = true →
      ∃ t, exec (.cutDrainEnd h) s = .next t ∧ t.block? h = some { b' with cut := some { k with writing := true } }) ∧
    (∀ y, inTime → s.parks = [] → j.gone = false → j.cancelled = false → (u.gateAll g c.place c.bytes.length true).2 = false →
      u.save g c.place c.bytes = (y, .ok ()) →
      ∃ t, exec (.cutDrainEnd h) s = .next t ∧ t.block? h = none ∧ c ∈ t.ctxRecs ∧ (∀ a, t.byte a = y.byte a) ∧
        c.job = b.job ∧ c.inst = b.inst ∧ c.block = b' ∧ c.owner = b.die ∧ (∀ p ∈ t.warps, ∀ wid, p.1 ≠ .warp b.handle wid) ∧
        ∀ p ∈ s.warps, (∃ wid, p.1 = .warp b.handle wid) → ∃ w, (p.1, w) ∈ c.warps ∧ w.vregs = p.2.vregs ∧ w.gregs = p.2.gregs ∧
          w.preds = p.2.preds ∧ w.paths = p.2.paths ∧ w.joins = p.2.joins ∧ w.frozen = p.2.frozen) ∧
    (u.drained b' = true → ¬ spent → k.writing = false → k.since + 2000 < now →
      (j.mayKill = true → exec (.cutDrainEnd h) s = .next (u.killInst b.job b.inst)) ∧
      (j.mayKill = false → exec (.cutDrainEnd h) s = .next (u.faultEngine b.job 3 7 0 b.no (b.cluster * 4 + b.base) 0))) ∧
    ((spent ∨ k.writing = true ∨ now < k.since + 2000 ∨ (now = k.since + 2000 ∧ s.drained b = true)) →
      exec (.drainTimeout h) s = .next s) ∧
    (¬ spent → k.writing = false → k.since + 2000 ≤ now → (now = k.since + 2000 → s.drained b = false) →
      (j.mayKill = true → exec (.drainTimeout h) s = .next (s.killInst b.job b.inst)) ∧
      (j.mayKill = false → exec (.drainTimeout h) s = .next (s.faultEngine b.job 3 7 0 b.no (b.cluster * 4 + b.base) 0)))

/-- Pre-emption and the timing exceptions (R352 to R355, R363, R419 to R426): nothing before 1 µs at the head of the
queue; then the one victim of a waiting job that may checkpoint is asked to stop; a missed deadline is recorded once, an
instance at its budget loses its blocks, an overdue block's timer restarts, a throttled window is counted; 20 µs after
the watchdog what is left of the run's commands and queries goes; a regulator window starts its counts anew.
Where it rests on a choice of the model: log entries 9, 56. -/
def Obligations.TimingExceptions : Prop :=
  (∀ (s : State) (id : Nat), (s.queue = [] ∨ ∃ x l, s.queue = x :: l ∧ (x.1.id ≠ id ∨ x.1.firstSince = none ∨
      ∃ t, x.1.firstSince = some t ∧ (s.die x.1.die).dtime < t + 1000)) → exec (.preemption id) s = .next s) ∧
  (∀ (s : State) (j v : Job) (i k : Inst) (l : List (Job × Inst)) (at_ : Nat), s.queue = (j, i) :: l → j.firstSince = some at_ →
    at_ + 1000 ≤ (s.die j.die).dtime → s.job? j.id = some j → j.inst? i.no = some i → s.victims j i = [(v, k)] →
    s.wouldFit j i s.promised = false → v.batch = none → v.drain ≤ k.estimate → v.mayCkpt = true → (∀ b ∈ s.blocks, b.passed = false) →
    ∃ t, exec (.preemption j.id) s = .next t ∧ ∀ b, s.blocks = [b] → b.job = v.id → b.inst = k.no → b.halted = false → b.cut = none →
      b.stopReq = none → t.blocks = [{ b with stopReq := some 0, stopFor := some j.id }]) ∧
  (∀ (s : State) (id : Nat) (j : Job), s.job? id = some j →
    ((∀ i ∈ j.insts, s.missed j i = false) → exec (.deadline id) s = .next s) ∧
    ∀ i, j.insts = [i] → s.missed j i = true → j.gone = false → ∃ t j', exec (.deadline id) s = .next t ∧ t.job? id = some j' ∧
      j'.insts = [{ i with ddlDone := true }]) ∧
  (∀ (s : State) (id : Nat) (j : Job), s.job? id = some j →
    ((∀ i ∈ j.insts, i.resSince = none ∨ s.budgetCount j i < s.budgetOf j) → exec (.budget id) s = .next s) ∧
    ∀ i, j.insts = [i] → i.stopped = false → i.resSince.isSome = true → s.budgetOf j ≤ s.budgetCount j i → j.gone = false →
      s.missed j i = false → s.allExited j i = false → (∀ b ∈ s.blocks, s.overdue b = false) → (∀ d c, s.throttledIn j d c = none) →
      ∃ t, exec (.budget id) s = .next t ∧ ∀ b ∈ t.blocks, b.job = id → b.inst = i.no →
        b.halted = true ∧ b.abandonAt = some (s.die b.die).dtime) ∧
  (∀ (s : State) (h : Nat) (b : Block) (j : Job), s.block? h = some b → s.job? b.job = some j →
    (s.overdue b = false → exec (.ckptovr h) s = .next s) ∧
    (s.overdue b = true → (∀ i ∈ j.insts, s.missed j i = false) → b.stopReq = none →
      ∃ t, exec (.ckptovr h) s = .next t ∧ t.block? h = some { b with ckptSince := (s.die b.die).dtime })) ∧
  (∀ (s : State) (id : Nat) (j : Job) (d : DieId) (c : Nat), s.job? id = some j →
    (s.throttledIn j d c = none → exec (.bandwidth id d c) s = .next s) ∧
    ∀ k, s.throttledIn j d c = some k → j.gone = false → (∀ i ∈ j.insts, s.missed j i = false) → (∀ b ∈ s.blocks, s.overdue b = false) →
      ∃ t j', exec (.bandwidth id d c) s = .next t ∧ t.job? id = some j' ∧ j'.bwWin = some k ∧
        if (∃ a, j.bwAt = some a ∧ k < a + 100) then j'.throttled = j.throttled + 1 ∧ j'.bwAt = j.bwAt
        else j'.throttled = 0 ∧ j'.bwAt = some k) ∧
  (∀ (s : State) (id : Nat), ∃ t, exec (.watchdogAbandon id) s = .next t ∧ (∀ a, t.byte a = s.byte a) ∧
    let due := fun (h : Nat) => ∃ b ∈ s.blocks, b.handle = h ∧ b.job = id ∧ ∃ a, b.abandonAt = some a ∧ a + 20000 ≤ (s.die b.die).dtime
    (∀ c, c ∈ t.copies ↔ c ∈ s.copies ∧ ¬ due c.block) ∧ ∀ q, q ∈ t.queries ↔ q ∈ s.queries ∧ ¬ due q.block) ∧
  ∀ (s : State) (d : DieId), exec (.regulatorWindow d) s = .next (if (s.die d).windowAt = (s.die d).dtime / 10000 then s
    else s.setDie d { s.die d with windowAt := (s.die d).dtime / 10000, regul := [] })

/-! ## Words, steps and the machine as a whole -/

/-- The decoder and the encoder agree (R49, R50, R67): a word decodes to `i` exactly when `i` passes every operand
check and the word is its encoding. No bit of a word is ignored, and none is dropped. -/
def Obligations.DecodeAndEncodeAgree : Prop :=
  ∀ (i : Instr) (w : IWord), decode w = some i ↔ i.WellFormed ∧ encode i = some w

/-- Words that the spec writes out beside their source lines, and three that fail R50: the word of all zeros, a
word with B = 9 and BI = 1, and the reserved WAITC limit 64. -/
def Obligations.WordsOfTheSpecDecode : Prop :=
  let h : Hdr := ⟨⟨false, 7⟩, ⟨false, 7⟩, 0, false⟩
  decode 0x000000642000650E2000000004040000 = some (.intAdd ⟨⟨⟨false, 1⟩, ⟨false, 7⟩, 2, false⟩, .s32, false, true, 4, 2, .imm 100⟩) ∧
  decode 0xFFFFFF000000000EE000000000000078 = some (.waitc ⟨h, 0xFF, 0xFF, 0xFF, 0⟩) ∧
  decode 0x0000000100504F0EE0004800100A0260 = some (.vpermDown ⟨h, .b32, true, 2, 0, 10, 8, .imm 1, 9⟩) ∧
  decode 0xFFFFFFE00000000E0000000000000070 = some (.bra ⟨⟨⟨false, 0⟩, ⟨false, 7⟩, 0, false⟩, 0xFFFFFFE0⟩) ∧
  decode 0x000000050000000EE00000000184007A = some (.sread ⟨h, 388, 5⟩) ∧
  decode 0x000000400680102EE000000004080080 =
    some (.ld ⟨h, .b64, ⟨.die, 1, false, .stream, 2, 0x40⟩, false, 8⟩) ∧
  decode 0x000000000005800EE0008000000000A5 = some (.push ⟨h, 1, 3, 0, 16⟩) ∧
  decode 0x000010000002000EE0000000003000B3 = some (.mld ⟨h, none, 4, 16, 0, 48⟩) ∧
  decode 0x3E8000000001C00EF8CC5000080000C0 = some (.cinit ⟨h, true, 4, some ⟨.imm 0x3E800000, 394, 396⟩⟩) ∧
  decode 0x000000020000000EE0000617080000D4 = some (.ckpt ⟨h, 388, 389, 2⟩) ∧
  decode 0x000000050000000EE0000000000000E0 = some (.trap ⟨h, 5⟩) ∧
  decode 0 = none ∧ decode 0x000000640000650EE000002404040000 = none ∧
  decode 0xFFFFFF400000000EE000000000000078 = none

/-- One step (R45, R47, R48, R50): with no turn on the agenda, the current issuer, once its stall count has elapsed, fetches
the sixteen bytes that its page maps at the program counter of its active path and, where its port is free in the cycle or a
wait of it goes on, runs what they decode to; a word that decodes to nothing takes the illegal-instruction trap; a barred
warp, one that stalls and one whose port is taken only wait. An event on the agenda runs as itself. After a step the port
counts as used in the cycle where the warp has issued, and each warp as ready or not (R46), which is all that `done` adds to what the
instruction does. The agenda is the model's own way to order turns, a log entry.
Where it rests on a choice of the model: log entries 1, 11, 12. -/
def Obligations.StepRunsTheDecodedInstruction : Prop :=
  (∀ (s : State) (i : Instr) (ts : List Turn) (t : State), s.agenda = .event i :: ts → encode i = none →
    exec i { s with agenda := ts } = .next t → step s = .next (s.ripen t)) ∧
  (∀ old t : State, ∃ l : List (Issuer × Warp), old.ripen t = { t with warps := l } ∧ l.map (·.1) = t.warps.map (·.1) ∧
    ∀ (k : Nat) (q : Issuer × Warp), l[k]? = some q → ∃ w, t.warps[k]? = some (q.1, w) ∧ { q.2 with readySince := w.readySince } = w) ∧
  (∀ (s : State) (who : Issuer) (w : Warp) (y : Bool) (t : State), ∃ l, s.usePort who w y t = { t with ports := l }) ∧
  ∀ (s : State) (who : Issuer) (w : Warp) (p : PathEntry),
    s.agenda = [] → s.cur = some who → s.warp? who = some w → w.active = some p → w.stepDue = none →
    ((s.barred who w = true ∨ s.cycle < w.notBefore) → step s = .next (s.ripen s.idle)) ∧
    ∀ (u : State) (x : Xl),
      let g := s.agentOf who w
      let pa := s.readCopy g.die x
      let word := wordOfBytes ((List.range 16).map fun k => s.byte (pa + k))
      let port := 0x41 = word.toNat % 256 ∨ 0x70 ≤ word.toNat % 256
      let free := ∀ c, alook (s.clockKey who * 32 + w.part * 2 + if port then 1 else 0) s.ports = some c → c ≠ s.cycle
      let done := fun (t : State) => s.ripen (s.usePort who w (decide port) t)
      s.barred who w = false → w.notBefore ≤ s.cycle → isLocal (p.pc.toNat * 16) = false →
      s.translate g (p.pc.toNat * 16) ⟨false, false, true⟩ = (u, some x) → s.homeGone x = none → s.poison = [] →
      s.gatePa g.tenant (s.asks g (p.pc.toNat * 16) false ⟨false, false, true⟩) = (s, false) →
      ∃ t : State, t.warps = s.warps ∧ t.cur = s.cur ∧ t.mem = s.mem ∧ t.blocks = s.blocks ∧ t.cycle = s.cycle ∧
        ((w.heldAt ≠ none ∨ free) →
          (∀ i v, decode word = some i → exec i t = .next v → step s = .next (done v)) ∧
          (decode word = none → step s = .next (done (t.takeTrap who 0x01 p.mask 0 p.pc)))) ∧
        (w.heldAt = none → ¬ free → step s = .next (s.ripen t.idle))

/-- What stands against a form at issue. A barred warp holds, and so do a warp whose stall count has not elapsed (R47), a
form that would write a register with an unwritten result or read one with an interlocked result (R62, R63), and one whose
counter is full (R64): `regs` are the registers read and written and the counter of each form of a family named here. A form
that nothing of this holds takes the illegal-instruction trap and has no other effect where it fails an operand check
(R50), its issuer may not execute it (R69), or it names a lane register at or above the budget (R30).
Where it rests on a choice of the model: log entry 11. -/
def Obligations.FormsThatMayNotIssueTrapOrHold : Prop :=
  ∀ (s : State) (who : Issuer) (w : Warp) (p : PathEntry),
    s.cur = some who → s.warp? who = some w → w.active = some p →
    let trap := fun (i : Instr) => exec i s = .next (s.takeTrap who 0x01 p.mask 0 p.pc)
    let hold := fun (i : Instr) => exec i s = .next s.idle
    let regs := fun (i : Instr) (rd wr : List Nat) (ctr : Option Ctr) =>
      ((∃ q ∈ w.pend, ∃ r ∈ q.regs, r ∈ wr ∨ (q.locked = true ∧ r ∈ rd)) → hold i) ∧
      ((∃ c, ctr = some c ∧ 63 ≤ w.counter c) → hold i) ∧
      (s.barred who w = false → w.notBefore ≤ s.cycle → (∀ q ∈ w.pend, ∀ r ∈ q.regs, r ∉ wr ∧ (q.locked = true → r ∉ rd)) →
        (∀ c, ctr = some c → w.counter c < 63) → (∃ r ∈ rd ++ wr, r < 384 ∧ w.budget ≤ r) → trap i)
    let rdA := fun (sp : Bool) (a : Reg) => span (if sp then 1 else 2) a
    let atom := fun (i : AtomOp → Instr) (cas : Bool) => ∀ x : AtomOp, regs (i x)
      (rdA x.x.sp x.x.a ++ span x.ty.regs x.b ++ if cas then span x.ty.regs x.c else []) (span x.ty.regs x.d) (some .ld)
    let red := fun (i : RedOp → Instr) => ∀ x : RedOp, regs (i x) (rdA x.x.sp x.x.a ++ span x.ty.regs x.b) [] (some .st)
    let int := fun (i : IntBin → Instr) => ∀ x : IntBin,
      regs (i x) (span x.ty.regs x.a ++ spanB x.ty.regs x.b) (span x.ty.regs x.d) none
    let flt := fun (i : Flt2 → Instr) => ∀ x : Flt2,
      regs (i x) (span x.ty.regs x.a ++ spanB x.ty.regs x.b) (span x.ty.regs x.d) none
    let mma := fun (i : MmaOp → Instr) => ∀ x : MmaOp, regs (i x) [] [] (some .tl)
    let mmov := fun (x : MmovOp) => rangeFrom x.r.toNat (2 ^ x.nc.toNat)
    (∀ (i : Instr) (f : Fields), encodeFields i = some f →
      (s.barred who w = true → hold i) ∧ (s.cycle < w.notBefore → hold i) ∧
      (s.barred who w = false → w.notBefore ≤ s.cycle → w.pend = [] → (∀ c, w.counter c < 63) →
        (¬ i.WellFormed ∨
          ((f.op = 0xE3 ∨ f.op = 0xE4) ∧ ∃ blk wid, who = .warp blk wid) ∨
          ((0xB0 ≤ f.op.toNat ∧ f.op.toNat < 0xD0 ∨ f.op = 0xA7 ∨ f.op = 0xD2 ∨ f.op = 0xD3 ∨ f.op = 0xD4) ∧
            ∃ q, who = .seq q)) → trap i)) ∧
    (int .intAdd ∧ int .intAddc ∧ int .intSub ∧ int .intSubb ∧ int .intMin ∧ int .intMax) ∧
    (∀ x : MovOp, regs (.mov x) (spanB x.ty.regs x.b) (span x.ty.regs x.d) none) ∧
    (∀ x : SetpCmp, regs (.setpCmp x) (span x.ty.regs x.a ++ spanB x.ty.regs x.b) [] none) ∧
    (flt .farithAdd ∧ flt .farithSub ∧ flt .farithMul ∧ flt .darithAdd ∧ flt .darithSub ∧ flt .darithMul) ∧
    (∀ x : CvtOp, regs (.cvtF2f x) (span x.lt.regs x.a) (span x.ty.regs x.d) none) ∧
    (∀ x : Typed1, regs (.umovFirst x) (span x.ty.regs x.a) (span x.ty.regs x.d) none) ∧
    (∀ x : AOnly, regs (.brx x) (span 2 x.a) [] none) ∧
    (∀ x : LdOp, regs (.ld x) (rdA x.x.sp x.x.a) (span x.ty.regs x.d) (some .ld)) ∧
    (∀ x : StOp, regs (.st x) (rdA x.x.sp x.x.a ++ span x.ty.regs x.b) [] (some .st)) ∧
    (atom .atomAdd false ∧ atom .atomMin false ∧ atom .atomMax false ∧ atom .atomAnd false ∧ atom .atomOr false ∧
      atom .atomXor false ∧ atom .atomXchg false ∧ atom .atomCas true) ∧
    (red .redAdd ∧ red .redMin ∧ red .redMax ∧ red .redAnd ∧ red .redOr ∧ red .redXor) ∧
    (∀ x : PublishOp, regs (.publish x) [] [] (some .cp)) ∧
    (∀ x : PushOp, regs (.push x) ((if x.tgt = 0 then span 2 x.a else []) ++ span 16 x.c) [] (some .cp)) ∧
    (mma .mmaM32N32K64 ∧ mma .mmaM32N64K64 ∧ mma .mmaM32N16K128 ∧ mma .mmaM32N32K32 ∧ mma .mmaM32N64K32 ∧
      mma .mmaM32N32K128 ∧ mma .mmaM32N32K8) ∧
    (∀ x : MmovOp, regs (.mld x) [] (mmov x) (some .tl)) ∧ (∀ x : MmovOp, regs (.mst x) (mmov x) [] (some .tl)) ∧
    ∀ x : CreadOp, regs (.cread x) [x.a.toNat] (rangeFrom x.d.toNat 8) (some .tl)

/-- Single stepping (R403, R164): NOP and MOV retire and then trap with cause 0x0B, their lanes and their own PC, and
what is frozen stands past them. A step trap that is due is taken before the warp issues again; it waits while the
stepped instruction's own results are unwritten or an access of its own stands before a replayable fault, and for
no other access of the warp.
Where it rests on a choice of the model: log entry 11. -/
def Obligations.SingleStepTraps : Prop :=
  ∀ (s : State) (blk wid : Nat) (w : Warp) (p : PathEntry) (b : Block),
    let who : Issuer := .warp blk wid
    s.cur = some who → s.warp? who = some w → w.active = some p → s.barred who w = false → w.notBefore ≤ s.cycle →
    s.block? blk = some b → w.frozen = none → kdTrapv b.kd = true →
    let stepped := fun (i : Instr) (h : Hdr) (regs : Warp → Prop) =>
      ∃ t v, exec i s = .next t ∧ t.warp? who = some v ∧
        v.frozen = some ⟨(List.range 7).map fun k => w.word (384 + k) 0, true, (w.advance p).paths, w.joins⟩ ∧
        v.step = false ∧ v.word 384 0 = w.activeLanes p h ∧ v.word 385 0 = 0x0B ∧ v.word 386 0 = 0 ∧ v.word 387 0 = 0 ∧
        v.word 389 0 = BitVec.ofNat 32 (p.pc.toNat * 16) ∧ v.word 390 0 = BitVec.ofNat 32 (p.pc.toNat * 16 / 2 ^ 32) ∧
        regs v ∧ ∀ a, t.byte a = s.byte a
    (w.step = true → w.pend = [] →
      (∀ x : Bare, (Instr.nop x).WellFormed → stepped (.nop x) x.h fun v => ∀ r L, r < 384 → v.word r L = w.word r L) ∧
      ∀ x : MovOp, (Instr.mov x).WellFormed →
        (∀ r ∈ spanB x.ty.regs x.b ++ span x.ty.regs x.d, 384 ≤ r ∨ r < w.budget) →
        stepped (.mov x) x.h fun v => ∀ i L, L < 32 → i < x.ty.regs → v.word (x.d.toNat + i) L =
          if (w.activeLanes p x.h).getLsbD L then wordAt (w.srcB x.ty x.b L) i else w.word (x.d.toNat + i) L) ∧
    ∀ (m : Mask) (pc : Pc), s.agenda = [] → w.stepDue = some (m, pc) →
      let waits := (∃ q ∈ w.pend, q.id = w.stepOf ∧ q.locked = true) ∨
        ∃ a ∈ s.accs, a.who = who ∧ a.id = w.stepOf ∧ ∃ l ∈ a.lanes, s.wouldPark a l = true
      (waits → step s = .next (s.ripen s.idle)) ∧ (¬ waits → step s = .next (s.ripen (s.takeTrap who 0x0B m 0 pc)))

/-- The datapath check (R115), stated of ADD, SUB and MUL of a scalar floating type: a soft error that inverts bits
of one lane's result lands when the shadow unit passes the struck result; otherwise the warp takes the trap of
cause 0x08 with that lane, before anything is written, and the check of a compute warp counts against its core. That State lists
the soft errors to come is the model's input.
Where it rests on a choice of the model: log entry 8. -/
def Obligations.DatapathCheckTrapsBeforeTheWrite : Prop :=
  let two := fun (i : Flt2 → Instr) (g : Rm → Fv → Fv → Fv) =>
    ∀ (x : Flt2) (s : State) (who : Issuer) (w : Warp) (p : PathEntry) (L flip : Nat),
      let rd := span x.ty.regs x.a ++ spanB x.ty.regs x.b
      let elem := fun u => x.ty.ffmt.decode (u % 2 ^ x.ty.ffmt.bits)
      let right := x.ty.ffmt.encode x.rm false (g x.rm (elem (w.src x.ty x.a L)) (elem (w.srcB x.ty x.b L)))
      let struck := right ^^^ flip % 2 ^ x.ty.ffmt.bits
      x.ty.isPacked = false → (i x).WellFormed → s.CanIssue .shared rd (span x.ty.regs x.d) none who w p →
      w.stepping = false → s.upsets = [.lane who L flip] → (w.activeLanes p x.h).getLsbD L = true →
      (passesFlt x.ty.ffmt right struck = true →
        ∃ t v, exec (i x) s = .next t ∧ t.warp? who = some v ∧ v.group x.ty.regs x.d.toNat L = struck ∧ t.upsets = []) ∧
      (passesFlt x.ty.ffmt right struck = false →
        exec (i x) s = .next ((match who with
            | .warp .. => ({ s with upsets := [] } : State).countCheck (s.dieOf who) w.core 1
            | .seq _ => ({ s with upsets := [] } : State)).takeTrap who 0x08 (BitVec.ofNat 32 (2 ^ L)) 0 p.pc))
  two .farithAdd Fv.add ∧ two .farithSub Fv.sub ∧ two .farithMul (fun _ a b => a.mul b) ∧
  two .darithAdd Fv.add ∧ two .darithSub Fv.sub ∧ two .darithMul (fun _ a b => a.mul b)

/-- No step stops: from every state the machine goes on to a next state. Every trap, fault and refusal that the spec
describes is an effect on the state.
Where it rests on a choice of the model: log entries 1, 7, 9. -/
def Obligations.EveryStepGoesOn : Prop :=
  ∀ s : State, ∃ t, step s = .next t

/-- Every step keeps the memory in its canonical form: addresses strictly rising, no entry that reads as an
unlisted address does. -/
def Obligations.EveryStepKeepsTheMemoryCanonical : Prop :=
  ∀ s t : State, s.MemOk → step s = .next t → t.MemOk

/-- The state after reset: TCTL reads 0 (R336); SPTHR, DPTHR and RSTHR read 64, 4 and 3; device time is 0 (R378); no
warp, job or block is there, memory lists nothing and is canonical, and nothing issues before the Trivet has
booted the dies.
Where it rests on a choice of the model: log entries 2, 3. -/
def Obligations.ResetLeavesTheSpecsValues : Prop :=
  (∀ d t, t < 16 → State.reset.csr d (0x100 + 16 * t) = 0) ∧
  (∀ d, (State.reset.die d).tcsrAt 0x110 = 64 ∧ (State.reset.die d).tcsrAt 0x111 = 4 ∧
    (State.reset.die d).tcsrAt 0x112 = 3 ∧ (State.reset.die d).dtime = 0 ∧ (State.reset.die d).up = false) ∧
  State.reset.warps = [] ∧ State.reset.jobs = [] ∧ State.reset.blocks = [] ∧ State.reset.cur = none ∧
  State.reset.MemOk ∧ (∀ a, State.reset.byte a = 0) ∧ step State.reset = .next State.reset.idle

end
end

