-- ==== Sys2Proof/Laws/Code.lean ====
section
/-! SUPPORT. The decoder's pieces undo the encoder's: every code table, every group of MOD and IMM32 bits, every
instruction shape, and the sixteen bytes' fields. -/

namespace Sys2Proof

open BitVec

set_option linter.unusedSimpArgs false

/-! ## Code tables -/

@[simp] theorem LTy.ofCode_code (x : LTy) : LTy.ofCode x.code = some x := by cases x <;> rfl

@[simp] theorem Fmt.ofCode_code (x : Fmt) : Fmt.ofCode x.code = some x := by cases x <;> rfl

@[simp] theorem Rm.ofCode_code (x : Rm) : Rm.ofCode x.code = some x := by cases x <;> rfl

@[simp] theorem Hint.ofCode_code (x : Hint) : Hint.ofCode x.code = some x := by cases x <;> rfl

@[simp] theorem Scope.ofCode_code (x : Scope) : Scope.ofCode x.code = some x := by cases x <;> rfl


@[simp] theorem unitOf_bits (u : UnitSel) : unitOf (unitBits u) = some u := by
  rcases u with _ | m
  · rfl
  · revert m; decide

/-! ## Bits of a concatenation -/

/-- Bits that lie in the low part. -/
theorem extractLsb'_append_low {v w k n : Nat} (x : BitVec v) (y : BitVec w) (h : k + n ≤ w) :
    (x ++ y).extractLsb' k n = y.extractLsb' k n := by
  ext i hi
  simp only [getElem_extractLsb', getLsbD_append]
  rw [if_pos (by omega)]

/-- Bits that lie in the high part. -/
theorem extractLsb'_append_high {v w k n : Nat} (x : BitVec v) (y : BitVec w) (h : w ≤ k) :
    (x ++ y).extractLsb' k n = x.extractLsb' (k - w) n := by
  ext i hi
  simp only [getElem_extractLsb', getLsbD_append]
  rw [if_neg (by omega)]
  congr 1
  omega

theorem extractLsb'_whole {w : Nat} (x : BitVec w) : x.extractLsb' 0 w = x := by
  ext i hi
  simp

theorem getLsbD_ofBool_zero (b : Bool) : (BitVec.ofBool b).getLsbD 0 = b := by cases b <;> rfl

theorem Fields.srcB_setB (f : Fields) (b : SrcB) (h : f.bi = false) : (f.setB b).srcB = b := by
  cases b <;> simp [Fields.srcB, Fields.setB, h]

@[simp] theorem Fields.setB_op (f : Fields) (b : SrcB) : (f.setB b).op = f.op := by cases b <;> rfl
@[simp] theorem Fields.setB_fn (f : Fields) (b : SrcB) : (f.setB b).fn = f.fn := by cases b <;> rfl
@[simp] theorem Fields.setB_d (f : Fields) (b : SrcB) : (f.setB b).d = f.d := by cases b <;> rfl
@[simp] theorem Fields.setB_a (f : Fields) (b : SrcB) : (f.setB b).a = f.a := by cases b <;> rfl
@[simp] theorem Fields.setB_c (f : Fields) (b : SrcB) : (f.setB b).c = f.c := by cases b <;> rfl
@[simp] theorem Fields.setB_e (f : Fields) (b : SrcB) : (f.setB b).e = f.e := by cases b <;> rfl
@[simp] theorem Fields.setB_ch (f : Fields) (b : SrcB) : (f.setB b).ch = f.ch := by cases b <;> rfl
@[simp] theorem Fields.setB_ty (f : Fields) (b : SrcB) : (f.setB b).ty = f.ty := by cases b <;> rfl
@[simp] theorem Fields.setB_cc (f : Fields) (b : SrcB) : (f.setB b).cc = f.cc := by cases b <;> rfl
@[simp] theorem Fields.setB_mod (f : Fields) (b : SrcB) : (f.setB b).mod = f.mod := by cases b <;> rfl
@[simp] theorem Fields.setB_g1i (f : Fields) (b : SrcB) : (f.setB b).g1i = f.g1i := by cases b <;> rfl
@[simp] theorem Fields.setB_g1n (f : Fields) (b : SrcB) : (f.setB b).g1n = f.g1n := by cases b <;> rfl
@[simp] theorem Fields.setB_g2i (f : Fields) (b : SrcB) : (f.setB b).g2i = f.g2i := by cases b <;> rfl
@[simp] theorem Fields.setB_g2n (f : Fields) (b : SrcB) : (f.setB b).g2n = f.g2n := by cases b <;> rfl
@[simp] theorem Fields.setB_sc (f : Fields) (b : SrcB) : (f.setB b).sc = f.sc := by cases b <;> rfl
@[simp] theorem Fields.setB_yl (f : Fields) (b : SrcB) : (f.setB b).yl = f.yl := by cases b <;> rfl

theorem BarIx.ofBits_bits (x : BarIx) :
    (if x.bits.getLsbD 8 = true then BarIx.reg x.areg else .bidx (x.bits.extractLsb' 0 8)) = x := by
  cases x with
  | reg a => simp [BarIx.bits, BarIx.areg]
  | bidx i =>
    simp (disch := decide) only [BarIx.bits, extractLsb'_append_low, extractLsb'_whole, getLsbD_append]
    rfl

theorem bfmtOf_bits (x : Option Fmt) : bfmtOf ((bfmtBits x).getLsbD 5) ((bfmtBits x).extractLsb' 0 5) = some x := by
  cases x with
  | none => rfl
  | some f => cases f <;> rfl

/-! ## The fields of a word -/

theorem Fields.ofWord_toWord (f : Fields) : Fields.ofWord f.toWord = f := by
  rcases f with ⟨op, fn, d, a, b, c, e, g1i, g1n, g2i, g2n, ch, ty, cc, bi, mod, sc, yl, imm⟩
  simp (disch := decide) only [Fields.ofWord, Fields.toWord, extractLsb'_append_low, extractLsb'_append_high, extractLsb'_whole,
    getLsbD_append, getLsbD_ofBool_zero, Nat.reduceSub, Nat.reduceLT, if_true, if_false]

/-! ## Instruction shapes -/

theorem IntBin.parse_enc (op fn : BitVec 8) (x : IntBin) : IntBin.parse (IntBin.enc op fn x) = some x := by
  simp (disch := first | decide | rfl) only [IntBin.parse, IntBin.enc, getLsbD_zero, Bool.false_eq_true, Fields.srcB_setB, Fields.setB_d, Fields.setB_a, Fields.setB_c, Fields.setB_e, Fields.setB_ty, Fields.setB_cc, Fields.setB_mod, Fields.setB_g1i, Fields.setB_g1n, Fields.setB_g2i, Fields.setB_g2n, Fields.setB_sc, Fields.setB_yl, Option.bind_eq_bind, Option.bind_some, Nat.reduceSub, Nat.reduceLT, if_true, if_false, Fields.base, Fields.hdr, Fields.acc, Fields.barIx, mod1, PredDst.bits, Acc.modBits, BarIx.ofBits_bits, bfmtOf_bits, extractLsb'_append_low, extractLsb'_append_high, extractLsb'_whole, getLsbD_append, getLsbD_ofBool_zero, LTy.ofCode_code, Fmt.ofCode_code, Rm.ofCode_code, Hint.ofCode_code, Scope.ofCode_code, unitOf_bits]

theorem IntBin.enc_op (op fn : BitVec 8) (x : IntBin) : (IntBin.enc op fn x).op = op ∧ (IntBin.enc op fn x).fn = fn := ⟨Fields.setB_op _ _, Fields.setB_fn _ _⟩

theorem IntUn.parse_enc (op fn : BitVec 8) (x : IntUn) : IntUn.parse (IntUn.enc op fn x) = some x := by
  simp (disch := first | decide | rfl) only [IntUn.parse, IntUn.enc, getLsbD_zero, Bool.false_eq_true, Fields.srcB_setB, Fields.setB_d, Fields.setB_a, Fields.setB_c, Fields.setB_e, Fields.setB_ty, Fields.setB_cc, Fields.setB_mod, Fields.setB_g1i, Fields.setB_g1n, Fields.setB_g2i, Fields.setB_g2n, Fields.setB_sc, Fields.setB_yl, Option.bind_eq_bind, Option.bind_some, Nat.reduceSub, Nat.reduceLT, if_true, if_false, Fields.base, Fields.hdr, Fields.acc, Fields.barIx, mod1, PredDst.bits, Acc.modBits, BarIx.ofBits_bits, bfmtOf_bits, extractLsb'_append_low, extractLsb'_append_high, extractLsb'_whole, getLsbD_append, getLsbD_ofBool_zero, LTy.ofCode_code, Fmt.ofCode_code, Rm.ofCode_code, Hint.ofCode_code, Scope.ofCode_code, unitOf_bits]

theorem IntUn.enc_op (op fn : BitVec 8) (x : IntUn) : (IntUn.enc op fn x).op = op ∧ (IntUn.enc op fn x).fn = fn := ⟨rfl, rfl⟩

theorem Typed2.parse_enc (op fn : BitVec 8) (x : Typed2) : Typed2.parse (Typed2.enc op fn x) = some x := by
  simp (disch := first | decide | rfl) only [Typed2.parse, Typed2.enc, getLsbD_zero, Bool.false_eq_true, Fields.srcB_setB, Fields.setB_d, Fields.setB_a, Fields.setB_c, Fields.setB_e, Fields.setB_ty, Fields.setB_cc, Fields.setB_mod, Fields.setB_g1i, Fields.setB_g1n, Fields.setB_g2i, Fields.setB_g2n, Fields.setB_sc, Fields.setB_yl, Option.bind_eq_bind, Option.bind_some, Nat.reduceSub, Nat.reduceLT, if_true, if_false, Fields.base, Fields.hdr, Fields.acc, Fields.barIx, mod1, PredDst.bits, Acc.modBits, BarIx.ofBits_bits, bfmtOf_bits, extractLsb'_append_low, extractLsb'_append_high, extractLsb'_whole, getLsbD_append, getLsbD_ofBool_zero, LTy.ofCode_code, Fmt.ofCode_code, Rm.ofCode_code, Hint.ofCode_code, Scope.ofCode_code, unitOf_bits]

theorem Typed2.enc_op (op fn : BitVec 8) (x : Typed2) : (Typed2.enc op fn x).op = op ∧ (Typed2.enc op fn x).fn = fn := ⟨Fields.setB_op _ _, Fields.setB_fn _ _⟩

theorem Typed3.parse_enc (op fn : BitVec 8) (x : Typed3) : Typed3.parse (Typed3.enc op fn x) = some x := by
  simp (disch := first | decide | rfl) only [Typed3.parse, Typed3.enc, getLsbD_zero, Bool.false_eq_true, Fields.srcB_setB, Fields.setB_d, Fields.setB_a, Fields.setB_c, Fields.setB_e, Fields.setB_ty, Fields.setB_cc, Fields.setB_mod, Fields.setB_g1i, Fields.setB_g1n, Fields.setB_g2i, Fields.setB_g2n, Fields.setB_sc, Fields.setB_yl, Option.bind_eq_bind, Option.bind_some, Nat.reduceSub, Nat.reduceLT, if_true, if_false, Fields.base, Fields.hdr, Fields.acc, Fields.barIx, mod1, PredDst.bits, Acc.modBits, BarIx.ofBits_bits, bfmtOf_bits, extractLsb'_append_low, extractLsb'_append_high, extractLsb'_whole, getLsbD_append, getLsbD_ofBool_zero, LTy.ofCode_code, Fmt.ofCode_code, Rm.ofCode_code, Hint.ofCode_code, Scope.ofCode_code, unitOf_bits]

theorem Typed3.enc_op (op fn : BitVec 8) (x : Typed3) : (Typed3.enc op fn x).op = op ∧ (Typed3.enc op fn x).fn = fn := ⟨Fields.setB_op _ _, Fields.setB_fn _ _⟩

theorem Dot4.parse_enc (op fn : BitVec 8) (x : Dot4) : Dot4.parse (Dot4.enc op fn x) = some x := by
  simp (disch := first | decide | rfl) only [Dot4.parse, Dot4.enc, getLsbD_zero, Bool.false_eq_true, Fields.srcB_setB, Fields.setB_d, Fields.setB_a, Fields.setB_c, Fields.setB_e, Fields.setB_ty, Fields.setB_cc, Fields.setB_mod, Fields.setB_g1i, Fields.setB_g1n, Fields.setB_g2i, Fields.setB_g2n, Fields.setB_sc, Fields.setB_yl, Option.bind_eq_bind, Option.bind_some, Nat.reduceSub, Nat.reduceLT, if_true, if_false, Fields.base, Fields.hdr, Fields.acc, Fields.barIx, mod1, PredDst.bits, Acc.modBits, BarIx.ofBits_bits, bfmtOf_bits, extractLsb'_append_low, extractLsb'_append_high, extractLsb'_whole, getLsbD_append, getLsbD_ofBool_zero, LTy.ofCode_code, Fmt.ofCode_code, Rm.ofCode_code, Hint.ofCode_code, Scope.ofCode_code, unitOf_bits]

theorem Dot4.enc_op (op fn : BitVec 8) (x : Dot4) : (Dot4.enc op fn x).op = op ∧ (Dot4.enc op fn x).fn = fn := ⟨Fields.setB_op _ _, Fields.setB_fn _ _⟩

theorem Logic2.parse_enc (op fn : BitVec 8) (x : Logic2) : Logic2.parse (Logic2.enc op fn x) = some x := by
  simp (disch := first | decide | rfl) only [Logic2.parse, Logic2.enc, getLsbD_zero, Bool.false_eq_true, Fields.srcB_setB, Fields.setB_d, Fields.setB_a, Fields.setB_c, Fields.setB_e, Fields.setB_ty, Fields.setB_cc, Fields.setB_mod, Fields.setB_g1i, Fields.setB_g1n, Fields.setB_g2i, Fields.setB_g2n, Fields.setB_sc, Fields.setB_yl, Option.bind_eq_bind, Option.bind_some, Nat.reduceSub, Nat.reduceLT, if_true, if_false, Fields.base, Fields.hdr, Fields.acc, Fields.barIx, mod1, PredDst.bits, Acc.modBits, BarIx.ofBits_bits, bfmtOf_bits, extractLsb'_append_low, extractLsb'_append_high, extractLsb'_whole, getLsbD_append, getLsbD_ofBool_zero, LTy.ofCode_code, Fmt.ofCode_code, Rm.ofCode_code, Hint.ofCode_code, Scope.ofCode_code, unitOf_bits]

theorem Logic2.enc_op (op fn : BitVec 8) (x : Logic2) : (Logic2.enc op fn x).op = op ∧ (Logic2.enc op fn x).fn = fn := ⟨Fields.setB_op _ _, Fields.setB_fn _ _⟩

theorem Logic1.parse_enc (op fn : BitVec 8) (x : Logic1) : Logic1.parse (Logic1.enc op fn x) = some x := by
  simp (disch := first | decide | rfl) only [Logic1.parse, Logic1.enc, getLsbD_zero, Bool.false_eq_true, Fields.srcB_setB, Fields.setB_d, Fields.setB_a, Fields.setB_c, Fields.setB_e, Fields.setB_ty, Fields.setB_cc, Fields.setB_mod, Fields.setB_g1i, Fields.setB_g1n, Fields.setB_g2i, Fields.setB_g2n, Fields.setB_sc, Fields.setB_yl, Option.bind_eq_bind, Option.bind_some, Nat.reduceSub, Nat.reduceLT, if_true, if_false, Fields.base, Fields.hdr, Fields.acc, Fields.barIx, mod1, PredDst.bits, Acc.modBits, BarIx.ofBits_bits, bfmtOf_bits, extractLsb'_append_low, extractLsb'_append_high, extractLsb'_whole, getLsbD_append, getLsbD_ofBool_zero, LTy.ofCode_code, Fmt.ofCode_code, Rm.ofCode_code, Hint.ofCode_code, Scope.ofCode_code, unitOf_bits]

theorem Logic1.enc_op (op fn : BitVec 8) (x : Logic1) : (Logic1.enc op fn x).op = op ∧ (Logic1.enc op fn x).fn = fn := ⟨rfl, rfl⟩

theorem Truth.parse_enc (op fn : BitVec 8) (x : Truth) : Truth.parse (Truth.enc op fn x) = some x := by
  simp (disch := first | decide | rfl) only [Truth.parse, Truth.enc, getLsbD_zero, Bool.false_eq_true, Fields.srcB_setB, Fields.setB_d, Fields.setB_a, Fields.setB_c, Fields.setB_e, Fields.setB_ty, Fields.setB_cc, Fields.setB_mod, Fields.setB_g1i, Fields.setB_g1n, Fields.setB_g2i, Fields.setB_g2n, Fields.setB_sc, Fields.setB_yl, Option.bind_eq_bind, Option.bind_some, Nat.reduceSub, Nat.reduceLT, if_true, if_false, Fields.base, Fields.hdr, Fields.acc, Fields.barIx, mod1, PredDst.bits, Acc.modBits, BarIx.ofBits_bits, bfmtOf_bits, extractLsb'_append_low, extractLsb'_append_high, extractLsb'_whole, getLsbD_append, getLsbD_ofBool_zero, LTy.ofCode_code, Fmt.ofCode_code, Rm.ofCode_code, Hint.ofCode_code, Scope.ofCode_code, unitOf_bits]

theorem Truth.enc_op (op fn : BitVec 8) (x : Truth) : (Truth.enc op fn x).op = op ∧ (Truth.enc op fn x).fn = fn := ⟨Fields.setB_op _ _, Fields.setB_fn _ _⟩

theorem Typed1.parse_enc (op fn : BitVec 8) (x : Typed1) : Typed1.parse (Typed1.enc op fn x) = some x := by
  simp (disch := first | decide | rfl) only [Typed1.parse, Typed1.enc, getLsbD_zero, Bool.false_eq_true, Fields.srcB_setB, Fields.setB_d, Fields.setB_a, Fields.setB_c, Fields.setB_e, Fields.setB_ty, Fields.setB_cc, Fields.setB_mod, Fields.setB_g1i, Fields.setB_g1n, Fields.setB_g2i, Fields.setB_g2n, Fields.setB_sc, Fields.setB_yl, Option.bind_eq_bind, Option.bind_some, Nat.reduceSub, Nat.reduceLT, if_true, if_false, Fields.base, Fields.hdr, Fields.acc, Fields.barIx, mod1, PredDst.bits, Acc.modBits, BarIx.ofBits_bits, bfmtOf_bits, extractLsb'_append_low, extractLsb'_append_high, extractLsb'_whole, getLsbD_append, getLsbD_ofBool_zero, LTy.ofCode_code, Fmt.ofCode_code, Rm.ofCode_code, Hint.ofCode_code, Scope.ofCode_code, unitOf_bits]

theorem Typed1.enc_op (op fn : BitVec 8) (x : Typed1) : (Typed1.enc op fn x).op = op ∧ (Typed1.enc op fn x).fn = fn := ⟨rfl, rfl⟩

theorem MovOp.parse_enc (op fn : BitVec 8) (x : MovOp) : MovOp.parse (MovOp.enc op fn x) = some x := by
  simp (disch := first | decide | rfl) only [MovOp.parse, MovOp.enc, getLsbD_zero, Bool.false_eq_true, Fields.srcB_setB, Fields.setB_d, Fields.setB_a, Fields.setB_c, Fields.setB_e, Fields.setB_ty, Fields.setB_cc, Fields.setB_mod, Fields.setB_g1i, Fields.setB_g1n, Fields.setB_g2i, Fields.setB_g2n, Fields.setB_sc, Fields.setB_yl, Option.bind_eq_bind, Option.bind_some, Nat.reduceSub, Nat.reduceLT, if_true, if_false, Fields.base, Fields.hdr, Fields.acc, Fields.barIx, mod1, PredDst.bits, Acc.modBits, BarIx.ofBits_bits, bfmtOf_bits, extractLsb'_append_low, extractLsb'_append_high, extractLsb'_whole, getLsbD_append, getLsbD_ofBool_zero, LTy.ofCode_code, Fmt.ofCode_code, Rm.ofCode_code, Hint.ofCode_code, Scope.ofCode_code, unitOf_bits]

theorem MovOp.enc_op (op fn : BitVec 8) (x : MovOp) : (MovOp.enc op fn x).op = op ∧ (MovOp.enc op fn x).fn = fn := ⟨Fields.setB_op _ _, Fields.setB_fn _ _⟩

theorem SetpCmp.parse_enc (op fn : BitVec 8) (x : SetpCmp) : SetpCmp.parse (SetpCmp.enc op fn x) = some x := by
  simp (disch := first | decide | rfl) only [SetpCmp.parse, SetpCmp.enc, getLsbD_zero, Bool.false_eq_true, Fields.srcB_setB, Fields.setB_d, Fields.setB_a, Fields.setB_c, Fields.setB_e, Fields.setB_ty, Fields.setB_cc, Fields.setB_mod, Fields.setB_g1i, Fields.setB_g1n, Fields.setB_g2i, Fields.setB_g2n, Fields.setB_sc, Fields.setB_yl, Option.bind_eq_bind, Option.bind_some, Nat.reduceSub, Nat.reduceLT, if_true, if_false, Fields.base, Fields.hdr, Fields.acc, Fields.barIx, mod1, PredDst.bits, Acc.modBits, BarIx.ofBits_bits, bfmtOf_bits, extractLsb'_append_low, extractLsb'_append_high, extractLsb'_whole, getLsbD_append, getLsbD_ofBool_zero, LTy.ofCode_code, Fmt.ofCode_code, Rm.ofCode_code, Hint.ofCode_code, Scope.ofCode_code, unitOf_bits]

theorem SetpCmp.enc_op (op fn : BitVec 8) (x : SetpCmp) : (SetpCmp.enc op fn x).op = op ∧ (SetpCmp.enc op fn x).fn = fn := ⟨Fields.setB_op _ _, Fields.setB_fn _ _⟩

theorem SetpCct.parse_enc (op fn : BitVec 8) (x : SetpCct) : SetpCct.parse (SetpCct.enc op fn x) = some x := by
  simp (disch := first | decide | rfl) only [SetpCct.parse, SetpCct.enc, getLsbD_zero, Bool.false_eq_true, Fields.srcB_setB, Fields.setB_d, Fields.setB_a, Fields.setB_c, Fields.setB_e, Fields.setB_ty, Fields.setB_cc, Fields.setB_mod, Fields.setB_g1i, Fields.setB_g1n, Fields.setB_g2i, Fields.setB_g2n, Fields.setB_sc, Fields.setB_yl, Option.bind_eq_bind, Option.bind_some, Nat.reduceSub, Nat.reduceLT, if_true, if_false, Fields.base, Fields.hdr, Fields.acc, Fields.barIx, mod1, PredDst.bits, Acc.modBits, BarIx.ofBits_bits, bfmtOf_bits, extractLsb'_append_low, extractLsb'_append_high, extractLsb'_whole, getLsbD_append, getLsbD_ofBool_zero, LTy.ofCode_code, Fmt.ofCode_code, Rm.ofCode_code, Hint.ofCode_code, Scope.ofCode_code, unitOf_bits]

theorem SetpCct.enc_op (op fn : BitVec 8) (x : SetpCct) : (SetpCct.enc op fn x).op = op ∧ (SetpCct.enc op fn x).fn = fn := ⟨rfl, rfl⟩

theorem SetpClass.parse_enc (op fn : BitVec 8) (x : SetpClass) : SetpClass.parse (SetpClass.enc op fn x) = some x := by
  simp (disch := first | decide | rfl) only [SetpClass.parse, SetpClass.enc, getLsbD_zero, Bool.false_eq_true, Fields.srcB_setB, Fields.setB_d, Fields.setB_a, Fields.setB_c, Fields.setB_e, Fields.setB_ty, Fields.setB_cc, Fields.setB_mod, Fields.setB_g1i, Fields.setB_g1n, Fields.setB_g2i, Fields.setB_g2n, Fields.setB_sc, Fields.setB_yl, Option.bind_eq_bind, Option.bind_some, Nat.reduceSub, Nat.reduceLT, if_true, if_false, Fields.base, Fields.hdr, Fields.acc, Fields.barIx, mod1, PredDst.bits, Acc.modBits, BarIx.ofBits_bits, bfmtOf_bits, extractLsb'_append_low, extractLsb'_append_high, extractLsb'_whole, getLsbD_append, getLsbD_ofBool_zero, LTy.ofCode_code, Fmt.ofCode_code, Rm.ofCode_code, Hint.ofCode_code, Scope.ofCode_code, unitOf_bits]

theorem SetpClass.enc_op (op fn : BitVec 8) (x : SetpClass) : (SetpClass.enc op fn x).op = op ∧ (SetpClass.enc op fn x).fn = fn := ⟨rfl, rfl⟩

theorem Pcomb.parse_enc (op fn : BitVec 8) (x : Pcomb) : Pcomb.parse (Pcomb.enc op fn x) = some x := by
  simp (disch := first | decide | rfl) only [Pcomb.parse, Pcomb.enc, getLsbD_zero, Bool.false_eq_true, Fields.srcB_setB, Fields.setB_d, Fields.setB_a, Fields.setB_c, Fields.setB_e, Fields.setB_ty, Fields.setB_cc, Fields.setB_mod, Fields.setB_g1i, Fields.setB_g1n, Fields.setB_g2i, Fields.setB_g2n, Fields.setB_sc, Fields.setB_yl, Option.bind_eq_bind, Option.bind_some, Nat.reduceSub, Nat.reduceLT, if_true, if_false, Fields.base, Fields.hdr, Fields.acc, Fields.barIx, mod1, PredDst.bits, Acc.modBits, BarIx.ofBits_bits, bfmtOf_bits, extractLsb'_append_low, extractLsb'_append_high, extractLsb'_whole, getLsbD_append, getLsbD_ofBool_zero, LTy.ofCode_code, Fmt.ofCode_code, Rm.ofCode_code, Hint.ofCode_code, Scope.ofCode_code, unitOf_bits]

theorem Pcomb.enc_op (op fn : BitVec 8) (x : Pcomb) : (Pcomb.enc op fn x).op = op ∧ (Pcomb.enc op fn x).fn = fn := ⟨rfl, rfl⟩

theorem SelP.parse_enc (op fn : BitVec 8) (x : SelP) : SelP.parse (SelP.enc op fn x) = some x := by
  simp (disch := first | decide | rfl) only [SelP.parse, SelP.enc, getLsbD_zero, Bool.false_eq_true, Fields.srcB_setB, Fields.setB_d, Fields.setB_a, Fields.setB_c, Fields.setB_e, Fields.setB_ty, Fields.setB_cc, Fields.setB_mod, Fields.setB_g1i, Fields.setB_g1n, Fields.setB_g2i, Fields.setB_g2n, Fields.setB_sc, Fields.setB_yl, Option.bind_eq_bind, Option.bind_some, Nat.reduceSub, Nat.reduceLT, if_true, if_false, Fields.base, Fields.hdr, Fields.acc, Fields.barIx, mod1, PredDst.bits, Acc.modBits, BarIx.ofBits_bits, bfmtOf_bits, extractLsb'_append_low, extractLsb'_append_high, extractLsb'_whole, getLsbD_append, getLsbD_ofBool_zero, LTy.ofCode_code, Fmt.ofCode_code, Rm.ofCode_code, Hint.ofCode_code, Scope.ofCode_code, unitOf_bits]

theorem SelP.enc_op (op fn : BitVec 8) (x : SelP) : (SelP.enc op fn x).op = op ∧ (SelP.enc op fn x).fn = fn := ⟨Fields.setB_op _ _, Fields.setB_fn _ _⟩

theorem SelCc.parse_enc (op fn : BitVec 8) (x : SelCc) : SelCc.parse (SelCc.enc op fn x) = some x := by
  simp (disch := first | decide | rfl) only [SelCc.parse, SelCc.enc, getLsbD_zero, Bool.false_eq_true, Fields.srcB_setB, Fields.setB_d, Fields.setB_a, Fields.setB_c, Fields.setB_e, Fields.setB_ty, Fields.setB_cc, Fields.setB_mod, Fields.setB_g1i, Fields.setB_g1n, Fields.setB_g2i, Fields.setB_g2n, Fields.setB_sc, Fields.setB_yl, Option.bind_eq_bind, Option.bind_some, Nat.reduceSub, Nat.reduceLT, if_true, if_false, Fields.base, Fields.hdr, Fields.acc, Fields.barIx, mod1, PredDst.bits, Acc.modBits, BarIx.ofBits_bits, bfmtOf_bits, extractLsb'_append_low, extractLsb'_append_high, extractLsb'_whole, getLsbD_append, getLsbD_ofBool_zero, LTy.ofCode_code, Fmt.ofCode_code, Rm.ofCode_code, Hint.ofCode_code, Scope.ofCode_code, unitOf_bits]

theorem SelCc.enc_op (op fn : BitVec 8) (x : SelCc) : (SelCc.enc op fn x).op = op ∧ (SelCc.enc op fn x).fn = fn := ⟨Fields.setB_op _ _, Fields.setB_fn _ _⟩

theorem DOnly.parse_enc (op fn : BitVec 8) (x : DOnly) : DOnly.parse (DOnly.enc op fn x) = some x := by
  simp (disch := first | decide | rfl) only [DOnly.parse, DOnly.enc, getLsbD_zero, Bool.false_eq_true, Fields.srcB_setB, Fields.setB_d, Fields.setB_a, Fields.setB_c, Fields.setB_e, Fields.setB_ty, Fields.setB_cc, Fields.setB_mod, Fields.setB_g1i, Fields.setB_g1n, Fields.setB_g2i, Fields.setB_g2n, Fields.setB_sc, Fields.setB_yl, Option.bind_eq_bind, Option.bind_some, Nat.reduceSub, Nat.reduceLT, if_true, if_false, Fields.base, Fields.hdr, Fields.acc, Fields.barIx, mod1, PredDst.bits, Acc.modBits, BarIx.ofBits_bits, bfmtOf_bits, extractLsb'_append_low, extractLsb'_append_high, extractLsb'_whole, getLsbD_append, getLsbD_ofBool_zero, LTy.ofCode_code, Fmt.ofCode_code, Rm.ofCode_code, Hint.ofCode_code, Scope.ofCode_code, unitOf_bits]

theorem DOnly.enc_op (op fn : BitVec 8) (x : DOnly) : (DOnly.enc op fn x).op = op ∧ (DOnly.enc op fn x).fn = fn := ⟨rfl, rfl⟩

theorem PmovFrom.parse_enc (op fn : BitVec 8) (x : PmovFrom) : PmovFrom.parse (PmovFrom.enc op fn x) = some x := by
  simp (disch := first | decide | rfl) only [PmovFrom.parse, PmovFrom.enc, getLsbD_zero, Bool.false_eq_true, Fields.srcB_setB, Fields.setB_d, Fields.setB_a, Fields.setB_c, Fields.setB_e, Fields.setB_ty, Fields.setB_cc, Fields.setB_mod, Fields.setB_g1i, Fields.setB_g1n, Fields.setB_g2i, Fields.setB_g2n, Fields.setB_sc, Fields.setB_yl, Option.bind_eq_bind, Option.bind_some, Nat.reduceSub, Nat.reduceLT, if_true, if_false, Fields.base, Fields.hdr, Fields.acc, Fields.barIx, mod1, PredDst.bits, Acc.modBits, BarIx.ofBits_bits, bfmtOf_bits, extractLsb'_append_low, extractLsb'_append_high, extractLsb'_whole, getLsbD_append, getLsbD_ofBool_zero, LTy.ofCode_code, Fmt.ofCode_code, Rm.ofCode_code, Hint.ofCode_code, Scope.ofCode_code, unitOf_bits]

theorem PmovFrom.enc_op (op fn : BitVec 8) (x : PmovFrom) : (PmovFrom.enc op fn x).op = op ∧ (PmovFrom.enc op fn x).fn = fn := ⟨rfl, rfl⟩

theorem Flt2.parse_enc (op fn : BitVec 8) (x : Flt2) : Flt2.parse (Flt2.enc op fn x) = some x := by
  simp (disch := first | decide | rfl) only [Flt2.parse, Flt2.enc, getLsbD_zero, Bool.false_eq_true, Fields.srcB_setB, Fields.setB_d, Fields.setB_a, Fields.setB_c, Fields.setB_e, Fields.setB_ty, Fields.setB_cc, Fields.setB_mod, Fields.setB_g1i, Fields.setB_g1n, Fields.setB_g2i, Fields.setB_g2n, Fields.setB_sc, Fields.setB_yl, Option.bind_eq_bind, Option.bind_some, Nat.reduceSub, Nat.reduceLT, if_true, if_false, Fields.base, Fields.hdr, Fields.acc, Fields.barIx, mod1, PredDst.bits, Acc.modBits, BarIx.ofBits_bits, bfmtOf_bits, extractLsb'_append_low, extractLsb'_append_high, extractLsb'_whole, getLsbD_append, getLsbD_ofBool_zero, LTy.ofCode_code, Fmt.ofCode_code, Rm.ofCode_code, Hint.ofCode_code, Scope.ofCode_code, unitOf_bits]

theorem Flt2.enc_op (op fn : BitVec 8) (x : Flt2) : (Flt2.enc op fn x).op = op ∧ (Flt2.enc op fn x).fn = fn := ⟨Fields.setB_op _ _, Fields.setB_fn _ _⟩

theorem Flt3.parse_enc (op fn : BitVec 8) (x : Flt3) : Flt3.parse (Flt3.enc op fn x) = some x := by
  simp (disch := first | decide | rfl) only [Flt3.parse, Flt3.enc, getLsbD_zero, Bool.false_eq_true, Fields.srcB_setB, Fields.setB_d, Fields.setB_a, Fields.setB_c, Fields.setB_e, Fields.setB_ty, Fields.setB_cc, Fields.setB_mod, Fields.setB_g1i, Fields.setB_g1n, Fields.setB_g2i, Fields.setB_g2n, Fields.setB_sc, Fields.setB_yl, Option.bind_eq_bind, Option.bind_some, Nat.reduceSub, Nat.reduceLT, if_true, if_false, Fields.base, Fields.hdr, Fields.acc, Fields.barIx, mod1, PredDst.bits, Acc.modBits, BarIx.ofBits_bits, bfmtOf_bits, extractLsb'_append_low, extractLsb'_append_high, extractLsb'_whole, getLsbD_append, getLsbD_ofBool_zero, LTy.ofCode_code, Fmt.ofCode_code, Rm.ofCode_code, Hint.ofCode_code, Scope.ofCode_code, unitOf_bits]

theorem Flt3.enc_op (op fn : BitVec 8) (x : Flt3) : (Flt3.enc op fn x).op = op ∧ (Flt3.enc op fn x).fn = fn := ⟨Fields.setB_op _ _, Fields.setB_fn _ _⟩

theorem FltMm.parse_enc (op fn : BitVec 8) (x : FltMm) : FltMm.parse (FltMm.enc op fn x) = some x := by
  simp (disch := first | decide | rfl) only [FltMm.parse, FltMm.enc, getLsbD_zero, Bool.false_eq_true, Fields.srcB_setB, Fields.setB_d, Fields.setB_a, Fields.setB_c, Fields.setB_e, Fields.setB_ty, Fields.setB_cc, Fields.setB_mod, Fields.setB_g1i, Fields.setB_g1n, Fields.setB_g2i, Fields.setB_g2n, Fields.setB_sc, Fields.setB_yl, Option.bind_eq_bind, Option.bind_some, Nat.reduceSub, Nat.reduceLT, if_true, if_false, Fields.base, Fields.hdr, Fields.acc, Fields.barIx, mod1, PredDst.bits, Acc.modBits, BarIx.ofBits_bits, bfmtOf_bits, extractLsb'_append_low, extractLsb'_append_high, extractLsb'_whole, getLsbD_append, getLsbD_ofBool_zero, LTy.ofCode_code, Fmt.ofCode_code, Rm.ofCode_code, Hint.ofCode_code, Scope.ofCode_code, unitOf_bits]

theorem FltMm.enc_op (op fn : BitVec 8) (x : FltMm) : (FltMm.enc op fn x).op = op ∧ (FltMm.enc op fn x).fn = fn := ⟨Fields.setB_op _ _, Fields.setB_fn _ _⟩

theorem Flt1.parse_enc (op fn : BitVec 8) (x : Flt1) : Flt1.parse (Flt1.enc op fn x) = some x := by
  simp (disch := first | decide | rfl) only [Flt1.parse, Flt1.enc, getLsbD_zero, Bool.false_eq_true, Fields.srcB_setB, Fields.setB_d, Fields.setB_a, Fields.setB_c, Fields.setB_e, Fields.setB_ty, Fields.setB_cc, Fields.setB_mod, Fields.setB_g1i, Fields.setB_g1n, Fields.setB_g2i, Fields.setB_g2n, Fields.setB_sc, Fields.setB_yl, Option.bind_eq_bind, Option.bind_some, Nat.reduceSub, Nat.reduceLT, if_true, if_false, Fields.base, Fields.hdr, Fields.acc, Fields.barIx, mod1, PredDst.bits, Acc.modBits, BarIx.ofBits_bits, bfmtOf_bits, extractLsb'_append_low, extractLsb'_append_high, extractLsb'_whole, getLsbD_append, getLsbD_ofBool_zero, LTy.ofCode_code, Fmt.ofCode_code, Rm.ofCode_code, Hint.ofCode_code, Scope.ofCode_code, unitOf_bits]

theorem Flt1.enc_op (op fn : BitVec 8) (x : Flt1) : (Flt1.enc op fn x).op = op ∧ (Flt1.enc op fn x).fn = fn := ⟨rfl, rfl⟩

theorem FltRint.parse_enc (op fn : BitVec 8) (x : FltRint) : FltRint.parse (FltRint.enc op fn x) = some x := by
  simp (disch := first | decide | rfl) only [FltRint.parse, FltRint.enc, getLsbD_zero, Bool.false_eq_true, Fields.srcB_setB, Fields.setB_d, Fields.setB_a, Fields.setB_c, Fields.setB_e, Fields.setB_ty, Fields.setB_cc, Fields.setB_mod, Fields.setB_g1i, Fields.setB_g1n, Fields.setB_g2i, Fields.setB_g2n, Fields.setB_sc, Fields.setB_yl, Option.bind_eq_bind, Option.bind_some, Nat.reduceSub, Nat.reduceLT, if_true, if_false, Fields.base, Fields.hdr, Fields.acc, Fields.barIx, mod1, PredDst.bits, Acc.modBits, BarIx.ofBits_bits, bfmtOf_bits, extractLsb'_append_low, extractLsb'_append_high, extractLsb'_whole, getLsbD_append, getLsbD_ofBool_zero, LTy.ofCode_code, Fmt.ofCode_code, Rm.ofCode_code, Hint.ofCode_code, Scope.ofCode_code, unitOf_bits]

theorem FltRint.enc_op (op fn : BitVec 8) (x : FltRint) : (FltRint.enc op fn x).op = op ∧ (FltRint.enc op fn x).fn = fn := ⟨rfl, rfl⟩

theorem SfuOp.parse_enc (op fn : BitVec 8) (x : SfuOp) : SfuOp.parse (SfuOp.enc op fn x) = some x := by
  simp (disch := first | decide | rfl) only [SfuOp.parse, SfuOp.enc, getLsbD_zero, Bool.false_eq_true, Fields.srcB_setB, Fields.setB_d, Fields.setB_a, Fields.setB_c, Fields.setB_e, Fields.setB_ty, Fields.setB_cc, Fields.setB_mod, Fields.setB_g1i, Fields.setB_g1n, Fields.setB_g2i, Fields.setB_g2n, Fields.setB_sc, Fields.setB_yl, Option.bind_eq_bind, Option.bind_some, Nat.reduceSub, Nat.reduceLT, if_true, if_false, Fields.base, Fields.hdr, Fields.acc, Fields.barIx, mod1, PredDst.bits, Acc.modBits, BarIx.ofBits_bits, bfmtOf_bits, extractLsb'_append_low, extractLsb'_append_high, extractLsb'_whole, getLsbD_append, getLsbD_ofBool_zero, LTy.ofCode_code, Fmt.ofCode_code, Rm.ofCode_code, Hint.ofCode_code, Scope.ofCode_code, unitOf_bits]

theorem SfuOp.enc_op (op fn : BitVec 8) (x : SfuOp) : (SfuOp.enc op fn x).op = op ∧ (SfuOp.enc op fn x).fn = fn := ⟨rfl, rfl⟩

theorem CvtOp.parse_enc (op fn : BitVec 8) (x : CvtOp) : CvtOp.parse (CvtOp.enc op fn x) = some x := by
  simp (disch := first | decide | rfl) only [CvtOp.parse, CvtOp.enc, getLsbD_zero, Bool.false_eq_true, Fields.srcB_setB, Fields.setB_d, Fields.setB_a, Fields.setB_c, Fields.setB_e, Fields.setB_ty, Fields.setB_cc, Fields.setB_mod, Fields.setB_g1i, Fields.setB_g1n, Fields.setB_g2i, Fields.setB_g2n, Fields.setB_sc, Fields.setB_yl, Option.bind_eq_bind, Option.bind_some, Nat.reduceSub, Nat.reduceLT, if_true, if_false, Fields.base, Fields.hdr, Fields.acc, Fields.barIx, mod1, PredDst.bits, Acc.modBits, BarIx.ofBits_bits, bfmtOf_bits, extractLsb'_append_low, extractLsb'_append_high, extractLsb'_whole, getLsbD_append, getLsbD_ofBool_zero, LTy.ofCode_code, Fmt.ofCode_code, Rm.ofCode_code, Hint.ofCode_code, Scope.ofCode_code, unitOf_bits]

theorem CvtOp.enc_op (op fn : BitVec 8) (x : CvtOp) : (CvtOp.enc op fn x).op = op ∧ (CvtOp.enc op fn x).fn = fn := ⟨rfl, rfl⟩

theorem PackOp.parse_enc (op fn : BitVec 8) (x : PackOp) : PackOp.parse (PackOp.enc op fn x) = some x := by
  simp (disch := first | decide | rfl) only [PackOp.parse, PackOp.enc, getLsbD_zero, Bool.false_eq_true, Fields.srcB_setB, Fields.setB_d, Fields.setB_a, Fields.setB_c, Fields.setB_e, Fields.setB_ty, Fields.setB_cc, Fields.setB_mod, Fields.setB_g1i, Fields.setB_g1n, Fields.setB_g2i, Fields.setB_g2n, Fields.setB_sc, Fields.setB_yl, Option.bind_eq_bind, Option.bind_some, Nat.reduceSub, Nat.reduceLT, if_true, if_false, Fields.base, Fields.hdr, Fields.acc, Fields.barIx, mod1, PredDst.bits, Acc.modBits, BarIx.ofBits_bits, bfmtOf_bits, extractLsb'_append_low, extractLsb'_append_high, extractLsb'_whole, getLsbD_append, getLsbD_ofBool_zero, LTy.ofCode_code, Fmt.ofCode_code, Rm.ofCode_code, Hint.ofCode_code, Scope.ofCode_code, unitOf_bits]

theorem PackOp.enc_op (op fn : BitVec 8) (x : PackOp) : (PackOp.enc op fn x).op = op ∧ (PackOp.enc op fn x).fn = fn := ⟨rfl, rfl⟩

theorem VpermOp.parse_enc (op fn : BitVec 8) (x : VpermOp) : VpermOp.parse (VpermOp.enc op fn x) = some x := by
  simp (disch := first | decide | rfl) only [VpermOp.parse, VpermOp.enc, getLsbD_zero, Bool.false_eq_true, Fields.srcB_setB, Fields.setB_d, Fields.setB_a, Fields.setB_c, Fields.setB_e, Fields.setB_ty, Fields.setB_cc, Fields.setB_mod, Fields.setB_g1i, Fields.setB_g1n, Fields.setB_g2i, Fields.setB_g2n, Fields.setB_sc, Fields.setB_yl, Option.bind_eq_bind, Option.bind_some, Nat.reduceSub, Nat.reduceLT, if_true, if_false, Fields.base, Fields.hdr, Fields.acc, Fields.barIx, mod1, PredDst.bits, Acc.modBits, BarIx.ofBits_bits, bfmtOf_bits, extractLsb'_append_low, extractLsb'_append_high, extractLsb'_whole, getLsbD_append, getLsbD_ofBool_zero, LTy.ofCode_code, Fmt.ofCode_code, Rm.ofCode_code, Hint.ofCode_code, Scope.ofCode_code, unitOf_bits]

theorem VpermOp.enc_op (op fn : BitVec 8) (x : VpermOp) : (VpermOp.enc op fn x).op = op ∧ (VpermOp.enc op fn x).fn = fn := ⟨Fields.setB_op _ _, Fields.setB_fn _ _⟩

theorem ReduceOp.parse_enc (op fn : BitVec 8) (x : ReduceOp) : ReduceOp.parse (ReduceOp.enc op fn x) = some x := by
  simp (disch := first | decide | rfl) only [ReduceOp.parse, ReduceOp.enc, getLsbD_zero, Bool.false_eq_true, Fields.srcB_setB, Fields.setB_d, Fields.setB_a, Fields.setB_c, Fields.setB_e, Fields.setB_ty, Fields.setB_cc, Fields.setB_mod, Fields.setB_g1i, Fields.setB_g1n, Fields.setB_g2i, Fields.setB_g2n, Fields.setB_sc, Fields.setB_yl, Option.bind_eq_bind, Option.bind_some, Nat.reduceSub, Nat.reduceLT, if_true, if_false, Fields.base, Fields.hdr, Fields.acc, Fields.barIx, mod1, PredDst.bits, Acc.modBits, BarIx.ofBits_bits, bfmtOf_bits, extractLsb'_append_low, extractLsb'_append_high, extractLsb'_whole, getLsbD_append, getLsbD_ofBool_zero, LTy.ofCode_code, Fmt.ofCode_code, Rm.ofCode_code, Hint.ofCode_code, Scope.ofCode_code, unitOf_bits]

theorem ReduceOp.enc_op (op fn : BitVec 8) (x : ReduceOp) : (ReduceOp.enc op fn x).op = op ∧ (ReduceOp.enc op fn x).fn = fn := ⟨rfl, rfl⟩

theorem ScanOp.parse_enc (op fn : BitVec 8) (x : ScanOp) : ScanOp.parse (ScanOp.enc op fn x) = some x := by
  simp (disch := first | decide | rfl) only [ScanOp.parse, ScanOp.enc, getLsbD_zero, Bool.false_eq_true, Fields.srcB_setB, Fields.setB_d, Fields.setB_a, Fields.setB_c, Fields.setB_e, Fields.setB_ty, Fields.setB_cc, Fields.setB_mod, Fields.setB_g1i, Fields.setB_g1n, Fields.setB_g2i, Fields.setB_g2n, Fields.setB_sc, Fields.setB_yl, Option.bind_eq_bind, Option.bind_some, Nat.reduceSub, Nat.reduceLT, if_true, if_false, Fields.base, Fields.hdr, Fields.acc, Fields.barIx, mod1, PredDst.bits, Acc.modBits, BarIx.ofBits_bits, bfmtOf_bits, extractLsb'_append_low, extractLsb'_append_high, extractLsb'_whole, getLsbD_append, getLsbD_ofBool_zero, LTy.ofCode_code, Fmt.ofCode_code, Rm.ofCode_code, Hint.ofCode_code, Scope.ofCode_code, unitOf_bits]

theorem ScanOp.enc_op (op fn : BitVec 8) (x : ScanOp) : (ScanOp.enc op fn x).op = op ∧ (ScanOp.enc op fn x).fn = fn := ⟨rfl, rfl⟩

theorem BallotOp.parse_enc (op fn : BitVec 8) (x : BallotOp) : BallotOp.parse (BallotOp.enc op fn x) = some x := by
  simp (disch := first | decide | rfl) only [BallotOp.parse, BallotOp.enc, getLsbD_zero, Bool.false_eq_true, Fields.srcB_setB, Fields.setB_d, Fields.setB_a, Fields.setB_c, Fields.setB_e, Fields.setB_ty, Fields.setB_cc, Fields.setB_mod, Fields.setB_g1i, Fields.setB_g1n, Fields.setB_g2i, Fields.setB_g2n, Fields.setB_sc, Fields.setB_yl, Option.bind_eq_bind, Option.bind_some, Nat.reduceSub, Nat.reduceLT, if_true, if_false, Fields.base, Fields.hdr, Fields.acc, Fields.barIx, mod1, PredDst.bits, Acc.modBits, BarIx.ofBits_bits, bfmtOf_bits, extractLsb'_append_low, extractLsb'_append_high, extractLsb'_whole, getLsbD_append, getLsbD_ofBool_zero, LTy.ofCode_code, Fmt.ofCode_code, Rm.ofCode_code, Hint.ofCode_code, Scope.ofCode_code, unitOf_bits]

theorem BallotOp.enc_op (op fn : BitVec 8) (x : BallotOp) : (BallotOp.enc op fn x).op = op ∧ (BallotOp.enc op fn x).fn = fn := ⟨rfl, rfl⟩

theorem VoteOp.parse_enc (op fn : BitVec 8) (x : VoteOp) : VoteOp.parse (VoteOp.enc op fn x) = some x := by
  simp (disch := first | decide | rfl) only [VoteOp.parse, VoteOp.enc, getLsbD_zero, Bool.false_eq_true, Fields.srcB_setB, Fields.setB_d, Fields.setB_a, Fields.setB_c, Fields.setB_e, Fields.setB_ty, Fields.setB_cc, Fields.setB_mod, Fields.setB_g1i, Fields.setB_g1n, Fields.setB_g2i, Fields.setB_g2n, Fields.setB_sc, Fields.setB_yl, Option.bind_eq_bind, Option.bind_some, Nat.reduceSub, Nat.reduceLT, if_true, if_false, Fields.base, Fields.hdr, Fields.acc, Fields.barIx, mod1, PredDst.bits, Acc.modBits, BarIx.ofBits_bits, bfmtOf_bits, extractLsb'_append_low, extractLsb'_append_high, extractLsb'_whole, getLsbD_append, getLsbD_ofBool_zero, LTy.ofCode_code, Fmt.ofCode_code, Rm.ofCode_code, Hint.ofCode_code, Scope.ofCode_code, unitOf_bits]

theorem VoteOp.enc_op (op fn : BitVec 8) (x : VoteOp) : (VoteOp.enc op fn x).op = op ∧ (VoteOp.enc op fn x).fn = fn := ⟨rfl, rfl⟩

theorem UmovLane.parse_enc (op fn : BitVec 8) (x : UmovLane) : UmovLane.parse (UmovLane.enc op fn x) = some x := by
  simp (disch := first | decide | rfl) only [UmovLane.parse, UmovLane.enc, getLsbD_zero, Bool.false_eq_true, Fields.srcB_setB, Fields.setB_d, Fields.setB_a, Fields.setB_c, Fields.setB_e, Fields.setB_ty, Fields.setB_cc, Fields.setB_mod, Fields.setB_g1i, Fields.setB_g1n, Fields.setB_g2i, Fields.setB_g2n, Fields.setB_sc, Fields.setB_yl, Option.bind_eq_bind, Option.bind_some, Nat.reduceSub, Nat.reduceLT, if_true, if_false, Fields.base, Fields.hdr, Fields.acc, Fields.barIx, mod1, PredDst.bits, Acc.modBits, BarIx.ofBits_bits, bfmtOf_bits, extractLsb'_append_low, extractLsb'_append_high, extractLsb'_whole, getLsbD_append, getLsbD_ofBool_zero, LTy.ofCode_code, Fmt.ofCode_code, Rm.ofCode_code, Hint.ofCode_code, Scope.ofCode_code, unitOf_bits]

theorem UmovLane.enc_op (op fn : BitVec 8) (x : UmovLane) : (UmovLane.enc op fn x).op = op ∧ (UmovLane.enc op fn x).fn = fn := ⟨Fields.setB_op _ _, Fields.setB_fn _ _⟩

theorem DispOp.parse_enc (op fn : BitVec 8) (x : DispOp) : DispOp.parse (DispOp.enc op fn x) = some x := by
  simp (disch := first | decide | rfl) only [DispOp.parse, DispOp.enc, getLsbD_zero, Bool.false_eq_true, Fields.srcB_setB, Fields.setB_d, Fields.setB_a, Fields.setB_c, Fields.setB_e, Fields.setB_ty, Fields.setB_cc, Fields.setB_mod, Fields.setB_g1i, Fields.setB_g1n, Fields.setB_g2i, Fields.setB_g2n, Fields.setB_sc, Fields.setB_yl, Option.bind_eq_bind, Option.bind_some, Nat.reduceSub, Nat.reduceLT, if_true, if_false, Fields.base, Fields.hdr, Fields.acc, Fields.barIx, mod1, PredDst.bits, Acc.modBits, BarIx.ofBits_bits, bfmtOf_bits, extractLsb'_append_low, extractLsb'_append_high, extractLsb'_whole, getLsbD_append, getLsbD_ofBool_zero, LTy.ofCode_code, Fmt.ofCode_code, Rm.ofCode_code, Hint.ofCode_code, Scope.ofCode_code, unitOf_bits]

theorem DispOp.enc_op (op fn : BitVec 8) (x : DispOp) : (DispOp.enc op fn x).op = op ∧ (DispOp.enc op fn x).fn = fn := ⟨rfl, rfl⟩

theorem AOnly.parse_enc (op fn : BitVec 8) (x : AOnly) : AOnly.parse (AOnly.enc op fn x) = some x := by
  simp (disch := first | decide | rfl) only [AOnly.parse, AOnly.enc, getLsbD_zero, Bool.false_eq_true, Fields.srcB_setB, Fields.setB_d, Fields.setB_a, Fields.setB_c, Fields.setB_e, Fields.setB_ty, Fields.setB_cc, Fields.setB_mod, Fields.setB_g1i, Fields.setB_g1n, Fields.setB_g2i, Fields.setB_g2n, Fields.setB_sc, Fields.setB_yl, Option.bind_eq_bind, Option.bind_some, Nat.reduceSub, Nat.reduceLT, if_true, if_false, Fields.base, Fields.hdr, Fields.acc, Fields.barIx, mod1, PredDst.bits, Acc.modBits, BarIx.ofBits_bits, bfmtOf_bits, extractLsb'_append_low, extractLsb'_append_high, extractLsb'_whole, getLsbD_append, getLsbD_ofBool_zero, LTy.ofCode_code, Fmt.ofCode_code, Rm.ofCode_code, Hint.ofCode_code, Scope.ofCode_code, unitOf_bits]

theorem AOnly.enc_op (op fn : BitVec 8) (x : AOnly) : (AOnly.enc op fn x).op = op ∧ (AOnly.enc op fn x).fn = fn := ⟨rfl, rfl⟩

theorem CallOp.parse_enc (op fn : BitVec 8) (x : CallOp) : CallOp.parse (CallOp.enc op fn x) = some x := by
  simp (disch := first | decide | rfl) only [CallOp.parse, CallOp.enc, getLsbD_zero, Bool.false_eq_true, Fields.srcB_setB, Fields.setB_d, Fields.setB_a, Fields.setB_c, Fields.setB_e, Fields.setB_ty, Fields.setB_cc, Fields.setB_mod, Fields.setB_g1i, Fields.setB_g1n, Fields.setB_g2i, Fields.setB_g2n, Fields.setB_sc, Fields.setB_yl, Option.bind_eq_bind, Option.bind_some, Nat.reduceSub, Nat.reduceLT, if_true, if_false, Fields.base, Fields.hdr, Fields.acc, Fields.barIx, mod1, PredDst.bits, Acc.modBits, BarIx.ofBits_bits, bfmtOf_bits, extractLsb'_append_low, extractLsb'_append_high, extractLsb'_whole, getLsbD_append, getLsbD_ofBool_zero, LTy.ofCode_code, Fmt.ofCode_code, Rm.ofCode_code, Hint.ofCode_code, Scope.ofCode_code, unitOf_bits]

theorem CallOp.enc_op (op fn : BitVec 8) (x : CallOp) : (CallOp.enc op fn x).op = op ∧ (CallOp.enc op fn x).fn = fn := ⟨rfl, rfl⟩

theorem CallxOp.parse_enc (op fn : BitVec 8) (x : CallxOp) : CallxOp.parse (CallxOp.enc op fn x) = some x := by
  simp (disch := first | decide | rfl) only [CallxOp.parse, CallxOp.enc, getLsbD_zero, Bool.false_eq_true, Fields.srcB_setB, Fields.setB_d, Fields.setB_a, Fields.setB_c, Fields.setB_e, Fields.setB_ty, Fields.setB_cc, Fields.setB_mod, Fields.setB_g1i, Fields.setB_g1n, Fields.setB_g2i, Fields.setB_g2n, Fields.setB_sc, Fields.setB_yl, Option.bind_eq_bind, Option.bind_some, Nat.reduceSub, Nat.reduceLT, if_true, if_false, Fields.base, Fields.hdr, Fields.acc, Fields.barIx, mod1, PredDst.bits, Acc.modBits, BarIx.ofBits_bits, bfmtOf_bits, extractLsb'_append_low, extractLsb'_append_high, extractLsb'_whole, getLsbD_append, getLsbD_ofBool_zero, LTy.ofCode_code, Fmt.ofCode_code, Rm.ofCode_code, Hint.ofCode_code, Scope.ofCode_code, unitOf_bits]

theorem CallxOp.enc_op (op fn : BitVec 8) (x : CallxOp) : (CallxOp.enc op fn x).op = op ∧ (CallxOp.enc op fn x).fn = fn := ⟨rfl, rfl⟩

theorem Bare.parse_enc (op fn : BitVec 8) (x : Bare) : Bare.parse (Bare.enc op fn x) = some x := by
  simp (disch := first | decide | rfl) only [Bare.parse, Bare.enc, getLsbD_zero, Bool.false_eq_true, Fields.srcB_setB, Fields.setB_d, Fields.setB_a, Fields.setB_c, Fields.setB_e, Fields.setB_ty, Fields.setB_cc, Fields.setB_mod, Fields.setB_g1i, Fields.setB_g1n, Fields.setB_g2i, Fields.setB_g2n, Fields.setB_sc, Fields.setB_yl, Option.bind_eq_bind, Option.bind_some, Nat.reduceSub, Nat.reduceLT, if_true, if_false, Fields.base, Fields.hdr, Fields.acc, Fields.barIx, mod1, PredDst.bits, Acc.modBits, BarIx.ofBits_bits, bfmtOf_bits, extractLsb'_append_low, extractLsb'_append_high, extractLsb'_whole, getLsbD_append, getLsbD_ofBool_zero, LTy.ofCode_code, Fmt.ofCode_code, Rm.ofCode_code, Hint.ofCode_code, Scope.ofCode_code, unitOf_bits]

theorem Bare.enc_op (op fn : BitVec 8) (x : Bare) : (Bare.enc op fn x).op = op ∧ (Bare.enc op fn x).fn = fn := ⟨rfl, rfl⟩

theorem WaitcOp.parse_enc (op fn : BitVec 8) (x : WaitcOp) : WaitcOp.parse (WaitcOp.enc op fn x) = some x := by
  simp (disch := first | decide | rfl) only [WaitcOp.parse, WaitcOp.enc, getLsbD_zero, Bool.false_eq_true, Fields.srcB_setB, Fields.setB_d, Fields.setB_a, Fields.setB_c, Fields.setB_e, Fields.setB_ty, Fields.setB_cc, Fields.setB_mod, Fields.setB_g1i, Fields.setB_g1n, Fields.setB_g2i, Fields.setB_g2n, Fields.setB_sc, Fields.setB_yl, Option.bind_eq_bind, Option.bind_some, Nat.reduceSub, Nat.reduceLT, if_true, if_false, Fields.base, Fields.hdr, Fields.acc, Fields.barIx, mod1, PredDst.bits, Acc.modBits, BarIx.ofBits_bits, bfmtOf_bits, extractLsb'_append_low, extractLsb'_append_high, extractLsb'_whole, getLsbD_append, getLsbD_ofBool_zero, LTy.ofCode_code, Fmt.ofCode_code, Rm.ofCode_code, Hint.ofCode_code, Scope.ofCode_code, unitOf_bits]

theorem WaitcOp.enc_op (op fn : BitVec 8) (x : WaitcOp) : (WaitcOp.enc op fn x).op = op ∧ (WaitcOp.enc op fn x).fn = fn := ⟨rfl, rfl⟩

theorem SreadOp.parse_enc (op fn : BitVec 8) (x : SreadOp) : SreadOp.parse (SreadOp.enc op fn x) = some x := by
  simp (disch := first | decide | rfl) only [SreadOp.parse, SreadOp.enc, getLsbD_zero, Bool.false_eq_true, Fields.srcB_setB, Fields.setB_d, Fields.setB_a, Fields.setB_c, Fields.setB_e, Fields.setB_ty, Fields.setB_cc, Fields.setB_mod, Fields.setB_g1i, Fields.setB_g1n, Fields.setB_g2i, Fields.setB_g2n, Fields.setB_sc, Fields.setB_yl, Option.bind_eq_bind, Option.bind_some, Nat.reduceSub, Nat.reduceLT, if_true, if_false, Fields.base, Fields.hdr, Fields.acc, Fields.barIx, mod1, PredDst.bits, Acc.modBits, BarIx.ofBits_bits, bfmtOf_bits, extractLsb'_append_low, extractLsb'_append_high, extractLsb'_whole, getLsbD_append, getLsbD_ofBool_zero, LTy.ofCode_code, Fmt.ofCode_code, Rm.ofCode_code, Hint.ofCode_code, Scope.ofCode_code, unitOf_bits]

theorem SreadOp.enc_op (op fn : BitVec 8) (x : SreadOp) : (SreadOp.enc op fn x).op = op ∧ (SreadOp.enc op fn x).fn = fn := ⟨rfl, rfl⟩

theorem LdOp.parse_enc (op fn : BitVec 8) (x : LdOp) : LdOp.parse (LdOp.enc op fn x) = some x := by
  simp (disch := first | decide | rfl) only [LdOp.parse, LdOp.enc, getLsbD_zero, Bool.false_eq_true, Fields.srcB_setB, Fields.setB_d, Fields.setB_a, Fields.setB_c, Fields.setB_e, Fields.setB_ty, Fields.setB_cc, Fields.setB_mod, Fields.setB_g1i, Fields.setB_g1n, Fields.setB_g2i, Fields.setB_g2n, Fields.setB_sc, Fields.setB_yl, Option.bind_eq_bind, Option.bind_some, Nat.reduceSub, Nat.reduceLT, if_true, if_false, Fields.base, Fields.hdr, Fields.acc, Fields.barIx, mod1, PredDst.bits, Acc.modBits, BarIx.ofBits_bits, bfmtOf_bits, extractLsb'_append_low, extractLsb'_append_high, extractLsb'_whole, getLsbD_append, getLsbD_ofBool_zero, LTy.ofCode_code, Fmt.ofCode_code, Rm.ofCode_code, Hint.ofCode_code, Scope.ofCode_code, unitOf_bits]

theorem LdOp.enc_op (op fn : BitVec 8) (x : LdOp) : (LdOp.enc op fn x).op = op ∧ (LdOp.enc op fn x).fn = fn := ⟨rfl, rfl⟩

theorem StOp.parse_enc (op fn : BitVec 8) (x : StOp) : StOp.parse (StOp.enc op fn x) = some x := by
  simp (disch := first | decide | rfl) only [StOp.parse, StOp.enc, getLsbD_zero, Bool.false_eq_true, Fields.srcB_setB, Fields.setB_d, Fields.setB_a, Fields.setB_c, Fields.setB_e, Fields.setB_ty, Fields.setB_cc, Fields.setB_mod, Fields.setB_g1i, Fields.setB_g1n, Fields.setB_g2i, Fields.setB_g2n, Fields.setB_sc, Fields.setB_yl, Option.bind_eq_bind, Option.bind_some, Nat.reduceSub, Nat.reduceLT, if_true, if_false, Fields.base, Fields.hdr, Fields.acc, Fields.barIx, mod1, PredDst.bits, Acc.modBits, BarIx.ofBits_bits, bfmtOf_bits, extractLsb'_append_low, extractLsb'_append_high, extractLsb'_whole, getLsbD_append, getLsbD_ofBool_zero, LTy.ofCode_code, Fmt.ofCode_code, Rm.ofCode_code, Hint.ofCode_code, Scope.ofCode_code, unitOf_bits]

theorem StOp.enc_op (op fn : BitVec 8) (x : StOp) : (StOp.enc op fn x).op = op ∧ (StOp.enc op fn x).fn = fn := ⟨rfl, rfl⟩

theorem PrefOp.parse_enc (op fn : BitVec 8) (x : PrefOp) : PrefOp.parse (PrefOp.enc op fn x) = some x := by
  simp (disch := first | decide | rfl) only [PrefOp.parse, PrefOp.enc, getLsbD_zero, Bool.false_eq_true, Fields.srcB_setB, Fields.setB_d, Fields.setB_a, Fields.setB_c, Fields.setB_e, Fields.setB_ty, Fields.setB_cc, Fields.setB_mod, Fields.setB_g1i, Fields.setB_g1n, Fields.setB_g2i, Fields.setB_g2n, Fields.setB_sc, Fields.setB_yl, Option.bind_eq_bind, Option.bind_some, Nat.reduceSub, Nat.reduceLT, if_true, if_false, Fields.base, Fields.hdr, Fields.acc, Fields.barIx, mod1, PredDst.bits, Acc.modBits, BarIx.ofBits_bits, bfmtOf_bits, extractLsb'_append_low, extractLsb'_append_high, extractLsb'_whole, getLsbD_append, getLsbD_ofBool_zero, LTy.ofCode_code, Fmt.ofCode_code, Rm.ofCode_code, Hint.ofCode_code, Scope.ofCode_code, unitOf_bits]

theorem PrefOp.enc_op (op fn : BitVec 8) (x : PrefOp) : (PrefOp.enc op fn x).op = op ∧ (PrefOp.enc op fn x).fn = fn := ⟨rfl, rfl⟩

theorem CctlOp.parse_enc (op fn : BitVec 8) (x : CctlOp) : CctlOp.parse (CctlOp.enc op fn x) = some x := by
  simp (disch := first | decide | rfl) only [CctlOp.parse, CctlOp.enc, getLsbD_zero, Bool.false_eq_true, Fields.srcB_setB, Fields.setB_d, Fields.setB_a, Fields.setB_c, Fields.setB_e, Fields.setB_ty, Fields.setB_cc, Fields.setB_mod, Fields.setB_g1i, Fields.setB_g1n, Fields.setB_g2i, Fields.setB_g2n, Fields.setB_sc, Fields.setB_yl, Option.bind_eq_bind, Option.bind_some, Nat.reduceSub, Nat.reduceLT, if_true, if_false, Fields.base, Fields.hdr, Fields.acc, Fields.barIx, mod1, PredDst.bits, Acc.modBits, BarIx.ofBits_bits, bfmtOf_bits, extractLsb'_append_low, extractLsb'_append_high, extractLsb'_whole, getLsbD_append, getLsbD_ofBool_zero, LTy.ofCode_code, Fmt.ofCode_code, Rm.ofCode_code, Hint.ofCode_code, Scope.ofCode_code, unitOf_bits]

theorem CctlOp.enc_op (op fn : BitVec 8) (x : CctlOp) : (CctlOp.enc op fn x).op = op ∧ (CctlOp.enc op fn x).fn = fn := ⟨rfl, rfl⟩

theorem AtomOp.parse_enc (op fn : BitVec 8) (x : AtomOp) : AtomOp.parse (AtomOp.enc op fn x) = some x := by
  simp (disch := first | decide | rfl) only [AtomOp.parse, AtomOp.enc, getLsbD_zero, Bool.false_eq_true, Fields.srcB_setB, Fields.setB_d, Fields.setB_a, Fields.setB_c, Fields.setB_e, Fields.setB_ty, Fields.setB_cc, Fields.setB_mod, Fields.setB_g1i, Fields.setB_g1n, Fields.setB_g2i, Fields.setB_g2n, Fields.setB_sc, Fields.setB_yl, Option.bind_eq_bind, Option.bind_some, Nat.reduceSub, Nat.reduceLT, if_true, if_false, Fields.base, Fields.hdr, Fields.acc, Fields.barIx, mod1, PredDst.bits, Acc.modBits, BarIx.ofBits_bits, bfmtOf_bits, extractLsb'_append_low, extractLsb'_append_high, extractLsb'_whole, getLsbD_append, getLsbD_ofBool_zero, LTy.ofCode_code, Fmt.ofCode_code, Rm.ofCode_code, Hint.ofCode_code, Scope.ofCode_code, unitOf_bits]

theorem AtomOp.enc_op (op fn : BitVec 8) (x : AtomOp) : (AtomOp.enc op fn x).op = op ∧ (AtomOp.enc op fn x).fn = fn := ⟨rfl, rfl⟩

theorem RedOp.parse_enc (op fn : BitVec 8) (x : RedOp) : RedOp.parse (RedOp.enc op fn x) = some x := by
  simp (disch := first | decide | rfl) only [RedOp.parse, RedOp.enc, getLsbD_zero, Bool.false_eq_true, Fields.srcB_setB, Fields.setB_d, Fields.setB_a, Fields.setB_c, Fields.setB_e, Fields.setB_ty, Fields.setB_cc, Fields.setB_mod, Fields.setB_g1i, Fields.setB_g1n, Fields.setB_g2i, Fields.setB_g2n, Fields.setB_sc, Fields.setB_yl, Option.bind_eq_bind, Option.bind_some, Nat.reduceSub, Nat.reduceLT, if_true, if_false, Fields.base, Fields.hdr, Fields.acc, Fields.barIx, mod1, PredDst.bits, Acc.modBits, BarIx.ofBits_bits, bfmtOf_bits, extractLsb'_append_low, extractLsb'_append_high, extractLsb'_whole, getLsbD_append, getLsbD_ofBool_zero, LTy.ofCode_code, Fmt.ofCode_code, Rm.ofCode_code, Hint.ofCode_code, Scope.ofCode_code, unitOf_bits]

theorem RedOp.enc_op (op fn : BitVec 8) (x : RedOp) : (RedOp.enc op fn x).op = op ∧ (RedOp.enc op fn x).fn = fn := ⟨rfl, rfl⟩

theorem FenceOp.parse_enc (op fn : BitVec 8) (x : FenceOp) : FenceOp.parse (FenceOp.enc op fn x) = some x := by
  simp (disch := first | decide | rfl) only [FenceOp.parse, FenceOp.enc, getLsbD_zero, Bool.false_eq_true, Fields.srcB_setB, Fields.setB_d, Fields.setB_a, Fields.setB_c, Fields.setB_e, Fields.setB_ty, Fields.setB_cc, Fields.setB_mod, Fields.setB_g1i, Fields.setB_g1n, Fields.setB_g2i, Fields.setB_g2n, Fields.setB_sc, Fields.setB_yl, Option.bind_eq_bind, Option.bind_some, Nat.reduceSub, Nat.reduceLT, if_true, if_false, Fields.base, Fields.hdr, Fields.acc, Fields.barIx, mod1, PredDst.bits, Acc.modBits, BarIx.ofBits_bits, bfmtOf_bits, extractLsb'_append_low, extractLsb'_append_high, extractLsb'_whole, getLsbD_append, getLsbD_ofBool_zero, LTy.ofCode_code, Fmt.ofCode_code, Rm.ofCode_code, Hint.ofCode_code, Scope.ofCode_code, unitOf_bits]

theorem FenceOp.enc_op (op fn : BitVec 8) (x : FenceOp) : (FenceOp.enc op fn x).op = op ∧ (FenceOp.enc op fn x).fn = fn := ⟨rfl, rfl⟩

theorem BarInit.parse_enc (op fn : BitVec 8) (x : BarInit) : BarInit.parse (BarInit.enc op fn x) = some x := by
  simp (disch := first | decide | rfl) only [BarInit.parse, BarInit.enc, getLsbD_zero, Bool.false_eq_true, Fields.srcB_setB, Fields.setB_d, Fields.setB_a, Fields.setB_c, Fields.setB_e, Fields.setB_ty, Fields.setB_cc, Fields.setB_mod, Fields.setB_g1i, Fields.setB_g1n, Fields.setB_g2i, Fields.setB_g2n, Fields.setB_sc, Fields.setB_yl, Option.bind_eq_bind, Option.bind_some, Nat.reduceSub, Nat.reduceLT, if_true, if_false, Fields.base, Fields.hdr, Fields.acc, Fields.barIx, mod1, PredDst.bits, Acc.modBits, BarIx.ofBits_bits, bfmtOf_bits, extractLsb'_append_low, extractLsb'_append_high, extractLsb'_whole, getLsbD_append, getLsbD_ofBool_zero, LTy.ofCode_code, Fmt.ofCode_code, Rm.ofCode_code, Hint.ofCode_code, Scope.ofCode_code, unitOf_bits]

theorem BarInit.enc_op (op fn : BitVec 8) (x : BarInit) : (BarInit.enc op fn x).op = op ∧ (BarInit.enc op fn x).fn = fn := ⟨Fields.setB_op _ _, Fields.setB_fn _ _⟩

theorem BarExpect.parse_enc (op fn : BitVec 8) (x : BarExpect) : BarExpect.parse (BarExpect.enc op fn x) = some x := by
  simp (disch := first | decide | rfl) only [BarExpect.parse, BarExpect.enc, getLsbD_zero, Bool.false_eq_true, Fields.srcB_setB, Fields.setB_d, Fields.setB_a, Fields.setB_c, Fields.setB_e, Fields.setB_ty, Fields.setB_cc, Fields.setB_mod, Fields.setB_g1i, Fields.setB_g1n, Fields.setB_g2i, Fields.setB_g2n, Fields.setB_sc, Fields.setB_yl, Option.bind_eq_bind, Option.bind_some, Nat.reduceSub, Nat.reduceLT, if_true, if_false, Fields.base, Fields.hdr, Fields.acc, Fields.barIx, mod1, PredDst.bits, Acc.modBits, BarIx.ofBits_bits, bfmtOf_bits, extractLsb'_append_low, extractLsb'_append_high, extractLsb'_whole, getLsbD_append, getLsbD_ofBool_zero, LTy.ofCode_code, Fmt.ofCode_code, Rm.ofCode_code, Hint.ofCode_code, Scope.ofCode_code, unitOf_bits]

theorem BarExpect.enc_op (op fn : BitVec 8) (x : BarExpect) : (BarExpect.enc op fn x).op = op ∧ (BarExpect.enc op fn x).fn = fn := ⟨Fields.setB_op _ _, Fields.setB_fn _ _⟩

theorem BarArrive.parse_enc (op fn : BitVec 8) (x : BarArrive) : BarArrive.parse (BarArrive.enc op fn x) = some x := by
  simp (disch := first | decide | rfl) only [BarArrive.parse, BarArrive.enc, getLsbD_zero, Bool.false_eq_true, Fields.srcB_setB, Fields.setB_d, Fields.setB_a, Fields.setB_c, Fields.setB_e, Fields.setB_ty, Fields.setB_cc, Fields.setB_mod, Fields.setB_g1i, Fields.setB_g1n, Fields.setB_g2i, Fields.setB_g2n, Fields.setB_sc, Fields.setB_yl, Option.bind_eq_bind, Option.bind_some, Nat.reduceSub, Nat.reduceLT, if_true, if_false, Fields.base, Fields.hdr, Fields.acc, Fields.barIx, mod1, PredDst.bits, Acc.modBits, BarIx.ofBits_bits, bfmtOf_bits, extractLsb'_append_low, extractLsb'_append_high, extractLsb'_whole, getLsbD_append, getLsbD_ofBool_zero, LTy.ofCode_code, Fmt.ofCode_code, Rm.ofCode_code, Hint.ofCode_code, Scope.ofCode_code, unitOf_bits]

theorem BarArrive.enc_op (op fn : BitVec 8) (x : BarArrive) : (BarArrive.enc op fn x).op = op ∧ (BarArrive.enc op fn x).fn = fn := ⟨rfl, rfl⟩

theorem BarWait.parse_enc (op fn : BitVec 8) (x : BarWait) : BarWait.parse (BarWait.enc op fn x) = some x := by
  simp (disch := first | decide | rfl) only [BarWait.parse, BarWait.enc, getLsbD_zero, Bool.false_eq_true, Fields.srcB_setB, Fields.setB_d, Fields.setB_a, Fields.setB_c, Fields.setB_e, Fields.setB_ty, Fields.setB_cc, Fields.setB_mod, Fields.setB_g1i, Fields.setB_g1n, Fields.setB_g2i, Fields.setB_g2n, Fields.setB_sc, Fields.setB_yl, Option.bind_eq_bind, Option.bind_some, Nat.reduceSub, Nat.reduceLT, if_true, if_false, Fields.base, Fields.hdr, Fields.acc, Fields.barIx, mod1, PredDst.bits, Acc.modBits, BarIx.ofBits_bits, bfmtOf_bits, extractLsb'_append_low, extractLsb'_append_high, extractLsb'_whole, getLsbD_append, getLsbD_ofBool_zero, LTy.ofCode_code, Fmt.ofCode_code, Rm.ofCode_code, Hint.ofCode_code, Scope.ofCode_code, unitOf_bits]

theorem BarWait.enc_op (op fn : BitVec 8) (x : BarWait) : (BarWait.enc op fn x).op = op ∧ (BarWait.enc op fn x).fn = fn := ⟨Fields.setB_op _ _, Fields.setB_fn _ _⟩

theorem QclaimOp.parse_enc (op fn : BitVec 8) (x : QclaimOp) : QclaimOp.parse (QclaimOp.enc op fn x) = some x := by
  simp (disch := first | decide | rfl) only [QclaimOp.parse, QclaimOp.enc, getLsbD_zero, Bool.false_eq_true, Fields.srcB_setB, Fields.setB_d, Fields.setB_a, Fields.setB_c, Fields.setB_e, Fields.setB_ty, Fields.setB_cc, Fields.setB_mod, Fields.setB_g1i, Fields.setB_g1n, Fields.setB_g2i, Fields.setB_g2n, Fields.setB_sc, Fields.setB_yl, Option.bind_eq_bind, Option.bind_some, Nat.reduceSub, Nat.reduceLT, if_true, if_false, Fields.base, Fields.hdr, Fields.acc, Fields.barIx, mod1, PredDst.bits, Acc.modBits, BarIx.ofBits_bits, bfmtOf_bits, extractLsb'_append_low, extractLsb'_append_high, extractLsb'_whole, getLsbD_append, getLsbD_ofBool_zero, LTy.ofCode_code, Fmt.ofCode_code, Rm.ofCode_code, Hint.ofCode_code, Scope.ofCode_code, unitOf_bits]

theorem QclaimOp.enc_op (op fn : BitVec 8) (x : QclaimOp) : (QclaimOp.enc op fn x).op = op ∧ (QclaimOp.enc op fn x).fn = fn := ⟨Fields.setB_op _ _, Fields.setB_fn _ _⟩

theorem QposOp.parse_enc (op fn : BitVec 8) (x : QposOp) : QposOp.parse (QposOp.enc op fn x) = some x := by
  simp (disch := first | decide | rfl) only [QposOp.parse, QposOp.enc, getLsbD_zero, Bool.false_eq_true, Fields.srcB_setB, Fields.setB_d, Fields.setB_a, Fields.setB_c, Fields.setB_e, Fields.setB_ty, Fields.setB_cc, Fields.setB_mod, Fields.setB_g1i, Fields.setB_g1n, Fields.setB_g2i, Fields.setB_g2n, Fields.setB_sc, Fields.setB_yl, Option.bind_eq_bind, Option.bind_some, Nat.reduceSub, Nat.reduceLT, if_true, if_false, Fields.base, Fields.hdr, Fields.acc, Fields.barIx, mod1, PredDst.bits, Acc.modBits, BarIx.ofBits_bits, bfmtOf_bits, extractLsb'_append_low, extractLsb'_append_high, extractLsb'_whole, getLsbD_append, getLsbD_ofBool_zero, LTy.ofCode_code, Fmt.ofCode_code, Rm.ofCode_code, Hint.ofCode_code, Scope.ofCode_code, unitOf_bits]

theorem QposOp.enc_op (op fn : BitVec 8) (x : QposOp) : (QposOp.enc op fn x).op = op ∧ (QposOp.enc op fn x).fn = fn := ⟨Fields.setB_op _ _, Fields.setB_fn _ _⟩

theorem QawaitOp.parse_enc (op fn : BitVec 8) (x : QawaitOp) : QawaitOp.parse (QawaitOp.enc op fn x) = some x := by
  simp (disch := first | decide | rfl) only [QawaitOp.parse, QawaitOp.enc, getLsbD_zero, Bool.false_eq_true, Fields.srcB_setB, Fields.setB_d, Fields.setB_a, Fields.setB_c, Fields.setB_e, Fields.setB_ty, Fields.setB_cc, Fields.setB_mod, Fields.setB_g1i, Fields.setB_g1n, Fields.setB_g2i, Fields.setB_g2n, Fields.setB_sc, Fields.setB_yl, Option.bind_eq_bind, Option.bind_some, Nat.reduceSub, Nat.reduceLT, if_true, if_false, Fields.base, Fields.hdr, Fields.acc, Fields.barIx, mod1, PredDst.bits, Acc.modBits, BarIx.ofBits_bits, bfmtOf_bits, extractLsb'_append_low, extractLsb'_append_high, extractLsb'_whole, getLsbD_append, getLsbD_ofBool_zero, LTy.ofCode_code, Fmt.ofCode_code, Rm.ofCode_code, Hint.ofCode_code, Scope.ofCode_code, unitOf_bits]

theorem QawaitOp.enc_op (op fn : BitVec 8) (x : QawaitOp) : (QawaitOp.enc op fn x).op = op ∧ (QawaitOp.enc op fn x).fn = fn := ⟨Fields.setB_op _ _, Fields.setB_fn _ _⟩

theorem PushOp.parse_enc (op fn : BitVec 8) (x : PushOp) : PushOp.parse (PushOp.enc op fn x) = some x := by
  simp (disch := first | decide | rfl) only [PushOp.parse, PushOp.enc, getLsbD_zero, Bool.false_eq_true, Fields.srcB_setB, Fields.setB_d, Fields.setB_a, Fields.setB_c, Fields.setB_e, Fields.setB_ty, Fields.setB_cc, Fields.setB_mod, Fields.setB_g1i, Fields.setB_g1n, Fields.setB_g2i, Fields.setB_g2n, Fields.setB_sc, Fields.setB_yl, Option.bind_eq_bind, Option.bind_some, Nat.reduceSub, Nat.reduceLT, if_true, if_false, Fields.base, Fields.hdr, Fields.acc, Fields.barIx, mod1, PredDst.bits, Acc.modBits, BarIx.ofBits_bits, bfmtOf_bits, extractLsb'_append_low, extractLsb'_append_high, extractLsb'_whole, getLsbD_append, getLsbD_ofBool_zero, LTy.ofCode_code, Fmt.ofCode_code, Rm.ofCode_code, Hint.ofCode_code, Scope.ofCode_code, unitOf_bits]

theorem PushOp.enc_op (op fn : BitVec 8) (x : PushOp) : (PushOp.enc op fn x).op = op ∧ (PushOp.enc op fn x).fn = fn := ⟨rfl, rfl⟩

theorem EvsigOp.parse_enc (op fn : BitVec 8) (x : EvsigOp) : EvsigOp.parse (EvsigOp.enc op fn x) = some x := by
  simp (disch := first | decide | rfl) only [EvsigOp.parse, EvsigOp.enc, getLsbD_zero, Bool.false_eq_true, Fields.srcB_setB, Fields.setB_d, Fields.setB_a, Fields.setB_c, Fields.setB_e, Fields.setB_ty, Fields.setB_cc, Fields.setB_mod, Fields.setB_g1i, Fields.setB_g1n, Fields.setB_g2i, Fields.setB_g2n, Fields.setB_sc, Fields.setB_yl, Option.bind_eq_bind, Option.bind_some, Nat.reduceSub, Nat.reduceLT, if_true, if_false, Fields.base, Fields.hdr, Fields.acc, Fields.barIx, mod1, PredDst.bits, Acc.modBits, BarIx.ofBits_bits, bfmtOf_bits, extractLsb'_append_low, extractLsb'_append_high, extractLsb'_whole, getLsbD_append, getLsbD_ofBool_zero, LTy.ofCode_code, Fmt.ofCode_code, Rm.ofCode_code, Hint.ofCode_code, Scope.ofCode_code, unitOf_bits]

theorem EvsigOp.enc_op (op fn : BitVec 8) (x : EvsigOp) : (EvsigOp.enc op fn x).op = op ∧ (EvsigOp.enc op fn x).fn = fn := ⟨rfl, rfl⟩

theorem PublishOp.parse_enc (op fn : BitVec 8) (x : PublishOp) : PublishOp.parse (PublishOp.enc op fn x) = some x := by
  simp (disch := first | decide | rfl) only [PublishOp.parse, PublishOp.enc, getLsbD_zero, Bool.false_eq_true, Fields.srcB_setB, Fields.setB_d, Fields.setB_a, Fields.setB_c, Fields.setB_e, Fields.setB_ty, Fields.setB_cc, Fields.setB_mod, Fields.setB_g1i, Fields.setB_g1n, Fields.setB_g2i, Fields.setB_g2n, Fields.setB_sc, Fields.setB_yl, Option.bind_eq_bind, Option.bind_some, Nat.reduceSub, Nat.reduceLT, if_true, if_false, Fields.base, Fields.hdr, Fields.acc, Fields.barIx, mod1, PredDst.bits, Acc.modBits, BarIx.ofBits_bits, bfmtOf_bits, extractLsb'_append_low, extractLsb'_append_high, extractLsb'_whole, getLsbD_append, getLsbD_ofBool_zero, LTy.ofCode_code, Fmt.ofCode_code, Rm.ofCode_code, Hint.ofCode_code, Scope.ofCode_code, unitOf_bits]

theorem PublishOp.enc_op (op fn : BitVec 8) (x : PublishOp) : (PublishOp.enc op fn x).op = op ∧ (PublishOp.enc op fn x).fn = fn := ⟨rfl, rfl⟩

theorem MmaOp.parse_enc (op fn : BitVec 8) (x : MmaOp) : MmaOp.parse (MmaOp.enc op fn x) = some x := by
  simp (disch := first | decide | rfl) only [MmaOp.parse, MmaOp.enc, getLsbD_zero, Bool.false_eq_true, Fields.srcB_setB, Fields.setB_d, Fields.setB_a, Fields.setB_c, Fields.setB_e, Fields.setB_ty, Fields.setB_cc, Fields.setB_mod, Fields.setB_g1i, Fields.setB_g1n, Fields.setB_g2i, Fields.setB_g2n, Fields.setB_sc, Fields.setB_yl, Option.bind_eq_bind, Option.bind_some, Nat.reduceSub, Nat.reduceLT, if_true, if_false, Fields.base, Fields.hdr, Fields.acc, Fields.barIx, mod1, PredDst.bits, Acc.modBits, BarIx.ofBits_bits, bfmtOf_bits, extractLsb'_append_low, extractLsb'_append_high, extractLsb'_whole, getLsbD_append, getLsbD_ofBool_zero, LTy.ofCode_code, Fmt.ofCode_code, Rm.ofCode_code, Hint.ofCode_code, Scope.ofCode_code, unitOf_bits]

theorem MmaOp.enc_op (op fn : BitVec 8) (x : MmaOp) : (MmaOp.enc op fn x).op = op ∧ (MmaOp.enc op fn x).fn = fn := ⟨rfl, rfl⟩

theorem MscaleOp.parse_enc (op fn : BitVec 8) (x : MscaleOp) : MscaleOp.parse (MscaleOp.enc op fn x) = some x := by
  simp (disch := first | decide | rfl) only [MscaleOp.parse, MscaleOp.enc, getLsbD_zero, Bool.false_eq_true, Fields.srcB_setB, Fields.setB_d, Fields.setB_a, Fields.setB_c, Fields.setB_e, Fields.setB_ty, Fields.setB_cc, Fields.setB_mod, Fields.setB_g1i, Fields.setB_g1n, Fields.setB_g2i, Fields.setB_g2n, Fields.setB_sc, Fields.setB_yl, Option.bind_eq_bind, Option.bind_some, Nat.reduceSub, Nat.reduceLT, if_true, if_false, Fields.base, Fields.hdr, Fields.acc, Fields.barIx, mod1, PredDst.bits, Acc.modBits, BarIx.ofBits_bits, bfmtOf_bits, extractLsb'_append_low, extractLsb'_append_high, extractLsb'_whole, getLsbD_append, getLsbD_ofBool_zero, LTy.ofCode_code, Fmt.ofCode_code, Rm.ofCode_code, Hint.ofCode_code, Scope.ofCode_code, unitOf_bits]

theorem MscaleOp.enc_op (op fn : BitVec 8) (x : MscaleOp) : (MscaleOp.enc op fn x).op = op ∧ (MscaleOp.enc op fn x).fn = fn := ⟨rfl, rfl⟩

theorem MzeroOp.parse_enc (op fn : BitVec 8) (x : MzeroOp) : MzeroOp.parse (MzeroOp.enc op fn x) = some x := by
  simp (disch := first | decide | rfl) only [MzeroOp.parse, MzeroOp.enc, getLsbD_zero, Bool.false_eq_true, Fields.srcB_setB, Fields.setB_d, Fields.setB_a, Fields.setB_c, Fields.setB_e, Fields.setB_ty, Fields.setB_cc, Fields.setB_mod, Fields.setB_g1i, Fields.setB_g1n, Fields.setB_g2i, Fields.setB_g2n, Fields.setB_sc, Fields.setB_yl, Option.bind_eq_bind, Option.bind_some, Nat.reduceSub, Nat.reduceLT, if_true, if_false, Fields.base, Fields.hdr, Fields.acc, Fields.barIx, mod1, PredDst.bits, Acc.modBits, BarIx.ofBits_bits, bfmtOf_bits, extractLsb'_append_low, extractLsb'_append_high, extractLsb'_whole, getLsbD_append, getLsbD_ofBool_zero, LTy.ofCode_code, Fmt.ofCode_code, Rm.ofCode_code, Hint.ofCode_code, Scope.ofCode_code, unitOf_bits]

theorem MzeroOp.enc_op (op fn : BitVec 8) (x : MzeroOp) : (MzeroOp.enc op fn x).op = op ∧ (MzeroOp.enc op fn x).fn = fn := ⟨rfl, rfl⟩

theorem MmovOp.parseLd_encLd (op fn : BitVec 8) (x : MmovOp) : MmovOp.parseLd (MmovOp.encLd op fn x) = some x := by
  simp (disch := first | decide | rfl) only [MmovOp.parseLd, MmovOp.encLd, getLsbD_zero, Bool.false_eq_true, Fields.srcB_setB, Fields.setB_d, Fields.setB_a, Fields.setB_c, Fields.setB_e, Fields.setB_ty, Fields.setB_cc, Fields.setB_mod, Fields.setB_g1i, Fields.setB_g1n, Fields.setB_g2i, Fields.setB_g2n, Fields.setB_sc, Fields.setB_yl, Option.bind_eq_bind, Option.bind_some, Nat.reduceSub, Nat.reduceLT, if_true, if_false, Fields.base, Fields.hdr, Fields.acc, Fields.barIx, mod1, PredDst.bits, Acc.modBits, BarIx.ofBits_bits, bfmtOf_bits, extractLsb'_append_low, extractLsb'_append_high, extractLsb'_whole, getLsbD_append, getLsbD_ofBool_zero, LTy.ofCode_code, Fmt.ofCode_code, Rm.ofCode_code, Hint.ofCode_code, Scope.ofCode_code, unitOf_bits]

theorem MmovOp.encLd_op (op fn : BitVec 8) (x : MmovOp) : (MmovOp.encLd op fn x).op = op ∧ (MmovOp.encLd op fn x).fn = fn := ⟨rfl, rfl⟩

theorem MmovOp.parseSt_encSt (op fn : BitVec 8) (x : MmovOp) : MmovOp.parseSt (MmovOp.encSt op fn x) = some x := by
  simp (disch := first | decide | rfl) only [MmovOp.parseSt, MmovOp.encSt, getLsbD_zero, Bool.false_eq_true, Fields.srcB_setB, Fields.setB_d, Fields.setB_a, Fields.setB_c, Fields.setB_e, Fields.setB_ty, Fields.setB_cc, Fields.setB_mod, Fields.setB_g1i, Fields.setB_g1n, Fields.setB_g2i, Fields.setB_g2n, Fields.setB_sc, Fields.setB_yl, Option.bind_eq_bind, Option.bind_some, Nat.reduceSub, Nat.reduceLT, if_true, if_false, Fields.base, Fields.hdr, Fields.acc, Fields.barIx, mod1, PredDst.bits, Acc.modBits, BarIx.ofBits_bits, bfmtOf_bits, extractLsb'_append_low, extractLsb'_append_high, extractLsb'_whole, getLsbD_append, getLsbD_ofBool_zero, LTy.ofCode_code, Fmt.ofCode_code, Rm.ofCode_code, Hint.ofCode_code, Scope.ofCode_code, unitOf_bits]

theorem MmovOp.encSt_op (op fn : BitVec 8) (x : MmovOp) : (MmovOp.encSt op fn x).op = op ∧ (MmovOp.encSt op fn x).fn = fn := ⟨rfl, rfl⟩

theorem FpushOp.parse_enc (op fn : BitVec 8) (x : FpushOp) : FpushOp.parse (FpushOp.enc op fn x) = some x := by
  simp (disch := first | decide | rfl) only [FpushOp.parse, FpushOp.enc, getLsbD_zero, Bool.false_eq_true, Fields.srcB_setB, Fields.setB_d, Fields.setB_a, Fields.setB_c, Fields.setB_e, Fields.setB_ty, Fields.setB_cc, Fields.setB_mod, Fields.setB_g1i, Fields.setB_g1n, Fields.setB_g2i, Fields.setB_g2n, Fields.setB_sc, Fields.setB_yl, Option.bind_eq_bind, Option.bind_some, Nat.reduceSub, Nat.reduceLT, if_true, if_false, Fields.base, Fields.hdr, Fields.acc, Fields.barIx, mod1, PredDst.bits, Acc.modBits, BarIx.ofBits_bits, bfmtOf_bits, extractLsb'_append_low, extractLsb'_append_high, extractLsb'_whole, getLsbD_append, getLsbD_ofBool_zero, LTy.ofCode_code, Fmt.ofCode_code, Rm.ofCode_code, Hint.ofCode_code, Scope.ofCode_code, unitOf_bits]

theorem FpushOp.enc_op (op fn : BitVec 8) (x : FpushOp) : (FpushOp.enc op fn x).op = op ∧ (FpushOp.enc op fn x).fn = fn := ⟨rfl, rfl⟩

theorem MmodeOp.parse_enc (op fn : BitVec 8) (x : MmodeOp) : MmodeOp.parse (MmodeOp.enc op fn x) = some x := by
  simp (disch := first | decide | rfl) only [MmodeOp.parse, MmodeOp.enc, getLsbD_zero, Bool.false_eq_true, Fields.srcB_setB, Fields.setB_d, Fields.setB_a, Fields.setB_c, Fields.setB_e, Fields.setB_ty, Fields.setB_cc, Fields.setB_mod, Fields.setB_g1i, Fields.setB_g1n, Fields.setB_g2i, Fields.setB_g2n, Fields.setB_sc, Fields.setB_yl, Option.bind_eq_bind, Option.bind_some, Nat.reduceSub, Nat.reduceLT, if_true, if_false, Fields.base, Fields.hdr, Fields.acc, Fields.barIx, mod1, PredDst.bits, Acc.modBits, BarIx.ofBits_bits, bfmtOf_bits, extractLsb'_append_low, extractLsb'_append_high, extractLsb'_whole, getLsbD_append, getLsbD_ofBool_zero, LTy.ofCode_code, Fmt.ofCode_code, Rm.ofCode_code, Hint.ofCode_code, Scope.ofCode_code, unitOf_bits]

theorem MmodeOp.enc_op (op fn : BitVec 8) (x : MmodeOp) : (MmodeOp.enc op fn x).op = op ∧ (MmodeOp.enc op fn x).fn = fn := ⟨rfl, rfl⟩

theorem MepiOp.parse_enc (op fn : BitVec 8) (x : MepiOp) : MepiOp.parse (MepiOp.enc op fn x) = some x := by
  simp (disch := first | decide | rfl) only [MepiOp.parse, MepiOp.enc, getLsbD_zero, Bool.false_eq_true, Fields.srcB_setB, Fields.setB_d, Fields.setB_a, Fields.setB_c, Fields.setB_e, Fields.setB_ty, Fields.setB_cc, Fields.setB_mod, Fields.setB_g1i, Fields.setB_g1n, Fields.setB_g2i, Fields.setB_g2n, Fields.setB_sc, Fields.setB_yl, Option.bind_eq_bind, Option.bind_some, Nat.reduceSub, Nat.reduceLT, if_true, if_false, Fields.base, Fields.hdr, Fields.acc, Fields.barIx, mod1, PredDst.bits, Acc.modBits, BarIx.ofBits_bits, bfmtOf_bits, extractLsb'_append_low, extractLsb'_append_high, extractLsb'_whole, getLsbD_append, getLsbD_ofBool_zero, LTy.ofCode_code, Fmt.ofCode_code, Rm.ofCode_code, Hint.ofCode_code, Scope.ofCode_code, unitOf_bits]

theorem MepiOp.enc_op (op fn : BitVec 8) (x : MepiOp) : (MepiOp.enc op fn x).op = op ∧ (MepiOp.enc op fn x).fn = fn := ⟨rfl, rfl⟩

theorem CmpsOp.parse_enc (op fn : BitVec 8) (x : CmpsOp) : CmpsOp.parse (CmpsOp.enc op fn x) = some x := by
  simp (disch := first | decide | rfl) only [CmpsOp.parse, CmpsOp.enc, getLsbD_zero, Bool.false_eq_true, Fields.srcB_setB, Fields.setB_d, Fields.setB_a, Fields.setB_c, Fields.setB_e, Fields.setB_ty, Fields.setB_cc, Fields.setB_mod, Fields.setB_g1i, Fields.setB_g1n, Fields.setB_g2i, Fields.setB_g2n, Fields.setB_sc, Fields.setB_yl, Option.bind_eq_bind, Option.bind_some, Nat.reduceSub, Nat.reduceLT, if_true, if_false, Fields.base, Fields.hdr, Fields.acc, Fields.barIx, mod1, PredDst.bits, Acc.modBits, BarIx.ofBits_bits, bfmtOf_bits, extractLsb'_append_low, extractLsb'_append_high, extractLsb'_whole, getLsbD_append, getLsbD_ofBool_zero, LTy.ofCode_code, Fmt.ofCode_code, Rm.ofCode_code, Hint.ofCode_code, Scope.ofCode_code, unitOf_bits]

theorem CmpsOp.enc_op (op fn : BitVec 8) (x : CmpsOp) : (CmpsOp.enc op fn x).op = op ∧ (CmpsOp.enc op fn x).fn = fn := ⟨rfl, rfl⟩

theorem CreadOp.parse_enc (op fn : BitVec 8) (x : CreadOp) : CreadOp.parse (CreadOp.enc op fn x) = some x := by
  simp (disch := first | decide | rfl) only [CreadOp.parse, CreadOp.enc, getLsbD_zero, Bool.false_eq_true, Fields.srcB_setB, Fields.setB_d, Fields.setB_a, Fields.setB_c, Fields.setB_e, Fields.setB_ty, Fields.setB_cc, Fields.setB_mod, Fields.setB_g1i, Fields.setB_g1n, Fields.setB_g2i, Fields.setB_g2n, Fields.setB_sc, Fields.setB_yl, Option.bind_eq_bind, Option.bind_some, Nat.reduceSub, Nat.reduceLT, if_true, if_false, Fields.base, Fields.hdr, Fields.acc, Fields.barIx, mod1, PredDst.bits, Acc.modBits, BarIx.ofBits_bits, bfmtOf_bits, extractLsb'_append_low, extractLsb'_append_high, extractLsb'_whole, getLsbD_append, getLsbD_ofBool_zero, LTy.ofCode_code, Fmt.ofCode_code, Rm.ofCode_code, Hint.ofCode_code, Scope.ofCode_code, unitOf_bits]

theorem CreadOp.enc_op (op fn : BitVec 8) (x : CreadOp) : (CreadOp.enc op fn x).op = op ∧ (CreadOp.enc op fn x).fn = fn := ⟨rfl, rfl⟩

theorem CretireOp.parse_enc (op fn : BitVec 8) (x : CretireOp) : CretireOp.parse (CretireOp.enc op fn x) = some x := by
  simp (disch := first | decide | rfl) only [CretireOp.parse, CretireOp.enc, getLsbD_zero, Bool.false_eq_true, Fields.srcB_setB, Fields.setB_d, Fields.setB_a, Fields.setB_c, Fields.setB_e, Fields.setB_ty, Fields.setB_cc, Fields.setB_mod, Fields.setB_g1i, Fields.setB_g1n, Fields.setB_g2i, Fields.setB_g2n, Fields.setB_sc, Fields.setB_yl, Option.bind_eq_bind, Option.bind_some, Nat.reduceSub, Nat.reduceLT, if_true, if_false, Fields.base, Fields.hdr, Fields.acc, Fields.barIx, mod1, PredDst.bits, Acc.modBits, BarIx.ofBits_bits, bfmtOf_bits, extractLsb'_append_low, extractLsb'_append_high, extractLsb'_whole, getLsbD_append, getLsbD_ofBool_zero, LTy.ofCode_code, Fmt.ofCode_code, Rm.ofCode_code, Hint.ofCode_code, Scope.ofCode_code, unitOf_bits]

theorem CretireOp.enc_op (op fn : BitVec 8) (x : CretireOp) : (CretireOp.enc op fn x).op = op ∧ (CretireOp.enc op fn x).fn = fn := ⟨rfl, rfl⟩

theorem CreplayOp.parse_enc (op fn : BitVec 8) (x : CreplayOp) : CreplayOp.parse (CreplayOp.enc op fn x) = some x := by
  simp (disch := first | decide | rfl) only [CreplayOp.parse, CreplayOp.enc, getLsbD_zero, Bool.false_eq_true, Fields.srcB_setB, Fields.setB_d, Fields.setB_a, Fields.setB_c, Fields.setB_e, Fields.setB_ty, Fields.setB_cc, Fields.setB_mod, Fields.setB_g1i, Fields.setB_g1n, Fields.setB_g2i, Fields.setB_g2n, Fields.setB_sc, Fields.setB_yl, Option.bind_eq_bind, Option.bind_some, Nat.reduceSub, Nat.reduceLT, if_true, if_false, Fields.base, Fields.hdr, Fields.acc, Fields.barIx, mod1, PredDst.bits, Acc.modBits, BarIx.ofBits_bits, bfmtOf_bits, extractLsb'_append_low, extractLsb'_append_high, extractLsb'_whole, getLsbD_append, getLsbD_ofBool_zero, LTy.ofCode_code, Fmt.ofCode_code, Rm.ofCode_code, Hint.ofCode_code, Scope.ofCode_code, unitOf_bits]

theorem CreplayOp.enc_op (op fn : BitVec 8) (x : CreplayOp) : (CreplayOp.enc op fn x).op = op ∧ (CreplayOp.enc op fn x).fn = fn := ⟨rfl, rfl⟩

theorem WaittOp.parse_enc (op fn : BitVec 8) (x : WaittOp) : WaittOp.parse (WaittOp.enc op fn x) = some x := by
  simp (disch := first | decide | rfl) only [WaittOp.parse, WaittOp.enc, getLsbD_zero, Bool.false_eq_true, Fields.srcB_setB, Fields.setB_d, Fields.setB_a, Fields.setB_c, Fields.setB_e, Fields.setB_ty, Fields.setB_cc, Fields.setB_mod, Fields.setB_g1i, Fields.setB_g1n, Fields.setB_g2i, Fields.setB_g2n, Fields.setB_sc, Fields.setB_yl, Option.bind_eq_bind, Option.bind_some, Nat.reduceSub, Nat.reduceLT, if_true, if_false, Fields.base, Fields.hdr, Fields.acc, Fields.barIx, mod1, PredDst.bits, Acc.modBits, BarIx.ofBits_bits, bfmtOf_bits, extractLsb'_append_low, extractLsb'_append_high, extractLsb'_whole, getLsbD_append, getLsbD_ofBool_zero, LTy.ofCode_code, Fmt.ofCode_code, Rm.ofCode_code, Hint.ofCode_code, Scope.ofCode_code, unitOf_bits]

theorem WaittOp.enc_op (op fn : BitVec 8) (x : WaittOp) : (WaittOp.enc op fn x).op = op ∧ (WaittOp.enc op fn x).fn = fn := ⟨rfl, rfl⟩

theorem PclsOp.parse_enc (op fn : BitVec 8) (x : PclsOp) : PclsOp.parse (PclsOp.enc op fn x) = some x := by
  simp (disch := first | decide | rfl) only [PclsOp.parse, PclsOp.enc, getLsbD_zero, Bool.false_eq_true, Fields.srcB_setB, Fields.setB_d, Fields.setB_a, Fields.setB_c, Fields.setB_e, Fields.setB_ty, Fields.setB_cc, Fields.setB_mod, Fields.setB_g1i, Fields.setB_g1n, Fields.setB_g2i, Fields.setB_g2n, Fields.setB_sc, Fields.setB_yl, Option.bind_eq_bind, Option.bind_some, Nat.reduceSub, Nat.reduceLT, if_true, if_false, Fields.base, Fields.hdr, Fields.acc, Fields.barIx, mod1, PredDst.bits, Acc.modBits, BarIx.ofBits_bits, bfmtOf_bits, extractLsb'_append_low, extractLsb'_append_high, extractLsb'_whole, getLsbD_append, getLsbD_ofBool_zero, LTy.ofCode_code, Fmt.ofCode_code, Rm.ofCode_code, Hint.ofCode_code, Scope.ofCode_code, unitOf_bits]

theorem PclsOp.enc_op (op fn : BitVec 8) (x : PclsOp) : (PclsOp.enc op fn x).op = op ∧ (PclsOp.enc op fn x).fn = fn := ⟨Fields.setB_op _ _, Fields.setB_fn _ _⟩

theorem SwptOp.parse_enc (op fn : BitVec 8) (x : SwptOp) : SwptOp.parse (SwptOp.enc op fn x) = some x := by
  simp (disch := first | decide | rfl) only [SwptOp.parse, SwptOp.enc, getLsbD_zero, Bool.false_eq_true, Fields.srcB_setB, Fields.setB_d, Fields.setB_a, Fields.setB_c, Fields.setB_e, Fields.setB_ty, Fields.setB_cc, Fields.setB_mod, Fields.setB_g1i, Fields.setB_g1n, Fields.setB_g2i, Fields.setB_g2n, Fields.setB_sc, Fields.setB_yl, Option.bind_eq_bind, Option.bind_some, Nat.reduceSub, Nat.reduceLT, if_true, if_false, Fields.base, Fields.hdr, Fields.acc, Fields.barIx, mod1, PredDst.bits, Acc.modBits, BarIx.ofBits_bits, bfmtOf_bits, extractLsb'_append_low, extractLsb'_append_high, extractLsb'_whole, getLsbD_append, getLsbD_ofBool_zero, LTy.ofCode_code, Fmt.ofCode_code, Rm.ofCode_code, Hint.ofCode_code, Scope.ofCode_code, unitOf_bits]

theorem SwptOp.enc_op (op fn : BitVec 8) (x : SwptOp) : (SwptOp.enc op fn x).op = op ∧ (SwptOp.enc op fn x).fn = fn := ⟨rfl, rfl⟩

theorem CkptOp.parse_enc (op fn : BitVec 8) (x : CkptOp) : CkptOp.parse (CkptOp.enc op fn x) = some x := by
  simp (disch := first | decide | rfl) only [CkptOp.parse, CkptOp.enc, getLsbD_zero, Bool.false_eq_true, Fields.srcB_setB, Fields.setB_d, Fields.setB_a, Fields.setB_c, Fields.setB_e, Fields.setB_ty, Fields.setB_cc, Fields.setB_mod, Fields.setB_g1i, Fields.setB_g1n, Fields.setB_g2i, Fields.setB_g2n, Fields.setB_sc, Fields.setB_yl, Option.bind_eq_bind, Option.bind_some, Nat.reduceSub, Nat.reduceLT, if_true, if_false, Fields.base, Fields.hdr, Fields.acc, Fields.barIx, mod1, PredDst.bits, Acc.modBits, BarIx.ofBits_bits, bfmtOf_bits, extractLsb'_append_low, extractLsb'_append_high, extractLsb'_whole, getLsbD_append, getLsbD_ofBool_zero, LTy.ofCode_code, Fmt.ofCode_code, Rm.ofCode_code, Hint.ofCode_code, Scope.ofCode_code, unitOf_bits]

theorem CkptOp.enc_op (op fn : BitVec 8) (x : CkptOp) : (CkptOp.enc op fn x).op = op ∧ (CkptOp.enc op fn x).fn = fn := ⟨rfl, rfl⟩

theorem TrapOp.parse_enc (op fn : BitVec 8) (x : TrapOp) : TrapOp.parse (TrapOp.enc op fn x) = some x := by
  simp (disch := first | decide | rfl) only [TrapOp.parse, TrapOp.enc, getLsbD_zero, Bool.false_eq_true, Fields.srcB_setB, Fields.setB_d, Fields.setB_a, Fields.setB_c, Fields.setB_e, Fields.setB_ty, Fields.setB_cc, Fields.setB_mod, Fields.setB_g1i, Fields.setB_g1n, Fields.setB_g2i, Fields.setB_g2n, Fields.setB_sc, Fields.setB_yl, Option.bind_eq_bind, Option.bind_some, Nat.reduceSub, Nat.reduceLT, if_true, if_false, Fields.base, Fields.hdr, Fields.acc, Fields.barIx, mod1, PredDst.bits, Acc.modBits, BarIx.ofBits_bits, bfmtOf_bits, extractLsb'_append_low, extractLsb'_append_high, extractLsb'_whole, getLsbD_append, getLsbD_ofBool_zero, LTy.ofCode_code, Fmt.ofCode_code, Rm.ofCode_code, Hint.ofCode_code, Scope.ofCode_code, unitOf_bits]

theorem TrapOp.enc_op (op fn : BitVec 8) (x : TrapOp) : (TrapOp.enc op fn x).op = op ∧ (TrapOp.enc op fn x).fn = fn := ⟨rfl, rfl⟩

theorem CsrRd.parse_enc (op fn : BitVec 8) (x : CsrRd) : CsrRd.parse (CsrRd.enc op fn x) = some x := by
  simp (disch := first | decide | rfl) only [CsrRd.parse, CsrRd.enc, getLsbD_zero, Bool.false_eq_true, Fields.srcB_setB, Fields.setB_d, Fields.setB_a, Fields.setB_c, Fields.setB_e, Fields.setB_ty, Fields.setB_cc, Fields.setB_mod, Fields.setB_g1i, Fields.setB_g1n, Fields.setB_g2i, Fields.setB_g2n, Fields.setB_sc, Fields.setB_yl, Option.bind_eq_bind, Option.bind_some, Nat.reduceSub, Nat.reduceLT, if_true, if_false, Fields.base, Fields.hdr, Fields.acc, Fields.barIx, mod1, PredDst.bits, Acc.modBits, BarIx.ofBits_bits, bfmtOf_bits, extractLsb'_append_low, extractLsb'_append_high, extractLsb'_whole, getLsbD_append, getLsbD_ofBool_zero, LTy.ofCode_code, Fmt.ofCode_code, Rm.ofCode_code, Hint.ofCode_code, Scope.ofCode_code, unitOf_bits]

theorem CsrRd.enc_op (op fn : BitVec 8) (x : CsrRd) : (CsrRd.enc op fn x).op = op ∧ (CsrRd.enc op fn x).fn = fn := ⟨rfl, rfl⟩

theorem CsrWr.parse_enc (op fn : BitVec 8) (x : CsrWr) : CsrWr.parse (CsrWr.enc op fn x) = some x := by
  simp (disch := first | decide | rfl) only [CsrWr.parse, CsrWr.enc, getLsbD_zero, Bool.false_eq_true, Fields.srcB_setB, Fields.setB_d, Fields.setB_a, Fields.setB_c, Fields.setB_e, Fields.setB_ty, Fields.setB_cc, Fields.setB_mod, Fields.setB_g1i, Fields.setB_g1n, Fields.setB_g2i, Fields.setB_g2n, Fields.setB_sc, Fields.setB_yl, Option.bind_eq_bind, Option.bind_some, Nat.reduceSub, Nat.reduceLT, if_true, if_false, Fields.base, Fields.hdr, Fields.acc, Fields.barIx, mod1, PredDst.bits, Acc.modBits, BarIx.ofBits_bits, bfmtOf_bits, extractLsb'_append_low, extractLsb'_append_high, extractLsb'_whole, getLsbD_append, getLsbD_ofBool_zero, LTy.ofCode_code, Fmt.ofCode_code, Rm.ofCode_code, Hint.ofCode_code, Scope.ofCode_code, unitOf_bits]

theorem CsrWr.enc_op (op fn : BitVec 8) (x : CsrWr) : (CsrWr.enc op fn x).op = op ∧ (CsrWr.enc op fn x).fn = fn := ⟨rfl, rfl⟩

theorem CinitOp.parse_enc (op fn : BitVec 8) (x : CinitOp) : CinitOp.parse (CinitOp.enc op fn x) = some x := by
  rcases x with ⟨h, log, a, _ | ⟨b, c, e⟩⟩
  all_goals simp only [CinitOp.enc]
  all_goals
    first
    | ( simp (disch := first | decide | rfl) only [CinitOp.parse, CinitOp.enc, getLsbD_zero, Bool.false_eq_true, Fields.srcB_setB, Fields.setB_d, Fields.setB_a, Fields.setB_c, Fields.setB_e, Fields.setB_ty, Fields.setB_cc, Fields.setB_mod, Fields.setB_g1i, Fields.setB_g1n, Fields.setB_g2i, Fields.setB_g2n, Fields.setB_sc, Fields.setB_yl, Option.bind_eq_bind, Option.bind_some, Nat.reduceSub, Nat.reduceLT, if_true, if_false, Fields.base, Fields.hdr, Fields.acc, Fields.barIx, mod1, PredDst.bits, Acc.modBits, BarIx.ofBits_bits, bfmtOf_bits, extractLsb'_append_low, extractLsb'_append_high, extractLsb'_whole, getLsbD_append, getLsbD_ofBool_zero, LTy.ofCode_code, Fmt.ofCode_code, Rm.ofCode_code, Hint.ofCode_code, Scope.ofCode_code, unitOf_bits]; rfl)
    | (simp (disch := first | decide | rfl) only [CinitOp.parse, getLsbD_zero, Bool.false_eq_true, Fields.srcB_setB, Fields.setB_d, Fields.setB_a, Fields.setB_c, Fields.setB_e, Fields.setB_ty, Fields.setB_cc, Fields.setB_mod, Fields.setB_g1i, Fields.setB_g1n, Fields.setB_g2i, Fields.setB_g2n, Fields.setB_sc, Fields.setB_yl, Option.bind_eq_bind, Option.bind_some, Nat.reduceSub, Nat.reduceLT, if_true, if_false, Fields.base, Fields.hdr, Fields.acc, Fields.barIx, mod1, PredDst.bits, Acc.modBits, BarIx.ofBits_bits, bfmtOf_bits, extractLsb'_append_low, extractLsb'_append_high, extractLsb'_whole, getLsbD_append, getLsbD_ofBool_zero, LTy.ofCode_code, Fmt.ofCode_code, Rm.ofCode_code, Hint.ofCode_code, Scope.ofCode_code, unitOf_bits])

theorem CinitOp.enc_op (op fn : BitVec 8) (x : CinitOp) : (CinitOp.enc op fn x).op = op ∧ (CinitOp.enc op fn x).fn = fn := by
  rcases x with ⟨h, log, a, _ | ⟨b, c, e⟩⟩
  · exact ⟨rfl, rfl⟩
  · exact ⟨Fields.setB_op _ _, Fields.setB_fn _ _⟩

end Sys2Proof
end

