-- ==== Sys2Proof/Laws/Maps.lean ====
section
/-! SUPPORT. The containers of State: reading after writing a sparse map or a keyed list, and the canonical
form that writing keeps. -/

namespace Sys2Proof.Machine

/-! ## Sparse maps -/

theorem sget_sdel {α : Type} (d : α) (l : List (Nat × α)) (k i : Nat) :
    sget d (sdel k l) i = if i = k then d else sget d l i := by
  induction l with
  | nil => simp [sdel, sget]
  | cons p l ih =>
    obtain ⟨j, v⟩ := p
    by_cases hj : j = k
    · subst hj
      simp only [sdel, if_true, ih, sget]
      by_cases hi : i = j
      · simp [hi]
      · simp [hi, Ne.symm hi]
    · simp only [sdel, if_neg hj, sget, ih]
      by_cases h : j = i
      · subst h; simp [hj]
      · simp [h]

theorem sget_sins {α : Type} (d : α) (k : Nat) (v : α) (l : List (Nat × α)) (i : Nat)
    (hl : sget d l k = d) (hn : ∀ p ∈ l, p.1 ≠ k) :
    sget d (sins k v l) i = if i = k then v else sget d l i := by
  induction l with
  | nil =>
    simp only [sins, sget]
    by_cases h : k = i
    · simp [h]
    · simp [h, Ne.symm h]
  | cons p l ih =>
    obtain ⟨j, u⟩ := p
    have hjk : j ≠ k := hn (j, u) (by simp)
    have hl' : sget d l k = d := by simpa [sget, hjk] using hl
    have hn' : ∀ p ∈ l, p.1 ≠ k := fun p hp => hn p (by simp [hp])
    by_cases hk : k < j
    · simp only [sins, if_pos hk, sget]
      by_cases h : k = i
      · simp [h]
      · simp [h, Ne.symm h]
    · simp only [sins, if_neg hk, sget, ih hl' hn']
      by_cases h : j = i
      · subst h; simp [hjk]
      · simp [h]

theorem sdel_ne {α : Type} (k : Nat) (l : List (Nat × α)) : ∀ p ∈ sdel k l, p.1 ≠ k := by
  induction l with
  | nil => simp [sdel]
  | cons p l ih =>
    obtain ⟨j, v⟩ := p
    by_cases hj : j = k
    · simpa [sdel, hj] using ih
    · intro q hq
      rcases (by simpa [sdel, hj] using hq : q = (j, v) ∨ q ∈ sdel k l) with rfl | h
      · exact hj
      · exact ih q h

/-- Reading after a write. -/
theorem sget_sset {α : Type} [DecidableEq α] (d : α) (l : List (Nat × α)) (k : Nat) (v : α) (i : Nat) :
    sget d (sset d l k v) i = if i = k then v else sget d l i := by
  unfold sset
  by_cases hv : v = d
  · rw [if_pos hv, sget_sdel, hv]
  · rw [if_neg hv, sget_sins _ _ _ _ _ (by rw [sget_sdel]; simp) (sdel_ne k l), sget_sdel]
    by_cases h : i = k <;> simp [h]

@[simp] theorem sget_sset_self {α : Type} [DecidableEq α] (d : α) (l : List (Nat × α)) (k : Nat) (v : α) :
    sget d (sset d l k v) k = v := by rw [sget_sset, if_pos rfl]

theorem sget_sset_ne {α : Type} [DecidableEq α] (d : α) (l : List (Nat × α)) {k i : Nat} (v : α) (h : i ≠ k) :
    sget d (sset d l k v) i = sget d l i := by rw [sget_sset, if_neg h]

/-! ## The canonical form -/

theorem mem_sdel {α : Type} {k : Nat} {l : List (Nat × α)} {p : Nat × α} (h : p ∈ sdel k l) : p ∈ l := by
  induction l with
  | nil => simp [sdel] at h
  | cons q l ih =>
    obtain ⟨j, v⟩ := q
    by_cases hj : j = k
    · simp only [sdel, if_pos hj] at h; exact List.mem_cons_of_mem _ (ih h)
    · simp only [sdel, if_neg hj, List.mem_cons] at h
      rcases h with rfl | h
      · simp
      · exact List.mem_cons_of_mem _ (ih h)

theorem mem_sins {α : Type} {k : Nat} {v : α} {l : List (Nat × α)} {p : Nat × α} (h : p ∈ sins k v l) :
    p = (k, v) ∨ p ∈ l := by
  induction l with
  | nil => left; simpa [sins] using h
  | cons q l ih =>
    obtain ⟨j, u⟩ := q
    by_cases hk : k < j
    · simpa [sins, hk] using h
    · simp only [sins, if_neg hk, List.mem_cons] at h
      rcases h with rfl | h
      · right; simp
      · rcases ih h with rfl | h
        · left; rfl
        · right; simp [h]

theorem swf_cons {α : Type} [DecidableEq α] (d : α) (p : Nat × α) (l : List (Nat × α)) :
    swf d (p :: l) = true ↔ p.2 ≠ d ∧ (∀ q ∈ l, p.1 < q.1) ∧ swf d l = true := by
  obtain ⟨k, v⟩ := p
  simp [swf, and_assoc]

theorem swf_sdel {α : Type} [DecidableEq α] (d : α) (k : Nat) (l : List (Nat × α)) (h : swf d l = true) :
    swf d (sdel k l) = true := by
  induction l with
  | nil => rfl
  | cons p l ih =>
    obtain ⟨hv, hlt, hl⟩ := (swf_cons d p l).1 h
    obtain ⟨j, v⟩ := p
    by_cases hj : j = k
    · simp only [sdel, if_pos hj]; exact ih hl
    · simp only [sdel, if_neg hj]
      exact (swf_cons _ _ _).2 ⟨hv, fun q hq => hlt q (mem_sdel hq), ih hl⟩

theorem swf_sins {α : Type} [DecidableEq α] (d : α) (k : Nat) (v : α) (l : List (Nat × α)) (hv : v ≠ d)
    (hn : ∀ p ∈ l, p.1 ≠ k) (h : swf d l = true) : swf d (sins k v l) = true := by
  induction l with
  | nil => simp [sins, swf, hv]
  | cons p l ih =>
    obtain ⟨hu, hlt, hl⟩ := (swf_cons d p l).1 h
    obtain ⟨j, u⟩ := p
    by_cases hk : k < j
    · simp only [sins, if_pos hk]
      refine (swf_cons _ _ _).2 ⟨hv, fun q hq => ?_, h⟩
      rcases List.mem_cons.1 hq with rfl | hq
      · exact hk
      · exact Nat.lt_trans hk (hlt q hq)
    · simp only [sins, if_neg hk]
      have hjk : j < k := Nat.lt_of_le_of_ne (Nat.le_of_not_lt hk) (hn (j, u) (by simp))
      refine (swf_cons _ _ _).2 ⟨hu, fun q hq => ?_, ih (fun p hp => hn p (by simp [hp])) hl⟩
      rcases mem_sins hq with rfl | hq
      · exact hjk
      · exact hlt q hq

/-- Writing keeps the canonical form. -/
theorem swf_sset {α : Type} [DecidableEq α] (d : α) (l : List (Nat × α)) (k : Nat) (v : α) (h : swf d l = true) :
    swf d (sset d l k v) = true := by
  unfold sset
  by_cases hv : v = d
  · rw [if_pos hv]; exact swf_sdel d k l h
  · rw [if_neg hv]; exact swf_sins d k v _ hv (sdel_ne k l) (swf_sdel d k l h)

/-! ## Several writes -/

/-- A key that no entry of the list names keeps its value. -/
theorem sget_putAll_miss {α : Type} [DecidableEq α] (d : α) (us m : List (Nat × α)) (i : Nat)
    (h : ∀ p ∈ us, p.1 ≠ i) : sget d (putAll d m us) i = sget d m i := by
  induction us generalizing m with
  | nil => rfl
  | cons u us ih =>
    simp only [putAll]
    rw [ih _ (fun p hp => h p (by simp [hp])), sget_sset_ne]
    exact fun e => h u (by simp) e.symm

/-- A key whose every entry holds one value reads it. -/
theorem sget_putAll_hit {α : Type} [DecidableEq α] (d : α) (us m : List (Nat × α)) (i : Nat) (v : α)
    (hmem : ∃ p ∈ us, p.1 = i) (hv : ∀ p ∈ us, p.1 = i → p.2 = v) : sget d (putAll d m us) i = v := by
  induction us generalizing m with
  | nil => simp at hmem
  | cons u us ih =>
    simp only [putAll]
    by_cases hu : ∃ p ∈ us, p.1 = i
    · exact ih _ hu fun p hp => hv p (by simp [hp])
    · have hmiss : ∀ p ∈ us, p.1 ≠ i := fun p hp e => hu ⟨p, hp, e⟩
      rw [sget_putAll_miss d us _ i hmiss]
      have hui : u.1 = i := by
        obtain ⟨p, hp, e⟩ := hmem
        rcases List.mem_cons.1 hp with rfl | hp
        · exact e
        · exact absurd e (hmiss p hp)
      rw [← hui, sget_sset_self]
      exact hv u (by simp) hui

theorem swf_putAll {α : Type} [DecidableEq α] (d : α) (us m : List (Nat × α)) (h : swf d m = true) :
    swf d (putAll d m us) = true := by
  induction us generalizing m with
  | nil => exact h
  | cons u us ih => exact ih _ (swf_sset d m u.1 u.2 h)

/-! ## Keyed lists -/

@[simp] theorem alook_aput_self {κ ν : Type} [DecidableEq κ] (k : κ) (v : ν) (l : List (κ × ν)) :
    alook k (aput k v l) = some v := by
  induction l with
  | nil => simp [aput, alook]
  | cons p l ih =>
    obtain ⟨j, u⟩ := p
    by_cases h : j = k
    · simp [aput, h, alook]
    · simp [aput, h, alook, ih]

theorem alook_aput_ne {κ ν : Type} [DecidableEq κ] {k i : κ} (v : ν) (l : List (κ × ν)) (h : i ≠ k) :
    alook i (aput k v l) = alook i l := by
  induction l with
  | nil => simp [aput, alook, Ne.symm h]
  | cons p l ih =>
    obtain ⟨j, u⟩ := p
    by_cases hj : j = k
    · subst hj; simp [aput, alook, Ne.symm h]
    · by_cases hi : j = i
      · subst hi; simp [aput, hj, alook]
      · simp [aput, hj, alook, hi, ih]

theorem alook_adel_ne {κ ν : Type} [DecidableEq κ] {k i : κ} (l : List (κ × ν)) (h : i ≠ k) :
    alook i (adel k l) = alook i l := by
  induction l with
  | nil => rfl
  | cons p l ih =>
    obtain ⟨j, u⟩ := p
    by_cases hj : j = k
    · subst hj; simp [adel, alook, Ne.symm h, ih]
    · by_cases hi : j = i
      · subst hi; simp [adel, hj, alook]
      · simp [adel, hj, alook, hi, ih]

@[simp] theorem alook_adel_self {κ ν : Type} [DecidableEq κ] (k : κ) (l : List (κ × ν)) :
    alook k (adel k l) = none := by
  induction l with
  | nil => rfl
  | cons p l ih =>
    obtain ⟨j, u⟩ := p
    by_cases hj : j = k
    · simp [adel, hj, ih]
    · simp [adel, hj, alook, ih]

end Sys2Proof.Machine
end

