-- ==== Sys2Proof/Laws/State.lean ====
section
/-! SUPPORT. One lemma per field and update of State: an update leaves every field it does not name. -/

namespace Sys2Proof.Machine

variable (s : State)

/-! ## tick -/

@[simp] theorem State.tick_agenda (ns : Nat) : (s.tick ns).agenda = s.agenda := rfl
@[simp] theorem State.tick_upsets (ns : Nat) : (s.tick ns).upsets = s.upsets := rfl
@[simp] theorem State.tick_cur (ns : Nat) : (s.tick ns).cur = s.cur := rfl
@[simp] theorem State.tick_clockOf (ns : Nat) : (s.tick ns).clockOf = s.clockOf := rfl
@[simp] theorem State.tick_ports (ns : Nat) : (s.tick ns).ports = s.ports := rfl
@[simp] theorem State.tick_nextId (ns : Nat) : (s.tick ns).nextId = s.nextId := rfl
@[simp] theorem State.tick_freeCtr (ns : Nat) : (s.tick ns).freeCtr = s.freeCtr := rfl
@[simp] theorem State.tick_mem (ns : Nat) : (s.tick ns).mem = s.mem := rfl
@[simp] theorem State.tick_warps (ns : Nat) : (s.tick ns).warps = s.warps := rfl
@[simp] theorem State.tick_seqs (ns : Nat) : (s.tick ns).seqs = s.seqs := rfl
@[simp] theorem State.tick_blocks (ns : Nat) : (s.tick ns).blocks = s.blocks := rfl
@[simp] theorem State.tick_accs (ns : Nat) : (s.tick ns).accs = s.accs := rfl
@[simp] theorem State.tick_parks (ns : Nat) : (s.tick ns).parks = s.parks := rfl
@[simp] theorem State.tick_pendq (ns : Nat) : (s.tick ns).pendq = s.pendq := rfl
@[simp] theorem State.tick_l1 (ns : Nat) : (s.tick ns).l1 = s.l1 := rfl
@[simp] theorem State.tick_msc (ns : Nat) : (s.tick ns).msc = s.msc := rfl
@[simp] theorem State.tick_tlb (ns : Nat) : (s.tick ns).tlb = s.tlb := rfl
@[simp] theorem State.tick_poison (ns : Nat) : (s.tick ns).poison = s.poison := rfl
@[simp] theorem State.tick_bad (ns : Nat) : (s.tick ns).bad = s.bad := rfl
@[simp] theorem State.tick_badPart (ns : Nat) : (s.tick ns).badPart = s.badPart := rfl
@[simp] theorem State.tick_remotes (ns : Nat) : (s.tick ns).remotes = s.remotes := rfl
@[simp] theorem State.tick_kept (ns : Nat) : (s.tick ns).kept = s.kept := rfl
@[simp] theorem State.tick_hostOut (ns : Nat) : (s.tick ns).hostOut = s.hostOut := rfl
@[simp] theorem State.tick_hostIn (ns : Nat) : (s.tick ns).hostIn = s.hostIn := rfl
@[simp] theorem State.tick_copies (ns : Nat) : (s.tick ns).copies = s.copies := rfl
@[simp] theorem State.tick_early (ns : Nat) : (s.tick ns).early = s.early := rfl
@[simp] theorem State.tick_travQ (ns : Nat) : (s.tick ns).travQ = s.travQ := rfl
@[simp] theorem State.tick_queries (ns : Nat) : (s.tick ns).queries = s.queries := rfl
@[simp] theorem State.tick_conts (ns : Nat) : (s.tick ns).conts = s.conts := rfl
@[simp] theorem State.tick_rings (ns : Nat) : (s.tick ns).rings = s.rings := rfl
@[simp] theorem State.tick_takes (ns : Nat) : (s.tick ns).takes = s.takes := rfl
@[simp] theorem State.tick_pubs (ns : Nat) : (s.tick ns).pubs = s.pubs := rfl
@[simp] theorem State.tick_jobs (ns : Nat) : (s.tick ns).jobs = s.jobs := rfl
@[simp] theorem State.tick_ctxRecs (ns : Nat) : (s.tick ns).ctxRecs = s.ctxRecs := rfl
@[simp] theorem State.tick_msix (ns : Nat) : (s.tick ns).msix = s.msix := rfl
@[simp] theorem State.tick_fills (ns : Nat) : (s.tick ns).fills = s.fills := rfl
@[simp] theorem State.tick_frames (ns : Nat) : (s.tick ns).frames = s.frames := rfl
@[simp] theorem State.tick_apart (ns : Nat) : (s.tick ns).apart = s.apart := rfl

/-! ## setWarp -/

@[simp] theorem State.setWarp_agenda (k : Issuer) (w : Warp) : (s.setWarp k w).agenda = s.agenda := rfl
@[simp] theorem State.setWarp_upsets (k : Issuer) (w : Warp) : (s.setWarp k w).upsets = s.upsets := rfl
@[simp] theorem State.setWarp_cur (k : Issuer) (w : Warp) : (s.setWarp k w).cur = s.cur := rfl
@[simp] theorem State.setWarp_cycle (k : Issuer) (w : Warp) : (s.setWarp k w).cycle = s.cycle := rfl
@[simp] theorem State.setWarp_clockOf (k : Issuer) (w : Warp) : (s.setWarp k w).clockOf = s.clockOf := rfl
@[simp] theorem State.setWarp_clocks (k : Issuer) (w : Warp) : (s.setWarp k w).clocks = s.clocks := rfl
@[simp] theorem State.setWarp_half (k : Issuer) (w : Warp) : (s.setWarp k w).half = s.half := rfl
@[simp] theorem State.setWarp_ports (k : Issuer) (w : Warp) : (s.setWarp k w).ports = s.ports := rfl
@[simp] theorem State.setWarp_nextId (k : Issuer) (w : Warp) : (s.setWarp k w).nextId = s.nextId := rfl
@[simp] theorem State.setWarp_freeCtr (k : Issuer) (w : Warp) : (s.setWarp k w).freeCtr = s.freeCtr := rfl
@[simp] theorem State.setWarp_mem (k : Issuer) (w : Warp) : (s.setWarp k w).mem = s.mem := rfl
@[simp] theorem State.setWarp_seqs (k : Issuer) (w : Warp) : (s.setWarp k w).seqs = s.seqs := rfl
@[simp] theorem State.setWarp_blocks (k : Issuer) (w : Warp) : (s.setWarp k w).blocks = s.blocks := rfl
@[simp] theorem State.setWarp_dieA (k : Issuer) (w : Warp) : (s.setWarp k w).dieA = s.dieA := rfl
@[simp] theorem State.setWarp_dieB (k : Issuer) (w : Warp) : (s.setWarp k w).dieB = s.dieB := rfl
@[simp] theorem State.setWarp_accs (k : Issuer) (w : Warp) : (s.setWarp k w).accs = s.accs := rfl
@[simp] theorem State.setWarp_parks (k : Issuer) (w : Warp) : (s.setWarp k w).parks = s.parks := rfl
@[simp] theorem State.setWarp_pendq (k : Issuer) (w : Warp) : (s.setWarp k w).pendq = s.pendq := rfl
@[simp] theorem State.setWarp_l1 (k : Issuer) (w : Warp) : (s.setWarp k w).l1 = s.l1 := rfl
@[simp] theorem State.setWarp_msc (k : Issuer) (w : Warp) : (s.setWarp k w).msc = s.msc := rfl
@[simp] theorem State.setWarp_tlb (k : Issuer) (w : Warp) : (s.setWarp k w).tlb = s.tlb := rfl
@[simp] theorem State.setWarp_poison (k : Issuer) (w : Warp) : (s.setWarp k w).poison = s.poison := rfl
@[simp] theorem State.setWarp_bad (k : Issuer) (w : Warp) : (s.setWarp k w).bad = s.bad := rfl
@[simp] theorem State.setWarp_badPart (k : Issuer) (w : Warp) : (s.setWarp k w).badPart = s.badPart := rfl
@[simp] theorem State.setWarp_remotes (k : Issuer) (w : Warp) : (s.setWarp k w).remotes = s.remotes := rfl
@[simp] theorem State.setWarp_kept (k : Issuer) (w : Warp) : (s.setWarp k w).kept = s.kept := rfl
@[simp] theorem State.setWarp_hostOut (k : Issuer) (w : Warp) : (s.setWarp k w).hostOut = s.hostOut := rfl
@[simp] theorem State.setWarp_hostIn (k : Issuer) (w : Warp) : (s.setWarp k w).hostIn = s.hostIn := rfl
@[simp] theorem State.setWarp_copies (k : Issuer) (w : Warp) : (s.setWarp k w).copies = s.copies := rfl
@[simp] theorem State.setWarp_early (k : Issuer) (w : Warp) : (s.setWarp k w).early = s.early := rfl
@[simp] theorem State.setWarp_travQ (k : Issuer) (w : Warp) : (s.setWarp k w).travQ = s.travQ := rfl
@[simp] theorem State.setWarp_queries (k : Issuer) (w : Warp) : (s.setWarp k w).queries = s.queries := rfl
@[simp] theorem State.setWarp_conts (k : Issuer) (w : Warp) : (s.setWarp k w).conts = s.conts := rfl
@[simp] theorem State.setWarp_rings (k : Issuer) (w : Warp) : (s.setWarp k w).rings = s.rings := rfl
@[simp] theorem State.setWarp_takes (k : Issuer) (w : Warp) : (s.setWarp k w).takes = s.takes := rfl
@[simp] theorem State.setWarp_pubs (k : Issuer) (w : Warp) : (s.setWarp k w).pubs = s.pubs := rfl
@[simp] theorem State.setWarp_jobs (k : Issuer) (w : Warp) : (s.setWarp k w).jobs = s.jobs := rfl
@[simp] theorem State.setWarp_ctxRecs (k : Issuer) (w : Warp) : (s.setWarp k w).ctxRecs = s.ctxRecs := rfl
@[simp] theorem State.setWarp_msix (k : Issuer) (w : Warp) : (s.setWarp k w).msix = s.msix := rfl
@[simp] theorem State.setWarp_fills (k : Issuer) (w : Warp) : (s.setWarp k w).fills = s.fills := rfl
@[simp] theorem State.setWarp_frames (k : Issuer) (w : Warp) : (s.setWarp k w).frames = s.frames := rfl
@[simp] theorem State.setWarp_apart (k : Issuer) (w : Warp) : (s.setWarp k w).apart = s.apart := rfl

/-! ## setBlock -/

@[simp] theorem State.setBlock_agenda (b : Block) : (s.setBlock b).agenda = s.agenda := rfl
@[simp] theorem State.setBlock_upsets (b : Block) : (s.setBlock b).upsets = s.upsets := rfl
@[simp] theorem State.setBlock_cur (b : Block) : (s.setBlock b).cur = s.cur := rfl
@[simp] theorem State.setBlock_cycle (b : Block) : (s.setBlock b).cycle = s.cycle := rfl
@[simp] theorem State.setBlock_clockOf (b : Block) : (s.setBlock b).clockOf = s.clockOf := rfl
@[simp] theorem State.setBlock_clocks (b : Block) : (s.setBlock b).clocks = s.clocks := rfl
@[simp] theorem State.setBlock_half (b : Block) : (s.setBlock b).half = s.half := rfl
@[simp] theorem State.setBlock_ports (b : Block) : (s.setBlock b).ports = s.ports := rfl
@[simp] theorem State.setBlock_nextId (b : Block) : (s.setBlock b).nextId = s.nextId := rfl
@[simp] theorem State.setBlock_freeCtr (b : Block) : (s.setBlock b).freeCtr = s.freeCtr := rfl
@[simp] theorem State.setBlock_mem (b : Block) : (s.setBlock b).mem = s.mem := rfl
@[simp] theorem State.setBlock_warps (b : Block) : (s.setBlock b).warps = s.warps := rfl
@[simp] theorem State.setBlock_seqs (b : Block) : (s.setBlock b).seqs = s.seqs := rfl
@[simp] theorem State.setBlock_dieA (b : Block) : (s.setBlock b).dieA = s.dieA := rfl
@[simp] theorem State.setBlock_dieB (b : Block) : (s.setBlock b).dieB = s.dieB := rfl
@[simp] theorem State.setBlock_accs (b : Block) : (s.setBlock b).accs = s.accs := rfl
@[simp] theorem State.setBlock_parks (b : Block) : (s.setBlock b).parks = s.parks := rfl
@[simp] theorem State.setBlock_pendq (b : Block) : (s.setBlock b).pendq = s.pendq := rfl
@[simp] theorem State.setBlock_l1 (b : Block) : (s.setBlock b).l1 = s.l1 := rfl
@[simp] theorem State.setBlock_msc (b : Block) : (s.setBlock b).msc = s.msc := rfl
@[simp] theorem State.setBlock_tlb (b : Block) : (s.setBlock b).tlb = s.tlb := rfl
@[simp] theorem State.setBlock_poison (b : Block) : (s.setBlock b).poison = s.poison := rfl
@[simp] theorem State.setBlock_bad (b : Block) : (s.setBlock b).bad = s.bad := rfl
@[simp] theorem State.setBlock_badPart (b : Block) : (s.setBlock b).badPart = s.badPart := rfl
@[simp] theorem State.setBlock_remotes (b : Block) : (s.setBlock b).remotes = s.remotes := rfl
@[simp] theorem State.setBlock_kept (b : Block) : (s.setBlock b).kept = s.kept := rfl
@[simp] theorem State.setBlock_hostOut (b : Block) : (s.setBlock b).hostOut = s.hostOut := rfl
@[simp] theorem State.setBlock_hostIn (b : Block) : (s.setBlock b).hostIn = s.hostIn := rfl
@[simp] theorem State.setBlock_copies (b : Block) : (s.setBlock b).copies = s.copies := rfl
@[simp] theorem State.setBlock_early (b : Block) : (s.setBlock b).early = s.early := rfl
@[simp] theorem State.setBlock_travQ (b : Block) : (s.setBlock b).travQ = s.travQ := rfl
@[simp] theorem State.setBlock_queries (b : Block) : (s.setBlock b).queries = s.queries := rfl
@[simp] theorem State.setBlock_conts (b : Block) : (s.setBlock b).conts = s.conts := rfl
@[simp] theorem State.setBlock_rings (b : Block) : (s.setBlock b).rings = s.rings := rfl
@[simp] theorem State.setBlock_takes (b : Block) : (s.setBlock b).takes = s.takes := rfl
@[simp] theorem State.setBlock_pubs (b : Block) : (s.setBlock b).pubs = s.pubs := rfl
@[simp] theorem State.setBlock_jobs (b : Block) : (s.setBlock b).jobs = s.jobs := rfl
@[simp] theorem State.setBlock_ctxRecs (b : Block) : (s.setBlock b).ctxRecs = s.ctxRecs := rfl
@[simp] theorem State.setBlock_msix (b : Block) : (s.setBlock b).msix = s.msix := rfl
@[simp] theorem State.setBlock_fills (b : Block) : (s.setBlock b).fills = s.fills := rfl
@[simp] theorem State.setBlock_frames (b : Block) : (s.setBlock b).frames = s.frames := rfl
@[simp] theorem State.setBlock_apart (b : Block) : (s.setBlock b).apart = s.apart := rfl

/-! ## setJob -/

@[simp] theorem State.setJob_agenda (j : Job) : (s.setJob j).agenda = s.agenda := rfl
@[simp] theorem State.setJob_upsets (j : Job) : (s.setJob j).upsets = s.upsets := rfl
@[simp] theorem State.setJob_cur (j : Job) : (s.setJob j).cur = s.cur := rfl
@[simp] theorem State.setJob_cycle (j : Job) : (s.setJob j).cycle = s.cycle := rfl
@[simp] theorem State.setJob_clockOf (j : Job) : (s.setJob j).clockOf = s.clockOf := rfl
@[simp] theorem State.setJob_clocks (j : Job) : (s.setJob j).clocks = s.clocks := rfl
@[simp] theorem State.setJob_half (j : Job) : (s.setJob j).half = s.half := rfl
@[simp] theorem State.setJob_ports (j : Job) : (s.setJob j).ports = s.ports := rfl
@[simp] theorem State.setJob_nextId (j : Job) : (s.setJob j).nextId = s.nextId := rfl
@[simp] theorem State.setJob_freeCtr (j : Job) : (s.setJob j).freeCtr = s.freeCtr := rfl
@[simp] theorem State.setJob_mem (j : Job) : (s.setJob j).mem = s.mem := rfl
@[simp] theorem State.setJob_warps (j : Job) : (s.setJob j).warps = s.warps := rfl
@[simp] theorem State.setJob_seqs (j : Job) : (s.setJob j).seqs = s.seqs := rfl
@[simp] theorem State.setJob_blocks (j : Job) : (s.setJob j).blocks = s.blocks := rfl
@[simp] theorem State.setJob_dieA (j : Job) : (s.setJob j).dieA = s.dieA := rfl
@[simp] theorem State.setJob_dieB (j : Job) : (s.setJob j).dieB = s.dieB := rfl
@[simp] theorem State.setJob_accs (j : Job) : (s.setJob j).accs = s.accs := rfl
@[simp] theorem State.setJob_parks (j : Job) : (s.setJob j).parks = s.parks := rfl
@[simp] theorem State.setJob_pendq (j : Job) : (s.setJob j).pendq = s.pendq := rfl
@[simp] theorem State.setJob_l1 (j : Job) : (s.setJob j).l1 = s.l1 := rfl
@[simp] theorem State.setJob_msc (j : Job) : (s.setJob j).msc = s.msc := rfl
@[simp] theorem State.setJob_tlb (j : Job) : (s.setJob j).tlb = s.tlb := rfl
@[simp] theorem State.setJob_poison (j : Job) : (s.setJob j).poison = s.poison := rfl
@[simp] theorem State.setJob_bad (j : Job) : (s.setJob j).bad = s.bad := rfl
@[simp] theorem State.setJob_badPart (j : Job) : (s.setJob j).badPart = s.badPart := rfl
@[simp] theorem State.setJob_remotes (j : Job) : (s.setJob j).remotes = s.remotes := rfl
@[simp] theorem State.setJob_kept (j : Job) : (s.setJob j).kept = s.kept := rfl
@[simp] theorem State.setJob_hostOut (j : Job) : (s.setJob j).hostOut = s.hostOut := rfl
@[simp] theorem State.setJob_hostIn (j : Job) : (s.setJob j).hostIn = s.hostIn := rfl
@[simp] theorem State.setJob_copies (j : Job) : (s.setJob j).copies = s.copies := rfl
@[simp] theorem State.setJob_early (j : Job) : (s.setJob j).early = s.early := rfl
@[simp] theorem State.setJob_travQ (j : Job) : (s.setJob j).travQ = s.travQ := rfl
@[simp] theorem State.setJob_queries (j : Job) : (s.setJob j).queries = s.queries := rfl
@[simp] theorem State.setJob_conts (j : Job) : (s.setJob j).conts = s.conts := rfl
@[simp] theorem State.setJob_rings (j : Job) : (s.setJob j).rings = s.rings := rfl
@[simp] theorem State.setJob_takes (j : Job) : (s.setJob j).takes = s.takes := rfl
@[simp] theorem State.setJob_pubs (j : Job) : (s.setJob j).pubs = s.pubs := rfl
@[simp] theorem State.setJob_ctxRecs (j : Job) : (s.setJob j).ctxRecs = s.ctxRecs := rfl
@[simp] theorem State.setJob_msix (j : Job) : (s.setJob j).msix = s.msix := rfl
@[simp] theorem State.setJob_fills (j : Job) : (s.setJob j).fills = s.fills := rfl
@[simp] theorem State.setJob_frames (j : Job) : (s.setJob j).frames = s.frames := rfl
@[simp] theorem State.setJob_apart (j : Job) : (s.setJob j).apart = s.apart := rfl

/-! ## setSeq -/

@[simp] theorem State.setSeq_agenda (q : SeqId) (x : SeqRec) : (s.setSeq q x).agenda = s.agenda := rfl
@[simp] theorem State.setSeq_upsets (q : SeqId) (x : SeqRec) : (s.setSeq q x).upsets = s.upsets := rfl
@[simp] theorem State.setSeq_cur (q : SeqId) (x : SeqRec) : (s.setSeq q x).cur = s.cur := rfl
@[simp] theorem State.setSeq_cycle (q : SeqId) (x : SeqRec) : (s.setSeq q x).cycle = s.cycle := rfl
@[simp] theorem State.setSeq_clockOf (q : SeqId) (x : SeqRec) : (s.setSeq q x).clockOf = s.clockOf := rfl
@[simp] theorem State.setSeq_clocks (q : SeqId) (x : SeqRec) : (s.setSeq q x).clocks = s.clocks := rfl
@[simp] theorem State.setSeq_half (q : SeqId) (x : SeqRec) : (s.setSeq q x).half = s.half := rfl
@[simp] theorem State.setSeq_ports (q : SeqId) (x : SeqRec) : (s.setSeq q x).ports = s.ports := rfl
@[simp] theorem State.setSeq_nextId (q : SeqId) (x : SeqRec) : (s.setSeq q x).nextId = s.nextId := rfl
@[simp] theorem State.setSeq_freeCtr (q : SeqId) (x : SeqRec) : (s.setSeq q x).freeCtr = s.freeCtr := rfl
@[simp] theorem State.setSeq_mem (q : SeqId) (x : SeqRec) : (s.setSeq q x).mem = s.mem := rfl
@[simp] theorem State.setSeq_warps (q : SeqId) (x : SeqRec) : (s.setSeq q x).warps = s.warps := rfl
@[simp] theorem State.setSeq_blocks (q : SeqId) (x : SeqRec) : (s.setSeq q x).blocks = s.blocks := rfl
@[simp] theorem State.setSeq_dieA (q : SeqId) (x : SeqRec) : (s.setSeq q x).dieA = s.dieA := rfl
@[simp] theorem State.setSeq_dieB (q : SeqId) (x : SeqRec) : (s.setSeq q x).dieB = s.dieB := rfl
@[simp] theorem State.setSeq_accs (q : SeqId) (x : SeqRec) : (s.setSeq q x).accs = s.accs := rfl
@[simp] theorem State.setSeq_parks (q : SeqId) (x : SeqRec) : (s.setSeq q x).parks = s.parks := rfl
@[simp] theorem State.setSeq_pendq (q : SeqId) (x : SeqRec) : (s.setSeq q x).pendq = s.pendq := rfl
@[simp] theorem State.setSeq_l1 (q : SeqId) (x : SeqRec) : (s.setSeq q x).l1 = s.l1 := rfl
@[simp] theorem State.setSeq_msc (q : SeqId) (x : SeqRec) : (s.setSeq q x).msc = s.msc := rfl
@[simp] theorem State.setSeq_tlb (q : SeqId) (x : SeqRec) : (s.setSeq q x).tlb = s.tlb := rfl
@[simp] theorem State.setSeq_poison (q : SeqId) (x : SeqRec) : (s.setSeq q x).poison = s.poison := rfl
@[simp] theorem State.setSeq_bad (q : SeqId) (x : SeqRec) : (s.setSeq q x).bad = s.bad := rfl
@[simp] theorem State.setSeq_badPart (q : SeqId) (x : SeqRec) : (s.setSeq q x).badPart = s.badPart := rfl
@[simp] theorem State.setSeq_remotes (q : SeqId) (x : SeqRec) : (s.setSeq q x).remotes = s.remotes := rfl
@[simp] theorem State.setSeq_kept (q : SeqId) (x : SeqRec) : (s.setSeq q x).kept = s.kept := rfl
@[simp] theorem State.setSeq_hostOut (q : SeqId) (x : SeqRec) : (s.setSeq q x).hostOut = s.hostOut := rfl
@[simp] theorem State.setSeq_hostIn (q : SeqId) (x : SeqRec) : (s.setSeq q x).hostIn = s.hostIn := rfl
@[simp] theorem State.setSeq_copies (q : SeqId) (x : SeqRec) : (s.setSeq q x).copies = s.copies := rfl
@[simp] theorem State.setSeq_early (q : SeqId) (x : SeqRec) : (s.setSeq q x).early = s.early := rfl
@[simp] theorem State.setSeq_travQ (q : SeqId) (x : SeqRec) : (s.setSeq q x).travQ = s.travQ := rfl
@[simp] theorem State.setSeq_queries (q : SeqId) (x : SeqRec) : (s.setSeq q x).queries = s.queries := rfl
@[simp] theorem State.setSeq_conts (q : SeqId) (x : SeqRec) : (s.setSeq q x).conts = s.conts := rfl
@[simp] theorem State.setSeq_rings (q : SeqId) (x : SeqRec) : (s.setSeq q x).rings = s.rings := rfl
@[simp] theorem State.setSeq_takes (q : SeqId) (x : SeqRec) : (s.setSeq q x).takes = s.takes := rfl
@[simp] theorem State.setSeq_pubs (q : SeqId) (x : SeqRec) : (s.setSeq q x).pubs = s.pubs := rfl
@[simp] theorem State.setSeq_jobs (q : SeqId) (x : SeqRec) : (s.setSeq q x).jobs = s.jobs := rfl
@[simp] theorem State.setSeq_ctxRecs (q : SeqId) (x : SeqRec) : (s.setSeq q x).ctxRecs = s.ctxRecs := rfl
@[simp] theorem State.setSeq_msix (q : SeqId) (x : SeqRec) : (s.setSeq q x).msix = s.msix := rfl
@[simp] theorem State.setSeq_fills (q : SeqId) (x : SeqRec) : (s.setSeq q x).fills = s.fills := rfl
@[simp] theorem State.setSeq_frames (q : SeqId) (x : SeqRec) : (s.setSeq q x).frames = s.frames := rfl
@[simp] theorem State.setSeq_apart (q : SeqId) (x : SeqRec) : (s.setSeq q x).apart = s.apart := rfl

/-! ## setAcc -/

@[simp] theorem State.setAcc_agenda (a : Acc) : (s.setAcc a).agenda = s.agenda := rfl
@[simp] theorem State.setAcc_upsets (a : Acc) : (s.setAcc a).upsets = s.upsets := rfl
@[simp] theorem State.setAcc_cur (a : Acc) : (s.setAcc a).cur = s.cur := rfl
@[simp] theorem State.setAcc_cycle (a : Acc) : (s.setAcc a).cycle = s.cycle := rfl
@[simp] theorem State.setAcc_clockOf (a : Acc) : (s.setAcc a).clockOf = s.clockOf := rfl
@[simp] theorem State.setAcc_clocks (a : Acc) : (s.setAcc a).clocks = s.clocks := rfl
@[simp] theorem State.setAcc_half (a : Acc) : (s.setAcc a).half = s.half := rfl
@[simp] theorem State.setAcc_ports (a : Acc) : (s.setAcc a).ports = s.ports := rfl
@[simp] theorem State.setAcc_nextId (a : Acc) : (s.setAcc a).nextId = s.nextId := rfl
@[simp] theorem State.setAcc_freeCtr (a : Acc) : (s.setAcc a).freeCtr = s.freeCtr := rfl
@[simp] theorem State.setAcc_mem (a : Acc) : (s.setAcc a).mem = s.mem := rfl
@[simp] theorem State.setAcc_warps (a : Acc) : (s.setAcc a).warps = s.warps := rfl
@[simp] theorem State.setAcc_seqs (a : Acc) : (s.setAcc a).seqs = s.seqs := rfl
@[simp] theorem State.setAcc_blocks (a : Acc) : (s.setAcc a).blocks = s.blocks := rfl
@[simp] theorem State.setAcc_dieA (a : Acc) : (s.setAcc a).dieA = s.dieA := rfl
@[simp] theorem State.setAcc_dieB (a : Acc) : (s.setAcc a).dieB = s.dieB := rfl
@[simp] theorem State.setAcc_parks (a : Acc) : (s.setAcc a).parks = s.parks := rfl
@[simp] theorem State.setAcc_pendq (a : Acc) : (s.setAcc a).pendq = s.pendq := rfl
@[simp] theorem State.setAcc_l1 (a : Acc) : (s.setAcc a).l1 = s.l1 := rfl
@[simp] theorem State.setAcc_msc (a : Acc) : (s.setAcc a).msc = s.msc := rfl
@[simp] theorem State.setAcc_tlb (a : Acc) : (s.setAcc a).tlb = s.tlb := rfl
@[simp] theorem State.setAcc_poison (a : Acc) : (s.setAcc a).poison = s.poison := rfl
@[simp] theorem State.setAcc_bad (a : Acc) : (s.setAcc a).bad = s.bad := rfl
@[simp] theorem State.setAcc_badPart (a : Acc) : (s.setAcc a).badPart = s.badPart := rfl
@[simp] theorem State.setAcc_remotes (a : Acc) : (s.setAcc a).remotes = s.remotes := rfl
@[simp] theorem State.setAcc_kept (a : Acc) : (s.setAcc a).kept = s.kept := rfl
@[simp] theorem State.setAcc_hostOut (a : Acc) : (s.setAcc a).hostOut = s.hostOut := rfl
@[simp] theorem State.setAcc_hostIn (a : Acc) : (s.setAcc a).hostIn = s.hostIn := rfl
@[simp] theorem State.setAcc_copies (a : Acc) : (s.setAcc a).copies = s.copies := rfl
@[simp] theorem State.setAcc_early (a : Acc) : (s.setAcc a).early = s.early := rfl
@[simp] theorem State.setAcc_travQ (a : Acc) : (s.setAcc a).travQ = s.travQ := rfl
@[simp] theorem State.setAcc_queries (a : Acc) : (s.setAcc a).queries = s.queries := rfl
@[simp] theorem State.setAcc_conts (a : Acc) : (s.setAcc a).conts = s.conts := rfl
@[simp] theorem State.setAcc_rings (a : Acc) : (s.setAcc a).rings = s.rings := rfl
@[simp] theorem State.setAcc_takes (a : Acc) : (s.setAcc a).takes = s.takes := rfl
@[simp] theorem State.setAcc_pubs (a : Acc) : (s.setAcc a).pubs = s.pubs := rfl
@[simp] theorem State.setAcc_jobs (a : Acc) : (s.setAcc a).jobs = s.jobs := rfl
@[simp] theorem State.setAcc_ctxRecs (a : Acc) : (s.setAcc a).ctxRecs = s.ctxRecs := rfl
@[simp] theorem State.setAcc_msix (a : Acc) : (s.setAcc a).msix = s.msix := rfl
@[simp] theorem State.setAcc_fills (a : Acc) : (s.setAcc a).fills = s.fills := rfl
@[simp] theorem State.setAcc_frames (a : Acc) : (s.setAcc a).frames = s.frames := rfl
@[simp] theorem State.setAcc_apart (a : Acc) : (s.setAcc a).apart = s.apart := rfl

/-! ## bump -/

@[simp] theorem State.bump_agenda : (s.bump ).agenda = s.agenda := rfl
@[simp] theorem State.bump_upsets : (s.bump ).upsets = s.upsets := rfl
@[simp] theorem State.bump_cur : (s.bump ).cur = s.cur := rfl
@[simp] theorem State.bump_cycle : (s.bump ).cycle = s.cycle := rfl
@[simp] theorem State.bump_clockOf : (s.bump ).clockOf = s.clockOf := rfl
@[simp] theorem State.bump_clocks : (s.bump ).clocks = s.clocks := rfl
@[simp] theorem State.bump_half : (s.bump ).half = s.half := rfl
@[simp] theorem State.bump_ports : (s.bump ).ports = s.ports := rfl
@[simp] theorem State.bump_freeCtr : (s.bump ).freeCtr = s.freeCtr := rfl
@[simp] theorem State.bump_mem : (s.bump ).mem = s.mem := rfl
@[simp] theorem State.bump_warps : (s.bump ).warps = s.warps := rfl
@[simp] theorem State.bump_seqs : (s.bump ).seqs = s.seqs := rfl
@[simp] theorem State.bump_blocks : (s.bump ).blocks = s.blocks := rfl
@[simp] theorem State.bump_dieA : (s.bump ).dieA = s.dieA := rfl
@[simp] theorem State.bump_dieB : (s.bump ).dieB = s.dieB := rfl
@[simp] theorem State.bump_accs : (s.bump ).accs = s.accs := rfl
@[simp] theorem State.bump_parks : (s.bump ).parks = s.parks := rfl
@[simp] theorem State.bump_pendq : (s.bump ).pendq = s.pendq := rfl
@[simp] theorem State.bump_l1 : (s.bump ).l1 = s.l1 := rfl
@[simp] theorem State.bump_msc : (s.bump ).msc = s.msc := rfl
@[simp] theorem State.bump_tlb : (s.bump ).tlb = s.tlb := rfl
@[simp] theorem State.bump_poison : (s.bump ).poison = s.poison := rfl
@[simp] theorem State.bump_bad : (s.bump ).bad = s.bad := rfl
@[simp] theorem State.bump_badPart : (s.bump ).badPart = s.badPart := rfl
@[simp] theorem State.bump_remotes : (s.bump ).remotes = s.remotes := rfl
@[simp] theorem State.bump_kept : (s.bump ).kept = s.kept := rfl
@[simp] theorem State.bump_hostOut : (s.bump ).hostOut = s.hostOut := rfl
@[simp] theorem State.bump_hostIn : (s.bump ).hostIn = s.hostIn := rfl
@[simp] theorem State.bump_copies : (s.bump ).copies = s.copies := rfl
@[simp] theorem State.bump_early : (s.bump ).early = s.early := rfl
@[simp] theorem State.bump_travQ : (s.bump ).travQ = s.travQ := rfl
@[simp] theorem State.bump_queries : (s.bump ).queries = s.queries := rfl
@[simp] theorem State.bump_conts : (s.bump ).conts = s.conts := rfl
@[simp] theorem State.bump_rings : (s.bump ).rings = s.rings := rfl
@[simp] theorem State.bump_takes : (s.bump ).takes = s.takes := rfl
@[simp] theorem State.bump_pubs : (s.bump ).pubs = s.pubs := rfl
@[simp] theorem State.bump_jobs : (s.bump ).jobs = s.jobs := rfl
@[simp] theorem State.bump_ctxRecs : (s.bump ).ctxRecs = s.ctxRecs := rfl
@[simp] theorem State.bump_msix : (s.bump ).msix = s.msix := rfl
@[simp] theorem State.bump_fills : (s.bump ).fills = s.fills := rfl
@[simp] theorem State.bump_frames : (s.bump ).frames = s.frames := rfl
@[simp] theorem State.bump_apart : (s.bump ).apart = s.apart := rfl

/-! ## bumpFree -/

@[simp] theorem State.bumpFree_agenda : (s.bumpFree ).agenda = s.agenda := rfl
@[simp] theorem State.bumpFree_upsets : (s.bumpFree ).upsets = s.upsets := rfl
@[simp] theorem State.bumpFree_cur : (s.bumpFree ).cur = s.cur := rfl
@[simp] theorem State.bumpFree_cycle : (s.bumpFree ).cycle = s.cycle := rfl
@[simp] theorem State.bumpFree_clockOf : (s.bumpFree ).clockOf = s.clockOf := rfl
@[simp] theorem State.bumpFree_clocks : (s.bumpFree ).clocks = s.clocks := rfl
@[simp] theorem State.bumpFree_half : (s.bumpFree ).half = s.half := rfl
@[simp] theorem State.bumpFree_ports : (s.bumpFree ).ports = s.ports := rfl
@[simp] theorem State.bumpFree_nextId : (s.bumpFree ).nextId = s.nextId := rfl
@[simp] theorem State.bumpFree_mem : (s.bumpFree ).mem = s.mem := rfl
@[simp] theorem State.bumpFree_warps : (s.bumpFree ).warps = s.warps := rfl
@[simp] theorem State.bumpFree_seqs : (s.bumpFree ).seqs = s.seqs := rfl
@[simp] theorem State.bumpFree_blocks : (s.bumpFree ).blocks = s.blocks := rfl
@[simp] theorem State.bumpFree_dieA : (s.bumpFree ).dieA = s.dieA := rfl
@[simp] theorem State.bumpFree_dieB : (s.bumpFree ).dieB = s.dieB := rfl
@[simp] theorem State.bumpFree_accs : (s.bumpFree ).accs = s.accs := rfl
@[simp] theorem State.bumpFree_parks : (s.bumpFree ).parks = s.parks := rfl
@[simp] theorem State.bumpFree_pendq : (s.bumpFree ).pendq = s.pendq := rfl
@[simp] theorem State.bumpFree_l1 : (s.bumpFree ).l1 = s.l1 := rfl
@[simp] theorem State.bumpFree_msc : (s.bumpFree ).msc = s.msc := rfl
@[simp] theorem State.bumpFree_tlb : (s.bumpFree ).tlb = s.tlb := rfl
@[simp] theorem State.bumpFree_poison : (s.bumpFree ).poison = s.poison := rfl
@[simp] theorem State.bumpFree_bad : (s.bumpFree ).bad = s.bad := rfl
@[simp] theorem State.bumpFree_badPart : (s.bumpFree ).badPart = s.badPart := rfl
@[simp] theorem State.bumpFree_remotes : (s.bumpFree ).remotes = s.remotes := rfl
@[simp] theorem State.bumpFree_kept : (s.bumpFree ).kept = s.kept := rfl
@[simp] theorem State.bumpFree_hostOut : (s.bumpFree ).hostOut = s.hostOut := rfl
@[simp] theorem State.bumpFree_hostIn : (s.bumpFree ).hostIn = s.hostIn := rfl
@[simp] theorem State.bumpFree_copies : (s.bumpFree ).copies = s.copies := rfl
@[simp] theorem State.bumpFree_early : (s.bumpFree ).early = s.early := rfl
@[simp] theorem State.bumpFree_travQ : (s.bumpFree ).travQ = s.travQ := rfl
@[simp] theorem State.bumpFree_queries : (s.bumpFree ).queries = s.queries := rfl
@[simp] theorem State.bumpFree_conts : (s.bumpFree ).conts = s.conts := rfl
@[simp] theorem State.bumpFree_rings : (s.bumpFree ).rings = s.rings := rfl
@[simp] theorem State.bumpFree_takes : (s.bumpFree ).takes = s.takes := rfl
@[simp] theorem State.bumpFree_pubs : (s.bumpFree ).pubs = s.pubs := rfl
@[simp] theorem State.bumpFree_jobs : (s.bumpFree ).jobs = s.jobs := rfl
@[simp] theorem State.bumpFree_ctxRecs : (s.bumpFree ).ctxRecs = s.ctxRecs := rfl
@[simp] theorem State.bumpFree_msix : (s.bumpFree ).msix = s.msix := rfl
@[simp] theorem State.bumpFree_fills : (s.bumpFree ).fills = s.fills := rfl
@[simp] theorem State.bumpFree_frames : (s.bumpFree ).frames = s.frames := rfl
@[simp] theorem State.bumpFree_apart : (s.bumpFree ).apart = s.apart := rfl

/-! ## store -/

@[simp] theorem State.store_agenda (l : Nat) (bs : List Byte) : (s.store l bs).agenda = s.agenda := rfl
@[simp] theorem State.store_upsets (l : Nat) (bs : List Byte) : (s.store l bs).upsets = s.upsets := rfl
@[simp] theorem State.store_cur (l : Nat) (bs : List Byte) : (s.store l bs).cur = s.cur := rfl
@[simp] theorem State.store_cycle (l : Nat) (bs : List Byte) : (s.store l bs).cycle = s.cycle := rfl
@[simp] theorem State.store_clockOf (l : Nat) (bs : List Byte) : (s.store l bs).clockOf = s.clockOf := rfl
@[simp] theorem State.store_clocks (l : Nat) (bs : List Byte) : (s.store l bs).clocks = s.clocks := rfl
@[simp] theorem State.store_half (l : Nat) (bs : List Byte) : (s.store l bs).half = s.half := rfl
@[simp] theorem State.store_ports (l : Nat) (bs : List Byte) : (s.store l bs).ports = s.ports := rfl
@[simp] theorem State.store_nextId (l : Nat) (bs : List Byte) : (s.store l bs).nextId = s.nextId := rfl
@[simp] theorem State.store_freeCtr (l : Nat) (bs : List Byte) : (s.store l bs).freeCtr = s.freeCtr := rfl
@[simp] theorem State.store_warps (l : Nat) (bs : List Byte) : (s.store l bs).warps = s.warps := rfl
@[simp] theorem State.store_seqs (l : Nat) (bs : List Byte) : (s.store l bs).seqs = s.seqs := rfl
@[simp] theorem State.store_blocks (l : Nat) (bs : List Byte) : (s.store l bs).blocks = s.blocks := rfl
@[simp] theorem State.store_dieA (l : Nat) (bs : List Byte) : (s.store l bs).dieA = s.dieA := rfl
@[simp] theorem State.store_dieB (l : Nat) (bs : List Byte) : (s.store l bs).dieB = s.dieB := rfl
@[simp] theorem State.store_accs (l : Nat) (bs : List Byte) : (s.store l bs).accs = s.accs := rfl
@[simp] theorem State.store_parks (l : Nat) (bs : List Byte) : (s.store l bs).parks = s.parks := rfl
@[simp] theorem State.store_pendq (l : Nat) (bs : List Byte) : (s.store l bs).pendq = s.pendq := rfl
@[simp] theorem State.store_l1 (l : Nat) (bs : List Byte) : (s.store l bs).l1 = s.l1 := rfl
@[simp] theorem State.store_msc (l : Nat) (bs : List Byte) : (s.store l bs).msc = s.msc := rfl
@[simp] theorem State.store_tlb (l : Nat) (bs : List Byte) : (s.store l bs).tlb = s.tlb := rfl
@[simp] theorem State.store_poison (l : Nat) (bs : List Byte) : (s.store l bs).poison = s.poison := rfl
@[simp] theorem State.store_bad (l : Nat) (bs : List Byte) : (s.store l bs).bad = s.bad := rfl
@[simp] theorem State.store_badPart (l : Nat) (bs : List Byte) : (s.store l bs).badPart = s.badPart := rfl
@[simp] theorem State.store_remotes (l : Nat) (bs : List Byte) : (s.store l bs).remotes = s.remotes := rfl
@[simp] theorem State.store_kept (l : Nat) (bs : List Byte) : (s.store l bs).kept = s.kept := rfl
@[simp] theorem State.store_hostOut (l : Nat) (bs : List Byte) : (s.store l bs).hostOut = s.hostOut := rfl
@[simp] theorem State.store_hostIn (l : Nat) (bs : List Byte) : (s.store l bs).hostIn = s.hostIn := rfl
@[simp] theorem State.store_copies (l : Nat) (bs : List Byte) : (s.store l bs).copies = s.copies := rfl
@[simp] theorem State.store_early (l : Nat) (bs : List Byte) : (s.store l bs).early = s.early := rfl
@[simp] theorem State.store_travQ (l : Nat) (bs : List Byte) : (s.store l bs).travQ = s.travQ := rfl
@[simp] theorem State.store_queries (l : Nat) (bs : List Byte) : (s.store l bs).queries = s.queries := rfl
@[simp] theorem State.store_conts (l : Nat) (bs : List Byte) : (s.store l bs).conts = s.conts := rfl
@[simp] theorem State.store_rings (l : Nat) (bs : List Byte) : (s.store l bs).rings = s.rings := rfl
@[simp] theorem State.store_takes (l : Nat) (bs : List Byte) : (s.store l bs).takes = s.takes := rfl
@[simp] theorem State.store_pubs (l : Nat) (bs : List Byte) : (s.store l bs).pubs = s.pubs := rfl
@[simp] theorem State.store_jobs (l : Nat) (bs : List Byte) : (s.store l bs).jobs = s.jobs := rfl
@[simp] theorem State.store_ctxRecs (l : Nat) (bs : List Byte) : (s.store l bs).ctxRecs = s.ctxRecs := rfl
@[simp] theorem State.store_msix (l : Nat) (bs : List Byte) : (s.store l bs).msix = s.msix := rfl
@[simp] theorem State.store_fills (l : Nat) (bs : List Byte) : (s.store l bs).fills = s.fills := rfl
@[simp] theorem State.store_frames (l : Nat) (bs : List Byte) : (s.store l bs).frames = s.frames := rfl
@[simp] theorem State.store_apart (l : Nat) (bs : List Byte) : (s.store l bs).apart = s.apart := rfl

/-! ## setDie, and the updates that note when an engine delivers -/

@[simp] theorem State.setDie_agenda (d : DieId) (x : Die) : (s.setDie d x).agenda = s.agenda := by cases d <;> rfl
@[simp] theorem State.worked_agenda (d : DieId) (e : Nat) : (s.worked d e).agenda = s.agenda := State.setDie_agenda ..
@[simp] theorem State.setCopy_agenda (c : CopyCmd) : (s.setCopy c).agenda = s.agenda := State.worked_agenda ..
@[simp] theorem State.setQuery_agenda (q : Query) : (s.setQuery q).agenda = s.agenda := State.worked_agenda ..
@[simp] theorem State.setDie_upsets (d : DieId) (x : Die) : (s.setDie d x).upsets = s.upsets := by cases d <;> rfl
@[simp] theorem State.worked_upsets (d : DieId) (e : Nat) : (s.worked d e).upsets = s.upsets := State.setDie_upsets ..
@[simp] theorem State.setCopy_upsets (c : CopyCmd) : (s.setCopy c).upsets = s.upsets := State.worked_upsets ..
@[simp] theorem State.setQuery_upsets (q : Query) : (s.setQuery q).upsets = s.upsets := State.worked_upsets ..
@[simp] theorem State.setDie_cur (d : DieId) (x : Die) : (s.setDie d x).cur = s.cur := by cases d <;> rfl
@[simp] theorem State.worked_cur (d : DieId) (e : Nat) : (s.worked d e).cur = s.cur := State.setDie_cur ..
@[simp] theorem State.setCopy_cur (c : CopyCmd) : (s.setCopy c).cur = s.cur := State.worked_cur ..
@[simp] theorem State.setQuery_cur (q : Query) : (s.setQuery q).cur = s.cur := State.worked_cur ..
@[simp] theorem State.setDie_cycle (d : DieId) (x : Die) : (s.setDie d x).cycle = s.cycle := by cases d <;> rfl
@[simp] theorem State.worked_cycle (d : DieId) (e : Nat) : (s.worked d e).cycle = s.cycle := State.setDie_cycle ..
@[simp] theorem State.setCopy_cycle (c : CopyCmd) : (s.setCopy c).cycle = s.cycle := State.worked_cycle ..
@[simp] theorem State.setQuery_cycle (q : Query) : (s.setQuery q).cycle = s.cycle := State.worked_cycle ..
@[simp] theorem State.setDie_clockOf (d : DieId) (x : Die) : (s.setDie d x).clockOf = s.clockOf := by cases d <;> rfl
@[simp] theorem State.worked_clockOf (d : DieId) (e : Nat) : (s.worked d e).clockOf = s.clockOf := State.setDie_clockOf ..
@[simp] theorem State.setCopy_clockOf (c : CopyCmd) : (s.setCopy c).clockOf = s.clockOf := State.worked_clockOf ..
@[simp] theorem State.setQuery_clockOf (q : Query) : (s.setQuery q).clockOf = s.clockOf := State.worked_clockOf ..
@[simp] theorem State.setDie_clocks (d : DieId) (x : Die) : (s.setDie d x).clocks = s.clocks := by cases d <;> rfl
@[simp] theorem State.worked_clocks (d : DieId) (e : Nat) : (s.worked d e).clocks = s.clocks := State.setDie_clocks ..
@[simp] theorem State.setCopy_clocks (c : CopyCmd) : (s.setCopy c).clocks = s.clocks := State.worked_clocks ..
@[simp] theorem State.setQuery_clocks (q : Query) : (s.setQuery q).clocks = s.clocks := State.worked_clocks ..
@[simp] theorem State.setDie_half (d : DieId) (x : Die) : (s.setDie d x).half = s.half := by cases d <;> rfl
@[simp] theorem State.worked_half (d : DieId) (e : Nat) : (s.worked d e).half = s.half := State.setDie_half ..
@[simp] theorem State.setCopy_half (c : CopyCmd) : (s.setCopy c).half = s.half := State.worked_half ..
@[simp] theorem State.setQuery_half (q : Query) : (s.setQuery q).half = s.half := State.worked_half ..
@[simp] theorem State.setDie_ports (d : DieId) (x : Die) : (s.setDie d x).ports = s.ports := by cases d <;> rfl
@[simp] theorem State.worked_ports (d : DieId) (e : Nat) : (s.worked d e).ports = s.ports := State.setDie_ports ..
@[simp] theorem State.setCopy_ports (c : CopyCmd) : (s.setCopy c).ports = s.ports := State.worked_ports ..
@[simp] theorem State.setQuery_ports (q : Query) : (s.setQuery q).ports = s.ports := State.worked_ports ..
@[simp] theorem State.setDie_nextId (d : DieId) (x : Die) : (s.setDie d x).nextId = s.nextId := by cases d <;> rfl
@[simp] theorem State.worked_nextId (d : DieId) (e : Nat) : (s.worked d e).nextId = s.nextId := State.setDie_nextId ..
@[simp] theorem State.setCopy_nextId (c : CopyCmd) : (s.setCopy c).nextId = s.nextId := State.worked_nextId ..
@[simp] theorem State.setQuery_nextId (q : Query) : (s.setQuery q).nextId = s.nextId := State.worked_nextId ..
@[simp] theorem State.setDie_freeCtr (d : DieId) (x : Die) : (s.setDie d x).freeCtr = s.freeCtr := by cases d <;> rfl
@[simp] theorem State.worked_freeCtr (d : DieId) (e : Nat) : (s.worked d e).freeCtr = s.freeCtr := State.setDie_freeCtr ..
@[simp] theorem State.setCopy_freeCtr (c : CopyCmd) : (s.setCopy c).freeCtr = s.freeCtr := State.worked_freeCtr ..
@[simp] theorem State.setQuery_freeCtr (q : Query) : (s.setQuery q).freeCtr = s.freeCtr := State.worked_freeCtr ..
@[simp] theorem State.setDie_mem (d : DieId) (x : Die) : (s.setDie d x).mem = s.mem := by cases d <;> rfl
@[simp] theorem State.worked_mem (d : DieId) (e : Nat) : (s.worked d e).mem = s.mem := State.setDie_mem ..
@[simp] theorem State.setCopy_mem (c : CopyCmd) : (s.setCopy c).mem = s.mem := State.worked_mem ..
@[simp] theorem State.setQuery_mem (q : Query) : (s.setQuery q).mem = s.mem := State.worked_mem ..
@[simp] theorem State.setDie_warps (d : DieId) (x : Die) : (s.setDie d x).warps = s.warps := by cases d <;> rfl
@[simp] theorem State.worked_warps (d : DieId) (e : Nat) : (s.worked d e).warps = s.warps := State.setDie_warps ..
@[simp] theorem State.setCopy_warps (c : CopyCmd) : (s.setCopy c).warps = s.warps := State.worked_warps ..
@[simp] theorem State.setQuery_warps (q : Query) : (s.setQuery q).warps = s.warps := State.worked_warps ..
@[simp] theorem State.setDie_seqs (d : DieId) (x : Die) : (s.setDie d x).seqs = s.seqs := by cases d <;> rfl
@[simp] theorem State.worked_seqs (d : DieId) (e : Nat) : (s.worked d e).seqs = s.seqs := State.setDie_seqs ..
@[simp] theorem State.setCopy_seqs (c : CopyCmd) : (s.setCopy c).seqs = s.seqs := State.worked_seqs ..
@[simp] theorem State.setQuery_seqs (q : Query) : (s.setQuery q).seqs = s.seqs := State.worked_seqs ..
@[simp] theorem State.setDie_blocks (d : DieId) (x : Die) : (s.setDie d x).blocks = s.blocks := by cases d <;> rfl
@[simp] theorem State.worked_blocks (d : DieId) (e : Nat) : (s.worked d e).blocks = s.blocks := State.setDie_blocks ..
@[simp] theorem State.setCopy_blocks (c : CopyCmd) : (s.setCopy c).blocks = s.blocks := State.worked_blocks ..
@[simp] theorem State.setQuery_blocks (q : Query) : (s.setQuery q).blocks = s.blocks := State.worked_blocks ..
@[simp] theorem State.setDie_accs (d : DieId) (x : Die) : (s.setDie d x).accs = s.accs := by cases d <;> rfl
@[simp] theorem State.worked_accs (d : DieId) (e : Nat) : (s.worked d e).accs = s.accs := State.setDie_accs ..
@[simp] theorem State.setCopy_accs (c : CopyCmd) : (s.setCopy c).accs = s.accs := State.worked_accs ..
@[simp] theorem State.setQuery_accs (q : Query) : (s.setQuery q).accs = s.accs := State.worked_accs ..
@[simp] theorem State.setDie_parks (d : DieId) (x : Die) : (s.setDie d x).parks = s.parks := by cases d <;> rfl
@[simp] theorem State.worked_parks (d : DieId) (e : Nat) : (s.worked d e).parks = s.parks := State.setDie_parks ..
@[simp] theorem State.setCopy_parks (c : CopyCmd) : (s.setCopy c).parks = s.parks := State.worked_parks ..
@[simp] theorem State.setQuery_parks (q : Query) : (s.setQuery q).parks = s.parks := State.worked_parks ..
@[simp] theorem State.setDie_pendq (d : DieId) (x : Die) : (s.setDie d x).pendq = s.pendq := by cases d <;> rfl
@[simp] theorem State.worked_pendq (d : DieId) (e : Nat) : (s.worked d e).pendq = s.pendq := State.setDie_pendq ..
@[simp] theorem State.setCopy_pendq (c : CopyCmd) : (s.setCopy c).pendq = s.pendq := State.worked_pendq ..
@[simp] theorem State.setQuery_pendq (q : Query) : (s.setQuery q).pendq = s.pendq := State.worked_pendq ..
@[simp] theorem State.setDie_l1 (d : DieId) (x : Die) : (s.setDie d x).l1 = s.l1 := by cases d <;> rfl
@[simp] theorem State.worked_l1 (d : DieId) (e : Nat) : (s.worked d e).l1 = s.l1 := State.setDie_l1 ..
@[simp] theorem State.setCopy_l1 (c : CopyCmd) : (s.setCopy c).l1 = s.l1 := State.worked_l1 ..
@[simp] theorem State.setQuery_l1 (q : Query) : (s.setQuery q).l1 = s.l1 := State.worked_l1 ..
@[simp] theorem State.setDie_msc (d : DieId) (x : Die) : (s.setDie d x).msc = s.msc := by cases d <;> rfl
@[simp] theorem State.worked_msc (d : DieId) (e : Nat) : (s.worked d e).msc = s.msc := State.setDie_msc ..
@[simp] theorem State.setCopy_msc (c : CopyCmd) : (s.setCopy c).msc = s.msc := State.worked_msc ..
@[simp] theorem State.setQuery_msc (q : Query) : (s.setQuery q).msc = s.msc := State.worked_msc ..
@[simp] theorem State.setDie_tlb (d : DieId) (x : Die) : (s.setDie d x).tlb = s.tlb := by cases d <;> rfl
@[simp] theorem State.worked_tlb (d : DieId) (e : Nat) : (s.worked d e).tlb = s.tlb := State.setDie_tlb ..
@[simp] theorem State.setCopy_tlb (c : CopyCmd) : (s.setCopy c).tlb = s.tlb := State.worked_tlb ..
@[simp] theorem State.setQuery_tlb (q : Query) : (s.setQuery q).tlb = s.tlb := State.worked_tlb ..
@[simp] theorem State.setDie_poison (d : DieId) (x : Die) : (s.setDie d x).poison = s.poison := by cases d <;> rfl
@[simp] theorem State.worked_poison (d : DieId) (e : Nat) : (s.worked d e).poison = s.poison := State.setDie_poison ..
@[simp] theorem State.setCopy_poison (c : CopyCmd) : (s.setCopy c).poison = s.poison := State.worked_poison ..
@[simp] theorem State.setQuery_poison (q : Query) : (s.setQuery q).poison = s.poison := State.worked_poison ..
@[simp] theorem State.setDie_bad (d : DieId) (x : Die) : (s.setDie d x).bad = s.bad := by cases d <;> rfl
@[simp] theorem State.worked_bad (d : DieId) (e : Nat) : (s.worked d e).bad = s.bad := State.setDie_bad ..
@[simp] theorem State.setCopy_bad (c : CopyCmd) : (s.setCopy c).bad = s.bad := State.worked_bad ..
@[simp] theorem State.setQuery_bad (q : Query) : (s.setQuery q).bad = s.bad := State.worked_bad ..
@[simp] theorem State.setDie_badPart (d : DieId) (x : Die) : (s.setDie d x).badPart = s.badPart := by cases d <;> rfl
@[simp] theorem State.worked_badPart (d : DieId) (e : Nat) : (s.worked d e).badPart = s.badPart := State.setDie_badPart ..
@[simp] theorem State.setCopy_badPart (c : CopyCmd) : (s.setCopy c).badPart = s.badPart := State.worked_badPart ..
@[simp] theorem State.setQuery_badPart (q : Query) : (s.setQuery q).badPart = s.badPart := State.worked_badPart ..
@[simp] theorem State.setDie_remotes (d : DieId) (x : Die) : (s.setDie d x).remotes = s.remotes := by cases d <;> rfl
@[simp] theorem State.worked_remotes (d : DieId) (e : Nat) : (s.worked d e).remotes = s.remotes := State.setDie_remotes ..
@[simp] theorem State.setCopy_remotes (c : CopyCmd) : (s.setCopy c).remotes = s.remotes := State.worked_remotes ..
@[simp] theorem State.setQuery_remotes (q : Query) : (s.setQuery q).remotes = s.remotes := State.worked_remotes ..
@[simp] theorem State.setDie_kept (d : DieId) (x : Die) : (s.setDie d x).kept = s.kept := by cases d <;> rfl
@[simp] theorem State.worked_kept (d : DieId) (e : Nat) : (s.worked d e).kept = s.kept := State.setDie_kept ..
@[simp] theorem State.setCopy_kept (c : CopyCmd) : (s.setCopy c).kept = s.kept := State.worked_kept ..
@[simp] theorem State.setQuery_kept (q : Query) : (s.setQuery q).kept = s.kept := State.worked_kept ..
@[simp] theorem State.setDie_hostOut (d : DieId) (x : Die) : (s.setDie d x).hostOut = s.hostOut := by cases d <;> rfl
@[simp] theorem State.worked_hostOut (d : DieId) (e : Nat) : (s.worked d e).hostOut = s.hostOut := State.setDie_hostOut ..
@[simp] theorem State.setCopy_hostOut (c : CopyCmd) : (s.setCopy c).hostOut = s.hostOut := State.worked_hostOut ..
@[simp] theorem State.setQuery_hostOut (q : Query) : (s.setQuery q).hostOut = s.hostOut := State.worked_hostOut ..
@[simp] theorem State.setDie_hostIn (d : DieId) (x : Die) : (s.setDie d x).hostIn = s.hostIn := by cases d <;> rfl
@[simp] theorem State.worked_hostIn (d : DieId) (e : Nat) : (s.worked d e).hostIn = s.hostIn := State.setDie_hostIn ..
@[simp] theorem State.setCopy_hostIn (c : CopyCmd) : (s.setCopy c).hostIn = s.hostIn := State.worked_hostIn ..
@[simp] theorem State.setQuery_hostIn (q : Query) : (s.setQuery q).hostIn = s.hostIn := State.worked_hostIn ..
@[simp] theorem State.setDie_copies (d : DieId) (x : Die) : (s.setDie d x).copies = s.copies := by cases d <;> rfl
@[simp] theorem State.worked_copies (d : DieId) (e : Nat) : (s.worked d e).copies = s.copies := State.setDie_copies ..
@[simp] theorem State.setQuery_copies (q : Query) : (s.setQuery q).copies = s.copies := State.worked_copies ..
@[simp] theorem State.setDie_early (d : DieId) (x : Die) : (s.setDie d x).early = s.early := by cases d <;> rfl
@[simp] theorem State.worked_early (d : DieId) (e : Nat) : (s.worked d e).early = s.early := State.setDie_early ..
@[simp] theorem State.setCopy_early (c : CopyCmd) : (s.setCopy c).early = s.early := State.worked_early ..
@[simp] theorem State.setQuery_early (q : Query) : (s.setQuery q).early = s.early := State.worked_early ..
@[simp] theorem State.setDie_travQ (d : DieId) (x : Die) : (s.setDie d x).travQ = s.travQ := by cases d <;> rfl
@[simp] theorem State.worked_travQ (d : DieId) (e : Nat) : (s.worked d e).travQ = s.travQ := State.setDie_travQ ..
@[simp] theorem State.setCopy_travQ (c : CopyCmd) : (s.setCopy c).travQ = s.travQ := State.worked_travQ ..
@[simp] theorem State.setQuery_travQ (q : Query) : (s.setQuery q).travQ = s.travQ := State.worked_travQ ..
@[simp] theorem State.setDie_queries (d : DieId) (x : Die) : (s.setDie d x).queries = s.queries := by cases d <;> rfl
@[simp] theorem State.worked_queries (d : DieId) (e : Nat) : (s.worked d e).queries = s.queries := State.setDie_queries ..
@[simp] theorem State.setCopy_queries (c : CopyCmd) : (s.setCopy c).queries = s.queries := State.worked_queries ..
@[simp] theorem State.setDie_conts (d : DieId) (x : Die) : (s.setDie d x).conts = s.conts := by cases d <;> rfl
@[simp] theorem State.worked_conts (d : DieId) (e : Nat) : (s.worked d e).conts = s.conts := State.setDie_conts ..
@[simp] theorem State.setCopy_conts (c : CopyCmd) : (s.setCopy c).conts = s.conts := State.worked_conts ..
@[simp] theorem State.setQuery_conts (q : Query) : (s.setQuery q).conts = s.conts := State.worked_conts ..
@[simp] theorem State.setDie_rings (d : DieId) (x : Die) : (s.setDie d x).rings = s.rings := by cases d <;> rfl
@[simp] theorem State.worked_rings (d : DieId) (e : Nat) : (s.worked d e).rings = s.rings := State.setDie_rings ..
@[simp] theorem State.setCopy_rings (c : CopyCmd) : (s.setCopy c).rings = s.rings := State.worked_rings ..
@[simp] theorem State.setQuery_rings (q : Query) : (s.setQuery q).rings = s.rings := State.worked_rings ..
@[simp] theorem State.setDie_takes (d : DieId) (x : Die) : (s.setDie d x).takes = s.takes := by cases d <;> rfl
@[simp] theorem State.worked_takes (d : DieId) (e : Nat) : (s.worked d e).takes = s.takes := State.setDie_takes ..
@[simp] theorem State.setCopy_takes (c : CopyCmd) : (s.setCopy c).takes = s.takes := State.worked_takes ..
@[simp] theorem State.setQuery_takes (q : Query) : (s.setQuery q).takes = s.takes := State.worked_takes ..
@[simp] theorem State.setDie_pubs (d : DieId) (x : Die) : (s.setDie d x).pubs = s.pubs := by cases d <;> rfl
@[simp] theorem State.worked_pubs (d : DieId) (e : Nat) : (s.worked d e).pubs = s.pubs := State.setDie_pubs ..
@[simp] theorem State.setCopy_pubs (c : CopyCmd) : (s.setCopy c).pubs = s.pubs := State.worked_pubs ..
@[simp] theorem State.setQuery_pubs (q : Query) : (s.setQuery q).pubs = s.pubs := State.worked_pubs ..
@[simp] theorem State.setDie_jobs (d : DieId) (x : Die) : (s.setDie d x).jobs = s.jobs := by cases d <;> rfl
@[simp] theorem State.worked_jobs (d : DieId) (e : Nat) : (s.worked d e).jobs = s.jobs := State.setDie_jobs ..
@[simp] theorem State.setCopy_jobs (c : CopyCmd) : (s.setCopy c).jobs = s.jobs := State.worked_jobs ..
@[simp] theorem State.setQuery_jobs (q : Query) : (s.setQuery q).jobs = s.jobs := State.worked_jobs ..
@[simp] theorem State.setDie_ctxRecs (d : DieId) (x : Die) : (s.setDie d x).ctxRecs = s.ctxRecs := by cases d <;> rfl
@[simp] theorem State.worked_ctxRecs (d : DieId) (e : Nat) : (s.worked d e).ctxRecs = s.ctxRecs := State.setDie_ctxRecs ..
@[simp] theorem State.setCopy_ctxRecs (c : CopyCmd) : (s.setCopy c).ctxRecs = s.ctxRecs := State.worked_ctxRecs ..
@[simp] theorem State.setQuery_ctxRecs (q : Query) : (s.setQuery q).ctxRecs = s.ctxRecs := State.worked_ctxRecs ..
@[simp] theorem State.setDie_msix (d : DieId) (x : Die) : (s.setDie d x).msix = s.msix := by cases d <;> rfl
@[simp] theorem State.worked_msix (d : DieId) (e : Nat) : (s.worked d e).msix = s.msix := State.setDie_msix ..
@[simp] theorem State.setCopy_msix (c : CopyCmd) : (s.setCopy c).msix = s.msix := State.worked_msix ..
@[simp] theorem State.setQuery_msix (q : Query) : (s.setQuery q).msix = s.msix := State.worked_msix ..
@[simp] theorem State.setDie_fills (d : DieId) (x : Die) : (s.setDie d x).fills = s.fills := by cases d <;> rfl
@[simp] theorem State.worked_fills (d : DieId) (e : Nat) : (s.worked d e).fills = s.fills := State.setDie_fills ..
@[simp] theorem State.setCopy_fills (c : CopyCmd) : (s.setCopy c).fills = s.fills := State.worked_fills ..
@[simp] theorem State.setQuery_fills (q : Query) : (s.setQuery q).fills = s.fills := State.worked_fills ..
@[simp] theorem State.setDie_frames (d : DieId) (x : Die) : (s.setDie d x).frames = s.frames := by cases d <;> rfl
@[simp] theorem State.worked_frames (d : DieId) (e : Nat) : (s.worked d e).frames = s.frames := State.setDie_frames ..
@[simp] theorem State.setCopy_frames (c : CopyCmd) : (s.setCopy c).frames = s.frames := State.worked_frames ..
@[simp] theorem State.setQuery_frames (q : Query) : (s.setQuery q).frames = s.frames := State.worked_frames ..
@[simp] theorem State.setDie_apart (d : DieId) (x : Die) : (s.setDie d x).apart = s.apart := by cases d <;> rfl
@[simp] theorem State.worked_apart (d : DieId) (e : Nat) : (s.worked d e).apart = s.apart := State.setDie_apart ..
@[simp] theorem State.setCopy_apart (c : CopyCmd) : (s.setCopy c).apart = s.apart := State.worked_apart ..
@[simp] theorem State.setQuery_apart (q : Query) : (s.setQuery q).apart = s.apart := State.worked_apart ..

/-! ## What an update writes -/

@[simp] theorem State.tick_cycle (ns : Nat) : (s.tick ns).cycle = s.cycle + s.cyclesOf s.clockOf ns := rfl
@[simp] theorem State.bump_nextId : s.bump.nextId = s.nextId + 1 := rfl
@[simp] theorem State.bumpFree_freeCtr : s.bumpFree.freeCtr = s.freeCtr + 1 := rfl
@[simp] theorem State.store_mem (l : Nat) (bs : List Byte) : (s.store l bs).mem = putBytes s.mem l bs := rfl
@[simp] theorem State.setSeq_seqs (q : SeqId) (x : SeqRec) : (s.setSeq q x).seqs = aput q x s.seqs := rfl
@[simp] theorem State.die_setDie (d : DieId) (x : Die) : (s.setDie d x).die d = x := by cases d <;> rfl
@[simp] theorem State.die_setDie_other (d : DieId) (x : Die) : (s.setDie d x).die (!d) = s.die (!d) := by
  cases d <;> rfl

end Sys2Proof.Machine
end

