-- ==== Sys2Proof/Laws/Memory.lean ====
section
/-! SUPPORT. Memory: reading after a store, and the canonical form that every store keeps. -/

namespace Sys2Proof.Machine

/-- Below the stored bytes, nothing changes. -/
theorem sget_putBytes_below (m : List Host.Cell) (l : Nat) (bs : List Byte) (a : Nat) (h : a < l) :
    sget 0 (putBytes m l bs) a = sget 0 m a := by
  induction bs generalizing m l with
  | nil => rfl
  | cons b bs ih =>
    simp only [putBytes]
    rw [ih _ _ (by omega), sget_sset_ne _ _ _ (by omega)]

/-- Above the stored bytes, nothing changes. -/
theorem sget_putBytes_above (m : List Host.Cell) (l : Nat) (bs : List Byte) (a : Nat) (h : l + bs.length ≤ a) :
    sget 0 (putBytes m l bs) a = sget 0 m a := by
  induction bs generalizing m l with
  | nil => rfl
  | cons b bs ih =>
    simp only [putBytes, List.length_cons] at *
    rw [ih _ _ (by omega), sget_sset_ne _ _ _ (by omega)]

/-- A stored byte reads back. -/
theorem sget_putBytes_in (m : List Host.Cell) (l : Nat) (bs : List Byte) (i : Nat) (h : i < bs.length) :
    sget 0 (putBytes m l bs) (l + i) = bs[i] := by
  induction bs generalizing m l i with
  | nil => simp at h
  | cons b bs ih =>
    simp only [putBytes]
    cases i with
    | zero =>
      rw [sget_putBytes_below _ _ _ _ (by omega)]
      exact sget_sset_self 0 m l b
    | succ i =>
      have := ih (sset 0 m l b) (l + 1) i (by simpa using h)
      rw [show l + (i + 1) = l + 1 + i by omega, this]
      rfl

theorem swf_putBytes (m : List Host.Cell) (l : Nat) (bs : List Byte) (h : swf 0 m = true) :
    swf 0 (putBytes m l bs) = true := by
  induction bs generalizing m l with
  | nil => exact h
  | cons b bs ih => exact ih _ _ (swf_sset _ _ _ _ h)

/-- A store changes no byte outside the stored ones. -/
theorem State.byte_store_out (s : State) (l : Nat) (bs : List Byte) (a : Nat) (h : a < l ∨ l + bs.length ≤ a) :
    (s.store l bs).byte a = s.byte a := by
  rcases h with h | h
  · exact sget_putBytes_below _ _ _ _ h
  · exact sget_putBytes_above _ _ _ _ h

/-- A store's bytes read back. -/
theorem State.byte_store_in (s : State) (l : Nat) (bs : List Byte) (i : Nat) (h : i < bs.length) :
    (s.store l bs).byte (l + i) = bs[i] := sget_putBytes_in _ _ _ _ h

/-- A store keeps memory in its canonical form. -/
theorem State.memOk_store (s : State) (l : Nat) (bs : List Byte) (h : s.MemOk) : (s.store l bs).MemOk :=
  swf_putBytes _ _ _ h

/-- Memory depends on nothing but its cells. -/
theorem State.memOk_of_mem_eq {s t : State} (h : t.mem = s.mem) (hs : s.MemOk) : t.MemOk := by
  unfold State.MemOk; rw [h]; exact hs

/-- Memory at reset is in its canonical form. -/
theorem State.memOk_reset : State.reset.MemOk := rfl

end Sys2Proof.Machine
end

