-- ==== Sys2Proof/Laws/Regs.lean ====
section
/-! SUPPORT. Registers, predicates and condition codes: what a write changes and what reads after it. -/

namespace Sys2Proof.Machine

/-! ## Lane sets -/

theorem mem_lanesOf (m : Mask) (L : Nat) : L ∈ lanesOf m ↔ m.getLsbD L = true := by
  unfold lanesOf laneList
  simp only [List.mem_filter, List.mem_range]
  refine ⟨fun h => h.2, fun h => ⟨?_, h⟩⟩
  exact Nat.lt_of_not_le fun hl => by simp [BitVec.getLsbD_of_ge _ _ hl] at h

theorem lanesOf_zero : lanesOf 0 = [] := by decide

theorem lowLane_eq_none_iff (m : Mask) : lowLane m = none ↔ m = 0 := by
  unfold lowLane
  constructor
  · intro h
    have hnil : lanesOf m = [] := by simpa using h
    apply BitVec.eq_of_getLsbD_eq
    intro i _
    have : i ∉ lanesOf m := by simp [hnil]
    simpa [mem_lanesOf] using this
  · rintro rfl; rfl

theorem getLsbD_maskBelow (f : Nat → Bool) (n L : Nat) (hn : n ≤ 32) :
    (maskBelow f n).getLsbD L = (decide (L < n) && f L) := by
  induction n with
  | zero => simp [maskBelow]
  | succ n ih =>
    simp only [maskBelow, BitVec.getLsbD_or, ih (by omega)]
    by_cases hL : L = n
    · subst hL
      by_cases hf : f L <;> simp [hf]
      omega
    · by_cases hf : f n
      · have : (1#32 <<< n).getLsbD L = false := by
          simp only [BitVec.getLsbD_shiftLeft, BitVec.getLsbD_one]
          by_cases h : L < n <;> simp [h]
          omega
        simp only [hf, if_true, this, Bool.or_false]
        congr 1
        simp; omega
      · simp only [hf]
        by_cases h : L < n
        · simp [h, Nat.lt_succ_of_lt h]
        · simp [h, show ¬ L < n + 1 by omega]

/-- Lane L of a mask given by a condition. -/
theorem getLsbD_maskOf (f : Nat → Bool) (L : Nat) : (maskOf f).getLsbD L = (decide (L < 32) && f L) :=
  getLsbD_maskBelow f 32 L (Nat.le_refl _)

theorem getLsbD_mergeMask (act old new : Mask) (L : Nat) :
    (mergeMask act old new).getLsbD L = if act.getLsbD L then new.getLsbD L else old.getLsbD L := by
  unfold mergeMask
  by_cases h : L < 32
  · simp only [BitVec.getLsbD_or, BitVec.getLsbD_and, BitVec.getLsbD_not, h, decide_true, Bool.true_and]
    cases act.getLsbD L <;> cases old.getLsbD L <;> cases new.getLsbD L <;> rfl
  · simp [BitVec.getLsbD_of_ge _ _ (Nat.le_of_not_lt h)]

/-! ## Writing a destination -/

theorem mem_laneUpdates {n r : Nat} {act : Mask} {f : Nat → Nat} {p : Nat × Word} :
    p ∈ laneUpdates n r act f ↔
      ∃ L i, act.getLsbD L = true ∧ i < n ∧ p = (32 * (r + i) + L, wordAt (f L) i) := by
  unfold laneUpdates
  simp only [List.mem_flatMap, mem_lanesOf, List.mem_map, List.mem_range]
  constructor
  · rintro ⟨L, hL, i, hi, rfl⟩; exact ⟨L, i, hL, hi, rfl⟩
  · rintro ⟨L, i, hL, hi, rfl⟩; exact ⟨L, hL, i, hi, rfl⟩

theorem lane_lt {act : Mask} {L : Nat} (h : act.getLsbD L = true) : L < 32 :=
  Nat.lt_of_not_le fun hl => by simp [BitVec.getLsbD_of_ge _ _ hl] at h

/-- Register `d + i` of a written lane group holds word `i` of the value, in every lane of `act`. -/
theorem Warp.word_putD_lane (w : Warp) (n : Nat) (d : Reg) (act : Mask) (f : Nat → Nat) (i L : Nat)
    (hd : d.toNat + n ≤ 384) (hi : i < n) (hL : act.getLsbD L = true) :
    (w.putD n d act f).word (d.toNat + i) L = wordAt (f L) i := by
  unfold Warp.putD Warp.word
  rw [if_pos (show d.toNat < 384 by omega), if_pos (show d.toNat + i < 384 by omega)]
  refine sget_putAll_hit 0 _ _ _ _ ⟨_, mem_laneUpdates.2 ⟨L, i, hL, hi, rfl⟩, rfl⟩ ?_
  intro p hp he
  obtain ⟨L', i', hL', hi', rfl⟩ := mem_laneUpdates.1 hp
  have := lane_lt hL
  have := lane_lt hL'
  have h1 : 32 * (d.toNat + i') + L' = 32 * (d.toNat + i) + L := he
  have h2 : i' = i := by omega
  have h3 : L' = L := by omega
  subst h2; subst h3; rfl

/-- A lane group keeps every other register, and every lane outside `act`. -/
theorem Warp.word_putD_lane_out (w : Warp) (n : Nat) (d : Reg) (act : Mask) (f : Nat → Nat) (r L : Nat)
    (hd : d.toNat + n ≤ 384) (hL : L < 32)
    (h : r < d.toNat ∨ d.toNat + n ≤ r ∨ act.getLsbD L = false) (hr : r < 384 ∨ n ≠ 0) :
    (w.putD n d act f).word r L = w.word r L := by
  by_cases hn : n = 0
  · subst hn
    have h1 : laneUpdates 0 d.toNat act f = [] := by simp [laneUpdates]
    unfold Warp.putD
    split
    · rw [h1]; rfl
    · split <;> rfl
  unfold Warp.putD
  rw [if_pos (show d.toNat < 384 by omega)]
  unfold Warp.word
  by_cases hr : r < 384
  · rw [if_pos hr, if_pos hr]
    refine sget_putAll_miss 0 _ _ _ fun p hp he => ?_
    obtain ⟨L', i', hL', hi', rfl⟩ := mem_laneUpdates.1 hp
    have := lane_lt hL'
    have h1 : 32 * (d.toNat + i') + L' = 32 * r + L := he
    have h2 : d.toNat + i' = r := by omega
    have h3 : L' = L := by omega
    subst h3
    rcases h with h | h | h
    · omega
    · omega
    · simp [h] at hL'
  · rw [if_neg hr, if_neg hr]

/-- Register `d + i` of a written uniform group holds word `i` of the value of the lowest lane of `act`. -/
theorem Warp.word_putD_uniform (w : Warp) (n : Nat) (d : Reg) (act : Mask) (f : Nat → Nat) (i L low : Nat)
    (hd : 384 ≤ d.toNat) (hi : i < n) (hlow : lowLane act = some low) :
    (w.putD n d act f).word (d.toNat + i) L = wordAt (f low) i := by
  unfold Warp.putD Warp.word
  rw [if_neg (by omega), hlow, if_neg (by omega)]
  refine sget_putAll_hit 0 _ _ _ _ ⟨(d.toNat - 384 + i, wordAt (f low) i), ?_, ?_⟩ ?_
  · exact List.mem_map.2 ⟨i, List.mem_range.2 hi, rfl⟩
  · show d.toNat - 384 + i = d.toNat + i - 384; omega
  · intro p hp he
    obtain ⟨i', _, rfl⟩ := List.mem_map.1 hp
    have : i' = i := by
      have h1 : d.toNat - 384 + i' = d.toNat + i - 384 := he
      omega
    subst this; rfl

/-- A uniform group keeps every other register, and with no lane in `act` every register. -/
theorem Warp.word_putD_uniform_out (w : Warp) (n : Nat) (d : Reg) (act : Mask) (f : Nat → Nat) (r L : Nat)
    (hd : 384 ≤ d.toNat) (h : r < d.toNat ∨ d.toNat + n ≤ r ∨ act = 0) :
    (w.putD n d act f).word r L = w.word r L := by
  unfold Warp.putD
  rw [if_neg (by omega)]
  cases hl : lowLane act with
  | none => rfl
  | some low =>
    have hact : act ≠ 0 := fun e => by rw [(lowLane_eq_none_iff act).2 e] at hl; cases hl
    unfold Warp.word
    by_cases hr : r < 384
    · rw [if_pos hr, if_pos hr]
    · rw [if_neg hr, if_neg hr]
      refine sget_putAll_miss 0 _ _ _ fun p hp he => ?_
      obtain ⟨i', hi', rfl⟩ := List.mem_map.1 hp
      have hi'' := List.mem_range.1 hi'
      have h1 : d.toNat - 384 + i' = r - 384 := he
      rcases h with h | h | h
      · omega
      · omega
      · exact hact h

/-! Writing a destination leaves everything else of a warp. -/

theorem Warp.putD_frame (w : Warp) (n : Nat) (d : Reg) (act : Mask) (f : Nat → Nat) :
    { w.putD n d act f with vregs := w.vregs, gregs := w.gregs } = w := by
  unfold Warp.putD
  split
  · rfl
  · split <;> rfl

@[simp] theorem Warp.putD_preds (w : Warp) (n : Nat) (d : Reg) (act : Mask) (f : Nat → Nat) :
    (w.putD n d act f).preds = w.preds := by
  unfold Warp.putD; split
  · rfl
  · split <;> rfl

@[simp] theorem Warp.putD_paths (w : Warp) (n : Nat) (d : Reg) (act : Mask) (f : Nat → Nat) :
    (w.putD n d act f).paths = w.paths := by
  unfold Warp.putD; split
  · rfl
  · split <;> rfl

@[simp] theorem Warp.putD_joins (w : Warp) (n : Nat) (d : Reg) (act : Mask) (f : Nat → Nat) :
    (w.putD n d act f).joins = w.joins := by
  unfold Warp.putD; split
  · rfl
  · split <;> rfl

@[simp] theorem Warp.putD_step (w : Warp) (n : Nat) (d : Reg) (act : Mask) (f : Nat → Nat) :
    (w.putD n d act f).step = w.step := by
  unfold Warp.putD; split
  · rfl
  · split <;> rfl

@[simp] theorem Warp.putD_pred (w : Warp) (n : Nat) (d : Reg) (act : Mask) (f : Nat → Nat) (p : Nat) :
    (w.putD n d act f).pred p = w.pred p := by simp [Warp.pred]

/-! ## A group of registers as one number -/

/-- The words of a number, put together again. -/
theorem group_of_words (w : Warp) (n r L v : Nat) (h : ∀ i, i < n → w.word (r + i) L = wordAt v i) :
    w.group n r L = v % 2 ^ (32 * n) := by
  induction n generalizing r v with
  | zero => simp [Warp.group, Nat.mod_one]
  | succ n ih =>
    simp only [Warp.group]
    have h0 : w.word r L = wordAt v 0 := by simpa using h 0 (by omega)
    have hr : w.group n (r + 1) L = (v / 2 ^ 32) % 2 ^ (32 * n) := by
      refine ih (r + 1) (v / 2 ^ 32) fun i hi => ?_
      have := h (i + 1) (by omega)
      rw [show r + 1 + i = r + (i + 1) by omega, this]
      unfold wordAt
      rw [Nat.div_div_eq_div_mul, ← Nat.pow_add]
      congr 3; omega
    rw [h0, hr]
    simp only [wordAt, Nat.mul_zero, Nat.pow_zero, Nat.div_one, BitVec.toNat_ofNat]
    rw [show 32 * (n + 1) = 32 + 32 * n by omega, Nat.pow_add, Nat.mod_mul]

/-- A written lane group reads back in every lane of `act`. -/
theorem Warp.group_putD (w : Warp) (n : Nat) (d : Reg) (act : Mask) (f : Nat → Nat) (L : Nat)
    (hd : d.toNat + n ≤ 384) (hL : act.getLsbD L = true) :
    (w.putD n d act f).group n d.toNat L = f L % 2 ^ (32 * n) :=
  group_of_words _ n _ L _ fun i hi => w.word_putD_lane n d act f i L hd hi hL

/-! ## Predicates -/

theorem Warp.pred_putPred_self (w : Warp) (p : Nat) (act new : Mask) (hp : p ≠ 7) :
    (w.putPred p act new).pred p = mergeMask act (w.pred p) new := by
  unfold Warp.putPred
  rw [if_neg hp]
  simp [Warp.pred, hp]

theorem Warp.pred_putPred_ne (w : Warp) (p q : Nat) (act new : Mask) (h : q ≠ p) :
    (w.putPred p act new).pred q = w.pred q := by
  unfold Warp.putPred
  split
  · rfl
  · simp only [Warp.pred, sget_sset_ne _ _ _ h]

/-- p7 discards. -/
@[simp] theorem Warp.putPred_seven (w : Warp) (act new : Mask) : w.putPred 7 act new = w := rfl

/-- p7 reads as true in every lane. -/
@[simp] theorem Warp.pred_seven (w : Warp) : w.pred 7 = BitVec.allOnes 32 := rfl

@[simp] theorem Warp.putPred_word (w : Warp) (p : Nat) (act new : Mask) (r L : Nat) :
    (w.putPred p act new).word r L = w.word r L := by unfold Warp.putPred; split <;> rfl

theorem Warp.putPred_frame (w : Warp) (p : Nat) (act new : Mask) :
    { w.putPred p act new with preds := w.preds } = w := by unfold Warp.putPred; split <;> rfl

/-! ## Condition codes -/

/-- The codes of a lane after a write. -/
theorem Warp.cc_putCC (w : Warp) (on : Bool) (act : Mask) (f : Nat → CC) (L : Nat) (hL : L < 32) :
    (w.putCC on act f).cc L = if on && act.getLsbD L then f L else w.cc L := by
  unfold Warp.putCC
  cases on
  · simp
  · simp only [if_true, Bool.true_and]
    unfold Warp.cc
    simp only [getLsbD_mergeMask, getLsbD_maskOf, hL, decide_true, Bool.true_and]
    cases h : act.getLsbD L <;> simp

@[simp] theorem Warp.putCC_word (w : Warp) (on : Bool) (act : Mask) (f : Nat → CC) (r L : Nat) :
    (w.putCC on act f).word r L = w.word r L := by unfold Warp.putCC; split <;> rfl

@[simp] theorem Warp.putCC_pred (w : Warp) (on : Bool) (act : Mask) (f : Nat → CC) (p : Nat) :
    (w.putCC on act f).pred p = w.pred p := by unfold Warp.putCC; split <;> rfl

@[simp] theorem Warp.putD_cc (w : Warp) (n : Nat) (d : Reg) (act : Mask) (f : Nat → Nat) (L : Nat) :
    (w.putD n d act f).cc L = w.cc L := by
  unfold Warp.putD; split
  · rfl
  · split <;> rfl

@[simp] theorem Warp.putPred_cc (w : Warp) (p : Nat) (act new : Mask) (L : Nat) :
    (w.putPred p act new).cc L = w.cc L := by unfold Warp.putPred; split <;> rfl

theorem Warp.putCC_frame (w : Warp) (on : Bool) (act : Mask) (f : Nat → CC) :
    { w.putCC on act f with ccC := w.ccC, ccZ := w.ccZ, ccN := w.ccN, ccV := w.ccV } = w := by
  unfold Warp.putCC; split <;> rfl

@[simp] theorem Warp.group_putCC (w : Warp) (on : Bool) (act : Mask) (f : Nat → CC) (n r L : Nat) :
    (w.putCC on act f).group n r L = w.group n r L := by
  induction n generalizing r with
  | zero => rfl
  | succ n ih => simp [Warp.group, ih]

@[simp] theorem Warp.group_putPred (w : Warp) (p : Nat) (act new : Mask) (n r L : Nat) :
    (w.putPred p act new).group n r L = w.group n r L := by
  induction n generalizing r with
  | zero => rfl
  | succ n ih => simp [Warp.group, ih]

end Sys2Proof.Machine
end

