-- ==== Sys2Proof/Laws/Issue.lean ====
section
/-! SUPPORT. What issue can do: the outcome of a form by whether it may issue, is refused its operands or
must wait, and what the retiring of a form that changes only its warp leaves. -/

namespace Sys2Proof.Machine

/-! ## The conditions of issue -/

theorem Warp.ready_of {w : Warp} {f : Form} (hf : ∀ q ∈ w.pend, ∀ r ∈ q.regs, r ∉ f.wr ∧ (q.locked = true → r ∉ f.rd))
    (hr : ∀ c, f.ctr = some c → w.counter c < 63) : w.ready f = true := by
  have hb : w.blocked f = false := by
    unfold Warp.blocked
    simp only [List.any_eq_false]
    intro q hq hany
    obtain ⟨r, hr, h⟩ := List.any_eq_true.1 hany
    have hh := hf q hq r hr
    rcases (by simpa using h : r ∈ f.wr ∨ q.locked = true ∧ r ∈ f.rd) with h | ⟨h1, h2⟩
    · exact hh.1 h
    · exact hh.2 h1 h2
  unfold Warp.ready
  rw [hb]
  cases hc : f.ctr with
  | none => rfl
  | some c => simpa using hr c hc

theorem Warp.inBudget_of {w : Warp} {f : Form} (h : ∀ r ∈ f.rd ++ f.wr, 384 ≤ r ∨ r < w.budget) :
    w.inBudget f = true := by
  unfold Warp.inBudget
  rw [List.all_eq_true]
  intro r hr
  simpa using h r hr

/-- Where a form may issue and is legal, its outcome is that of its body on the set `active`. -/
theorem issue_next {s : State} {f : Form} {body : State → Issuer → Warp → PathEntry → Mask → Eff} {who : Issuer}
    {w : Warp} {p : PathEntry} (h : s.CanIssue f.cls f.rd f.wr f.ctr who w p) (hl : f.legal = true) :
    issue s f body = .next (s.finish who w p f (w.activeLanes p f.hdr) (body s who w p (w.activeLanes p f.hdr))) := by
  unfold issue
  rw [h.cur]
  simp only [h.warp, h.path]
  rw [if_neg (by simp [h.clear, Nat.not_lt.2 h.elapsed, Warp.ready_of h.free h.room]),
    if_neg (by simp [hl, h.class_, Warp.inBudget_of h.budget])]
  rfl

/-- A form that the issuer may not execute, or whose operands fail a check, raises the illegal-instruction
trap with the path's lanes (R50, R69). -/
theorem issue_illegal {s : State} {f : Form} {body : State → Issuer → Warp → PathEntry → Mask → Eff} {who : Issuer}
    {w : Warp} {p : PathEntry} (hc : s.cur = some who) (hw : s.warp? who = some w) (hp : w.active = some p)
    (hb : s.barred who w = false) (hn : w.notBefore ≤ s.cycle) (hr : w.ready f = true)
    (hl : f.legal = false ∨ f.cls.allows who = false ∨ w.inBudget f = false) :
    issue s f body = .next (s.takeTrap who 0x01 p.mask 0 p.pc) := by
  have hcond : (!f.legal || !f.cls.allows who || !w.inBudget f) = true := by rcases hl with h | h | h <;> simp [h]
  show issue s f body = .next (s.finish who w p f 0 (.trap 0x01 p.mask 0))
  unfold issue
  rw [hc]
  simp only [hw, hp]
  rw [if_neg (by simp [hb, hr, Nat.not_lt.2 hn]), if_pos hcond]

/-- A form that must wait leaves its warp at the same instruction, and time passes. -/
theorem issue_waits {s : State} {f : Form} {body : State → Issuer → Warp → PathEntry → Mask → Eff} {who : Issuer}
    {w : Warp} {p : PathEntry} (hc : s.cur = some who) (hw : s.warp? who = some w) (hp : w.active = some p)
    (h : s.barred who w = true ∨ s.cycle < w.notBefore ∨ w.ready f = false) : issue s f body = .next s.idle := by
  unfold issue
  rw [hc]
  simp only [hw, hp]
  rw [if_pos (by rcases h with h | h | h <;> simp [h])]

/-- A form always answers a next state where there is an issuer with an active path. -/
theorem issue_answers (s : State) (f : Form) (body : State → Issuer → Warp → PathEntry → Mask → Eff) {who : Issuer}
    {w : Warp} {p : PathEntry} (hc : s.cur = some who) (hw : s.warp? who = some w) (hp : w.active = some p) :
    ∃ t, issue s f body = .next t := by
  unfold issue
  rw [hc]
  simp only [hw, hp]
  split
  · exact ⟨_, rfl⟩
  · split <;> exact ⟨_, rfl⟩

/-! ## Records of the state -/

@[simp] theorem State.warp?_setWarp_self (s : State) (who : Issuer) (w : Warp) : (s.setWarp who w).warp? who = some w :=
  alook_aput_self who w s.warps

theorem State.warp?_setWarp_ne (s : State) {who i : Issuer} (w : Warp) (h : i ≠ who) :
    (s.setWarp who w).warp? i = s.warp? i := alook_aput_ne w s.warps h

@[simp] theorem State.setWarp_byte (s : State) (who : Issuer) (w : Warp) (a : Nat) : (s.setWarp who w).byte a = s.byte a := rfl

/-! ## Retiring -/

/-- A form that changes only its warp, to `v`, retires: the state of `Retired`. -/
theorem finish_done_retired {s : State} {f : Form} {who : Issuer} {w v : Warp} {p : PathEntry} {act : Mask}
    (hs : w.stepping = false) (hv : v.heldAt = w.heldAt) :
    ∃ t, s.finish who w p f act (.done (s.setWarp who v)) = t ∧
      s.Retired who w f.hdr t ((v.advance p).issued (s.cycle) f.hdr) := by
  refine ⟨_, rfl, ?_⟩
  have h1 : (s.setWarp who v).warp? who = some v := s.warp?_setWarp_self who v
  have h2 : ((s.setWarp who v).setWarp who (v.advance p)).warp? who = some (v.advance p) :=
    State.warp?_setWarp_self _ who _
  simp only [State.finish, State.advance, h1, State.retire, h2, hs]
  refine ⟨⟨State.warp?_setWarp_self _ who _, fun i hi => ?_, fun a => rfl, rfl, ?_⟩, rfl⟩
  · have e1 := alook_aput_ne ((v.advance p).issued (s.cycle) f.hdr) (aput who (v.advance p) (aput who v s.warps)) hi
    have e2 := alook_aput_ne (v.advance p) (aput who v s.warps) hi
    have e3 := alook_aput_ne v s.warps hi
    exact e1.trans (e2.trans e3)
  · rw [← hv]; exact ⟨rfl, rfl, rfl, rfl⟩

/-- Settling the path table changes the paths and the spill area alone. -/
theorem Warp.settle_frame (w : Warp) : { w.settle with paths := w.paths, spill := w.spill } = w := rfl

@[simp] theorem Warp.advance_joins (w : Warp) (p : PathEntry) : (w.advance p).joins = w.joins := rfl
@[simp] theorem Warp.advance_word (w : Warp) (p : PathEntry) (r L : Nat) : (w.advance p).word r L = w.word r L := rfl
@[simp] theorem Warp.advance_pred (w : Warp) (p : PathEntry) (q : Nat) : (w.advance p).pred q = w.pred q := rfl
@[simp] theorem Warp.advance_cc (w : Warp) (p : PathEntry) (L : Nat) : (w.advance p).cc L = w.cc L := rfl
@[simp] theorem Warp.issued_word (w : Warp) (c : Nat) (h : Hdr) (r L : Nat) : (w.issued c h).word r L = w.word r L := rfl
@[simp] theorem Warp.issued_pred (w : Warp) (c : Nat) (h : Hdr) (q : Nat) : (w.issued c h).pred q = w.pred q := rfl
@[simp] theorem Warp.issued_cc (w : Warp) (c : Nat) (h : Hdr) (L : Nat) : (w.issued c h).cc L = w.cc L := rfl
@[simp] theorem Warp.issued_paths (w : Warp) (c : Nat) (h : Hdr) : (w.issued c h).paths = w.paths := rfl
@[simp] theorem Warp.issued_spill (w : Warp) (c : Nat) (h : Hdr) : (w.issued c h).spill = w.spill := rfl
@[simp] theorem Warp.issued_joins (w : Warp) (c : Nat) (h : Hdr) : (w.issued c h).joins = w.joins := rfl

/-- Registers, predicates and condition codes are all that `v` has changed. -/
def Warp.DataOnly (w v : Warp) : Prop :=
  { v with
    vregs := w.vregs, gregs := w.gregs, preds := w.preds
    ccC := w.ccC, ccZ := w.ccZ, ccN := w.ccN, ccV := w.ccV } = w

theorem Warp.DataOnly.refl (w : Warp) : w.DataOnly w := rfl

theorem Warp.DataOnly.trans {u v w : Warp} (h : u.DataOnly v) (g : v.DataOnly w) : u.DataOnly w := by
  unfold Warp.DataOnly at *; rw [← h, ← g]

theorem Warp.dataOnly_putD (w : Warp) (n : Nat) (d : Reg) (act : Mask) (f : Nat → Nat) : w.DataOnly (w.putD n d act f) := by
  unfold Warp.putD Warp.DataOnly
  split
  · rfl
  · split <;> rfl

theorem Warp.dataOnly_putPred (w : Warp) (q : Nat) (act new : Mask) : w.DataOnly (w.putPred q act new) := by
  unfold Warp.putPred Warp.DataOnly
  split <;> rfl

theorem Warp.dataOnly_putCC (w : Warp) (on : Bool) (act : Mask) (f : Nat → CC) : w.DataOnly (w.putCC on act f) := by
  unfold Warp.putCC Warp.DataOnly
  split <;> rfl

theorem Warp.DataOnly.paths {w v : Warp} (h : w.DataOnly v) : v.paths = w.paths := by
  rw [← show _ = w from h]
theorem Warp.DataOnly.joins {w v : Warp} (h : w.DataOnly v) : v.joins = w.joins := by
  rw [← show _ = w from h]

theorem Warp.DataOnly.spill {w v : Warp} (h : w.DataOnly v) : v.spill = w.spill := by
  rw [← show _ = w from h]
theorem Warp.DataOnly.frozen {w v : Warp} (h : w.DataOnly v) : v.frozen = w.frozen := by
  rw [← show _ = w from h]

theorem Warp.DataOnly.heldAt {w v : Warp} (h : w.DataOnly v) : v.heldAt = w.heldAt := by
  rw [← show _ = w from h]

theorem Warp.DataOnly.wentOn {w v : Warp} (h : w.DataOnly v) (p : PathEntry) (c : Nat) (k : Hdr) :
    w.WentOn p ((v.advance p).issued c k) := by
  have e : (v.advance p).paths = (({ w with paths := v.paths, joins := v.joins } : Warp).advance p).paths := rfl
  have e2 : (v.advance p).spill =
      (({ w with paths := v.paths, joins := v.joins, spill := v.spill, frozen := v.frozen } : Warp).advance p).spill := rfl
  exact ⟨by rw [Warp.issued_paths, e, h.paths, h.joins], h.joins, by
    rw [Warp.issued_spill, e2, h.paths, h.joins, h.spill, h.frozen]⟩

theorem Warp.DataOnly.sameControl {w v : Warp} (h : w.DataOnly v) (p : PathEntry) (c : Nat) (k : Hdr) :
    w.SameControl ((v.advance p).issued c k) := by
  have e := congrArg (fun u : Warp => { u with
    paths := w.paths, spill := w.spill, notBefore := w.notBefore, lastIssue := w.lastIssue, readySince := w.readySince
    heldAt := w.heldAt, yl := w.yl, hold := w.hold }) h
  exact e

/-- A form that only changes registers, predicates and condition codes completes (R43). -/
theorem laneCompletes_of {i : Instr} {h : Hdr} {rd wr : List Nat} {g : State → Issuer → Warp → PathEntry → Mask → Warp}
    {post : State → Issuer → Warp → PathEntry → Mask → Warp → Prop}
    (hex : ∀ s who w p, i.WellFormed → s.CanIssue .shared rd wr none who w p → s.upsets = [] → ∃ f : Form, f.hdr = h ∧
      exec i s = .next (s.finish who w p f (w.activeLanes p h) (.done (s.setWarp who (g s who w p (w.activeLanes p h))))))
    (hd : ∀ s who (w : Warp) p act, w.DataOnly (g s who w p act))
    (hp : ∀ s who w p act c, i.WellFormed → post s who w p act (((g s who w p act).advance p).issued c h)) :
    LaneCompletes i h rd wr post := by
  intro s who w p hwf hc hs hu
  obtain ⟨f, hf, he⟩ := hex s who w p hwf hc hu
  obtain ⟨t, ht, hr⟩ := finish_done_retired (s := s) (f := f) (who := who) (w := w)
    (v := g s who w p (w.activeLanes p h)) (p := p) (act := w.activeLanes p h) hs
    (hd ..).heldAt
  rw [hf] at hr
  exact ⟨t, _, by rw [he, ht], hr, (hd ..).wentOn .., (hd ..).sameControl .., hp _ _ _ _ _ _ hwf⟩

/-- A lane form completes. -/
theorem laneForm_completes {i : Instr} {h : Hdr} {rd wr : List Nat} {g : Warp → Mask → Warp}
    {post : State → Issuer → Warp → PathEntry → Mask → Warp → Prop}
    (he : ∀ s, exec i s = laneForm s (lane i.legal h rd wr) g) (hd : ∀ (w : Warp) act, w.DataOnly (g w act))
    (hp : ∀ s who w p act c, i.WellFormed → post s who w p act (((g w act).advance p).issued c h)) :
    LaneCompletes i h rd wr post :=
  laneCompletes_of (g := fun _ _ w _ act => g w act)
    (fun s who w p hwf hc _ => ⟨lane i.legal h rd wr, rfl, by
      rw [he, laneForm, issue_next hc hwf]; rfl⟩)
    (fun _ _ w _ act => hd w act) hp

/-! ## What a write leaves, in the words of the statements -/

theorem Warp.wrote_putD (w : Warp) (n : Nat) (d : Reg) (act : Mask) (f : Nat → Nat)
    (hd : d.toNat + n ≤ 384 ∨ 384 ≤ d.toNat) (hn : n ≠ 0) : w.Wrote (w.putD n d act f) n d act f := by
  rcases hd with hd | hd
  · refine ⟨fun r L hL hr => w.word_putD_lane_out n d act f r L hd hL (by omega) (.inr hn), fun i L hi hL => ?_⟩
    rw [if_pos (show d.toNat < 384 by omega)]
    by_cases ha : act.getLsbD L = true
    · rw [if_pos ha, w.word_putD_lane n d act f i L hd hi ha]
    · rw [if_neg ha, w.word_putD_lane_out n d act f _ L hd hL (.inr (.inr (by simpa using ha))) (.inr hn)]
  · refine ⟨fun r L _ hr => w.word_putD_uniform_out n d act f r L hd (by omega), fun i L hi _ => ?_⟩
    rw [if_neg (show ¬ d.toNat < 384 by omega)]
    cases hl : lowLane act with
    | none => exact w.word_putD_uniform_out n d act f _ L hd (.inr (.inr ((lowLane_eq_none_iff act).1 hl)))
    | some low => exact w.word_putD_uniform n d act f i L low hd hi hl

theorem Warp.wrotePred_putPred (w : Warp) (q : Nat) (act new : Mask) (f : Nat → Bool)
    (hf : ∀ L, L < 32 → act.getLsbD L = true → new.getLsbD L = f L) : w.WrotePred (w.putPred q act new) q act f := by
  intro r L hL
  by_cases hr : r = q
  · subst hr
    by_cases h7 : r = 7
    · subst h7; simp
    · rw [w.pred_putPred_self r act new h7, getLsbD_mergeMask]
      by_cases ha : act.getLsbD L = true
      · simp [ha, h7, hf L hL ha]
      · simp [ha]
  · rw [w.pred_putPred_ne q r act new hr, if_neg (by simp [hr])]

theorem Warp.wroteCC_putCC (w : Warp) (on : Bool) (act : Mask) (f : Nat → CC) : w.WroteCC (w.putCC on act f) on act f := by
  intro L hL
  rw [w.cc_putCC on act f L hL]
  simp

end Sys2Proof.Machine
end

