-- ==== Sys2Proof/Laws/Lane.lean ====
section
/-! SUPPORT. What the shared shapes of the lane instructions do: a result with condition codes, a result
alone, a predicate, and a checked result that no soft error strikes. -/

namespace Sys2Proof.Machine

theorem LTy.regs_ne_zero (ty : LTy) : ty.regs ≠ 0 := by cases ty <;> decide

theorem laneGroup_le {n : Nat} {r : Reg} (hn : 384 % n = 0) (h : laneGroup n r = true) : r.toNat + n ≤ 384 := by
  unfold laneGroup at h
  simp only [Bool.and_eq_true, beq_iff_eq, decide_eq_true_eq] at h
  obtain ⟨h1, h2⟩ := h
  by_cases hz : n = 0
  · subst hz; omega
  have e1 := Nat.div_add_mod r.toNat n
  have e2 := Nat.div_add_mod 384 n
  rw [h1] at e1; rw [hn] at e2
  have : r.toNat / n < 384 / n := by
    apply Nat.lt_of_mul_lt_mul_left (a := n); omega
  have : n * (r.toNat / n + 1) ≤ n * (384 / n) := Nat.mul_le_mul_left n this
  rw [Nat.mul_add] at this; omega

/-- A lane destination of a type lies among the lane registers. -/
theorem laneGroup_regs {ty : LTy} {r : Reg} (h : laneGroup ty.regs r = true) : r.toNat + ty.regs ≤ 384 :=
  laneGroup_le (by cases ty <;> decide) h

/-- A group of a type never straddles the lane and the uniform names. -/
theorem anyGroup_le {n : Nat} {r : Reg} (hn : 384 % n = 0) (h : anyGroup n r = true) : r.toNat + n ≤ 384 ∨ 384 ≤ r.toNat := by
  by_cases hr : r.toNat < 384
  · refine .inl (laneGroup_le hn ?_)
    simp only [laneGroup, Bool.and_eq_true, decide_eq_true_eq]
    exact ⟨h, hr⟩
  · exact .inr (by omega)

theorem anyGroup_regs {ty : LTy} {r : Reg} (h : anyGroup ty.regs r = true) : r.toNat + ty.regs ≤ 384 ∨ 384 ≤ r.toNat :=
  anyGroup_le (by cases ty <;> decide) h

/-! ## Results -/

theorem Warp.result_putD (w : Warp) {n : Nat} {d : Reg} (act : Mask) (f : Nat → Nat)
    (hd : d.toNat + n ≤ 384 ∨ 384 ≤ d.toNat) (hn : n ≠ 0) (p : PathEntry) (c : Nat) (h : Hdr) :
    w.Result (((w.putD n d act f).advance p).issued c h) n d act f := by
  have hw := w.wrote_putD n d act f hd hn
  exact ⟨⟨fun r L hL hr => by simpa using hw.1 r L hL hr, fun i L hi hL => by simpa using hw.2 i L hi hL⟩,
    fun q L hL => by simp, fun L hL => by simp⟩

theorem Warp.resultCC_putD (w : Warp) {n : Nat} {d : Reg} (act : Mask) (f : Nat → Nat) (cc : Bool) (g : Nat → CC)
    (hd : d.toNat + n ≤ 384 ∨ 384 ≤ d.toNat) (hn : n ≠ 0) (p : PathEntry) (c : Nat) (h : Hdr) :
    w.ResultCC ((((w.putD n d act f).putCC cc act g).advance p).issued c h) n d cc act f g := by
  have hw := w.wrote_putD n d act f hd hn
  refine ⟨⟨fun r L hL hr => by simpa using hw.1 r L hL hr, fun i L hi hL => by simpa using hw.2 i L hi hL⟩,
    fun q L hL => by simp, fun L hL => ?_⟩
  have := (w.putD n d act f).wroteCC_putCC cc act g L hL
  simpa using this

/-- A form with a result and condition codes completes. -/
theorem resultForm_completes {i : Instr} {h : Hdr} {rd : List Nat} {n : Nat} {d : Reg} {cc : Bool}
    {f : Warp → Nat → Nat × CC} (he : ∀ s, exec i s = resultForm s i.legal h rd n d cc f)
    (hd : i.WellFormed → d.toNat + n ≤ 384 ∨ 384 ≤ d.toNat) (hn : n ≠ 0)
    {post : State → Issuer → Warp → PathEntry → Mask → Warp → Prop}
    (hp : ∀ s who (w v : Warp) p act, i.WellFormed →
      w.ResultCC v n d cc act (fun L => (f w L).1) (fun L => (f w L).2) → post s who w p act v) :
    LaneCompletes i h rd (span n d) post :=
  laneForm_completes (g := fun w act => (w.putD n d act fun L => (f w L).1).putCC cc act fun L => (f w L).2) he
    (fun w _ => (w.dataOnly_putD ..).trans (Warp.dataOnly_putCC ..))
    fun _ _ w p _ c hwf => hp _ _ _ _ _ _ hwf (w.resultCC_putD _ _ cc _ (hd hwf) hn p c h)

/-- A form with a result completes. -/
theorem valueForm_completes {i : Instr} {h : Hdr} {rd : List Nat} {n : Nat} {d : Reg} {f : Warp → Nat → Nat}
    (he : ∀ s, exec i s = valueForm s i.legal h rd n d f)
    (hd : i.WellFormed → d.toNat + n ≤ 384 ∨ 384 ≤ d.toNat) (hn : n ≠ 0)
    {post : State → Issuer → Warp → PathEntry → Mask → Warp → Prop}
    (hp : ∀ s who (w v : Warp) p act, i.WellFormed → w.Result v n d act (f w) → post s who w p act v) :
    LaneCompletes i h rd (span n d) post :=
  laneForm_completes (g := fun w act => w.putD n d act (f w)) he (fun w _ => w.dataOnly_putD ..)
    fun _ _ w p _ c hwf => hp _ _ _ _ _ _ hwf (w.result_putD _ _ (hd hwf) hn p c h)

/-- A checked form completes where no soft error strikes. -/
theorem checkedForm_completes {i : Instr} {h : Hdr} {rd : List Nat} {n : Nat} {d : Reg} {cc : Bool} {c : Checked}
    {f : Warp → Nat → Nat} {code : Nat → CC} (he : ∀ s, exec i s = checkedForm s i.legal h rd n d cc c f code)
    (hd : i.WellFormed → d.toNat + n ≤ 384 ∨ 384 ≤ d.toNat) (hn : n ≠ 0)
    {post : State → Issuer → Warp → PathEntry → Mask → Warp → Prop}
    (hp : ∀ s who (w v : Warp) p act, i.WellFormed →
      w.ResultCC v n d cc act (f w) (fun L => code (f w L)) → post s who w p act v) :
    LaneCompletes i h rd (span n d) post :=
  laneCompletes_of (g := fun _ _ w _ act => (w.putD n d act (f w)).putCC cc act fun L => code (f w L))
    (fun s who w p hwf hc hu => ⟨lane i.legal h rd (span n d), rfl, by
      rw [he, checkedForm, issue_next hc hwf]
      have hs : s.strikes who (w.activeLanes p h) = [] := by simp [State.strikes, hu]
      simp only [lane, hs]⟩)
    (fun _ _ w _ _ => (w.dataOnly_putD ..).trans (Warp.dataOnly_putCC ..))
    fun _ _ w p _ c hwf => hp _ _ _ _ _ _ hwf (w.resultCC_putD _ _ cc _ (hd hwf) hn p c h)

/-- Without CC the codes stay. -/
theorem Warp.ResultCC.result {w v : Warp} {n : Nat} {d : Reg} {act : Mask} {f : Nat → Nat} {g : Nat → CC}
    (h : w.ResultCC v n d false act f g) : w.Result v n d act f :=
  ⟨h.1, h.2.1, fun L hL => by simpa using h.2.2 L hL⟩

/-- A form that writes one predicate completes. -/
theorem predForm_completes {i : Instr} {h : Hdr} {rd : List Nat} {q : Nat} {f : Warp → Mask → Mask}
    (he : ∀ s, exec i s = laneForm s (lane i.legal h rd []) fun w act => w.putPred q act (f w act))
    {post : State → Issuer → Warp → PathEntry → Mask → Warp → Prop}
    (hp : ∀ s who (w v : Warp) p act, i.WellFormed →
      (w.SameRegs v ∧ w.SameCC v ∧ w.WrotePred v q act (f w act).getLsbD) → post s who w p act v) :
    LaneCompletes i h rd [] post :=
  laneForm_completes (g := fun w act => w.putPred q act (f w act)) he (fun w _ => w.dataOnly_putPred ..)
    fun _ _ w p act c hwf => hp _ _ _ _ _ _ hwf ⟨fun r L hL => by simp, fun L hL => by simp, fun r L hL => by
      have := w.wrotePred_putPred q act (f w act) _ (fun _ _ _ => rfl) r L hL
      simpa using this⟩

end Sys2Proof.Machine
end

