-- ==== Sys2Proof/Laws/MemOps.lean ====
section
/-! SUPPORT. What the memory operations over addresses leave of memory: walks, caches, parking and poison change no
byte, and every write keeps the canonical form. -/

namespace Sys2Proof.Machine

/-- A list of operations that change no byte of memory changes none. -/
theorem foldl_mem {β : Type} {f : State → β → State} (h : ∀ s b, (f s b).mem = s.mem) (l : List β) :
    ∀ s : State, (l.foldl f s).mem = s.mem := by
  induction l with
  | nil => exact fun _ => rfl
  | cons b l ih => exact fun s => (ih (f s b)).trans (h s b)

@[simp] theorem State.setOwned_mem (s : State) (d : DieId) (l : Nat) (b : Bool) : (s.setOwned d l b).mem = s.mem := rfl

@[simp] theorem State.linkUp_mem (s : State) (d : DieId) : (s.linkUp d).mem = s.mem := by
  unfold State.linkUp
  dsimp only
  split
  · rfl
  · exact s.setDie_mem d _

@[simp] theorem State.dram_mem (s : State) (d : DieId) (t l n : Nat) : (s.dram d t l n).mem = s.mem := by
  unfold State.dram; split
  · rfl
  · simp

@[simp] theorem State.mscEvict_mem (s : State) (k : MscLine → Bool) : (s.mscEvict k).mem = s.mem :=
  foldl_mem (fun s (m : MscLine) => s.dram_mem m.die m.tenant m.line 128) _ s

@[simp] theorem State.mscFill_mem (s : State) (d : DieId) (l t : Nat) (w st : Bool) (b : List Byte) :
    (s.mscFill d l t w st b).mem = s.mem := by
  unfold State.mscFill
  split
  · rfl
  · exact State.mscEvict_mem _ _

@[simp] theorem State.mscHome_mem (s : State) (h : DieId) (l t n : Nat) (w no st : Bool) :
    (s.mscHome h l t n w no st).mem = s.mem := by
  unfold State.mscHome
  split
  · split <;> rfl
  · dsimp only; split <;> simp

@[simp] theorem State.mscOne_mem (s : State) (b : DieId) (l t n : Nat) (w no st : Bool) :
    (s.mscOne b l t n w no st).mem = s.mem := by
  have fill : ∀ (c : Prop) [Decidable c] (u : State), (if c then u else u.mscFill b l t false st []).mem = u.mem := by
    intro c _ u; split <;> simp
  unfold State.mscOne
  split
  · rfl
  · dsimp only
    split
    · split <;> simp
    · split
      · rfl
      · split <;> simp [fill]

@[simp] theorem State.mscTouch_mem (s : State) (b : DieId) (pa t n : Nat) (w no st : Bool) :
    (s.mscTouch b pa t n w no st).mem = s.mem := by
  unfold State.mscTouch
  generalize linesOf pa n = l
  refine foldl_mem (fun s p => ?_) l s
  exact s.mscOne_mem b p.1 t p.2 w no st

@[simp] theorem State.walkTouch_mem (s : State) (g : Agent) (va : Nat) : (s.walkTouch g va).mem = s.mem := by
  unfold State.walkTouch
  generalize s.walkReads g.die g.tenant va = l
  exact foldl_mem (fun s pa => State.mscTouch_mem s g.die pa g.tenant 8 false false false) l s

@[simp] theorem State.cache_mem (s : State) (g : Agent) (va e : Nat) : (s.cache g va e).mem = s.mem := rfl

@[simp] theorem State.dropL1_mem (s : State) (d : DieId) (c : Nat → Bool) (pa n : Nat) : (s.dropL1 d c pa n).mem = s.mem := rfl

@[simp] theorem State.hostLog_mem (s : State) (g : Agent) (k pa n d : Nat) (ro : Bool) : (s.hostLog g k pa n d ro).mem = s.mem := by
  unfold State.hostLog; split <;> rfl

@[simp] theorem State.releaseHost_mem (s : State) (n : Nat) : (s.releaseHost n).mem = s.mem := rfl

@[simp] theorem State.finishPart_mem (s : State) (who : Issuer) (id n : Nat) : (s.finishPart who id n).mem = s.mem := by
  unfold State.finishPart; split <;> rfl

theorem ite_mem (c : Prop) [Decidable c] (a b s : State) (ha : a.mem = s.mem) (hb : b.mem = s.mem) :
    (if c then a else b).mem = s.mem := by
  split <;> assumption

@[simp] theorem State.stampRings_mem (s : State) (k c : Nat) : (s.stampRings k c).mem = s.mem := by
  unfold State.stampRings
  exact foldl_mem (fun s d => foldl_mem (fun s q => ite_mem _ _ _ _ (State.setDie_mem _ _ _) rfl) _ s) _ s

@[simp] theorem State.setMarks_mem (s : State) (m : RingMarks) (c : Nat) : (s.setMarks m c).mem = s.mem := by
  unfold State.setMarks
  dsimp only
  rw [foldl_mem (fun s (p : Issuer × Nat × Nat) => s.finishPart_mem p.1 p.2.1 1)]
  simp

@[simp] theorem State.ringsSee_mem (s : State) (pa n : Nat) : (s.ringsSee pa n).mem = s.mem :=
  foldl_mem (fun s m => s.setMarks_mem m _) _ s

@[simp] theorem State.wroteAt_mem (s : State) (ps : List Nat) : (s.wroteAt ps).mem = s.mem := by
  unfold State.wroteAt; split <;> rfl

@[simp] theorem State.wrote_mem (s : State) (l n : Nat) : (s.wrote l n).mem = s.mem := s.wroteAt_mem _

@[simp] theorem State.stage_mem (s : State) (x : Xl) (pa n : Nat) : (s.stage x pa n).mem = s.mem := by
  unfold State.stage
  split
  · rfl
  · split <;> simp

@[simp] theorem State.unpark_mem (s : State) (k : Park → Bool) : (s.unpark k).mem = s.mem := rfl

@[simp] theorem State.rewritten_mem (s : State) (pa n : Nat) : (s.rewritten pa n).mem = s.mem := by
  unfold State.rewritten
  split
  · rfl
  · dsimp only
    split <;> rfl

theorem ite_fst_mem {α : Type} (c : Prop) [Decidable c] (a b : State × α) (s : State) (ha : a.1.mem = s.mem)
    (hb : b.1.mem = s.mem) : (if c then a else b).1.mem = s.mem := by
  split <;> assumption

theorem State.translate_mem (s : State) (g : Agent) (va : Nat) (p : Perm) : (s.translate g va p).1.mem = s.mem := by
  unfold State.translate
  cases s.windowAt g.tenant g.job va with
  | some w =>
    obtain ⟨j, i, w⟩ := w
    exact ite_fst_mem _ _ _ _ rfl (ite_fst_mem _ _ _ _ rfl rfl)
  | none =>
    cases s.cached g va with
    | some e => simp only
    | none =>
      cases s.walk g.die g.tenant va with
      | none => exact s.walkTouch_mem g va
      | some e => exact ite_fst_mem _ _ _ _ ((State.cache_mem _ g va e).trans (s.walkTouch_mem g va)) (s.walkTouch_mem g va)

theorem State.readPaged_mem (s : State) (g : Agent) (home : Bool) (va n : Nat) (p : Perm) :
    (s.readPaged g home va n p).1.mem = s.mem := by
  have h := s.translate_mem g va p
  unfold State.readPaged
  split
  · simp_all
  · split
    · simp_all
    · dsimp only
      split
      · simp_all
      · dsimp only
        split <;> simp_all

theorem State.read1_mem (s : State) (g : Agent) (home : Bool) (va n : Nat) : (s.read1 g home va n).1.mem = s.mem := by
  have h := s.readPaged_mem g home va n ⟨true, false, false⟩
  unfold State.read1
  split
  · rfl
  · split
    · dsimp only
      split <;> rfl
    · split <;> simp_all

theorem State.readVa_mem (g : Agent) (home : Bool) (k : Nat) : ∀ (s : State) (va n : Nat), (s.readVa g home va n k).1.mem = s.mem := by
  induction k with
  | zero => intros; rfl
  | succ k ih =>
    intro s va n
    have h := s.read1_mem g home va (firstPiece va n)
    unfold State.readVa
    split
    · rfl
    · split
      · rename_i t a e
        rw [e] at h
        split
        · rename_i u b f
          have := ih t (va + firstPiece va n) (n - firstPiece va n)
          rw [f] at this
          exact this.trans h
        · exact (ih _ _ _).trans h
      · exact h

/-- Reading a range changes no byte of memory. -/
theorem State.load_mem (s : State) (g : Agent) (va n : Nat) : (s.load g va n).1.mem = s.mem := State.readVa_mem g false _ s va n

/-- So does reading one at its home. -/
theorem State.loadHome_mem (s : State) (g : Agent) (va n : Nat) : (s.loadHome g va n).1.mem = s.mem := State.readVa_mem g true _ s va n

/-- Reading a ring's descriptor changes no byte of memory. -/
theorem State.ringAt_mem (s : State) (g : Agent) (va : Nat) : (s.ringAt g va).1.mem = s.mem := by
  have h := s.loadHome_mem g va 64
  unfold State.ringAt
  split <;> simp_all

/-- A list of operations that keep the canonical form keeps it. -/
theorem foldl_memOk {β : Type} {f : State → β → State} (h : ∀ s b, s.MemOk → (f s b).MemOk) (l : List β) :
    ∀ s : State, s.MemOk → (l.foldl f s).MemOk := by
  induction l with
  | nil => exact fun _ h => h
  | cons b l ih => exact fun s hs => ih (f s b) (h s b hs)

theorem State.memOk_writePa (s : State) (by_ : Option DieId) (x : Xl) (tenant : Nat) (ch : Hint) (bs : List Byte) (h : s.MemOk) :
    (s.writePa by_ x tenant ch bs).MemOk := by
  unfold State.writePa
  refine foldl_memOk (fun s pa h => State.memOk_of_mem_eq
    ((State.ringsSee_mem _ _ _).trans (State.rewritten_mem _ _ _)) (State.memOk_store _ _ _ ?_)) _ _ ?_
  · exact State.memOk_of_mem_eq (by simp) h
  · split <;> exact h

/-- Taking a tag, and keeping its result, change no byte (R433, R434). -/
@[simp] theorem State.nextTag_mem (s : State) (d : DieId) : (s.nextTag d).1.mem = s.mem := by
  simp [State.nextTag]

@[simp] theorem State.tagMirror_mem (s : State) (g : Agent) (x : Xl) : (s.tagMirror g x).mem = s.mem := by
  unfold State.tagMirror
  split <;> simp

theorem State.memOk_writePaged (s : State) (g : Agent) (va : Nat) (bs : List Byte) (p : Perm) (h : s.MemOk) :
    (s.writePaged g va bs p).1.MemOk := by
  have e := s.translate_mem g va p
  unfold State.writePaged
  split
  · rename_i f; rw [f] at e; exact State.memOk_of_mem_eq e h
  · rename_i t x f
    rw [f] at e
    split
    · exact State.memOk_of_mem_eq e h
    · refine foldl_memOk (f := fun s pa => s.dropL1 g.die _ pa bs.length) (fun s pa h => h) _ _ ?_
      exact State.memOk_writePa _ _ _ _ _ _ (State.memOk_of_mem_eq (by simpa using e) h)

theorem State.memOk_storeLocal (s : State) (l : Nat) (bs : List Byte) (n : Nat) (h : s.MemOk) :
    (((s.store l bs).wrote l n).ringsSee l n).MemOk :=
  State.memOk_of_mem_eq (s := s.store l bs) (by simp) (State.memOk_store _ _ _ h)

theorem State.memOk_write1 (s : State) (g : Agent) (va : Nat) (bs : List Byte) (h : s.MemOk) : (s.write1 g va bs).1.MemOk := by
  unfold State.write1
  split
  · exact h
  · split
    · exact State.memOk_storeLocal _ _ _ _ h
    · exact State.memOk_writePaged _ _ _ _ _ h

theorem State.memOk_writeVa (g : Agent) (k : Nat) : ∀ (s : State) (va : Nat) (bs : List Byte), s.MemOk → (s.writeVa g va bs k).1.MemOk := by
  induction k with
  | zero => exact fun _ _ _ h => h
  | succ k ih =>
    intro s va bs h
    have e := s.memOk_write1 g va (bs.take (firstPiece va bs.length)) h
    unfold State.writeVa
    split
    · exact h
    · split
      · rename_i f; rw [f] at e; exact ih _ _ _ e
      · exact e

/-- Writing a range keeps the canonical form of memory. -/
theorem State.memOk_save (s : State) (g : Agent) (va : Nat) (bs : List Byte) (h : s.MemOk) : (s.save g va bs).1.MemOk :=
  State.memOk_writeVa g _ s va bs h

/-- Writing a ring's counters back keeps it. -/
theorem State.memOk_putRing (s : State) (g : Agent) (va : Nat) (r : Ring) (clear : Bool) (h : s.MemOk) :
    (s.putRing g va r clear).1.MemOk := by
  unfold State.putRing
  dsimp only
  split
  · exact State.memOk_of_mem_eq (State.releaseHost_mem _ _) (State.memOk_save _ _ _ _ h)
  · exact State.memOk_save _ _ _ _ h

/-- Writing a barrier object keeps it. -/
theorem State.memOk_setBarrier (s : State) (block spos i : Nat) (b : Barrier) (h : s.MemOk) : (s.setBarrier block spos i b).MemOk :=
  State.memOk_of_mem_eq (State.wrote_mem _ _ _) (State.memOk_store _ _ _ h)

/-- Writing a piece of a lane's access keeps it. -/
theorem State.memOk_putPiece (s : State) (a : Acc) (g : Agent) (m : Mapped) (bs : List Byte) (h : s.MemOk) :
    (s.putPiece a g m bs).MemOk := by
  unfold State.putPiece
  split
  · exact State.memOk_storeLocal _ _ _ _ h
  · rename_i x _
    have hw := State.memOk_writePa s (if a.op == .st then some g.die else none) x g.tenant a.ch bs h
    dsimp only
    split
    · exact hw
    · split
      · exact State.memOk_of_mem_eq rfl hw
      · exact foldl_memOk (f := fun s pa => s.dropL1 g.die (· == a.core) pa bs.length) (fun s pa h => h) _ _ hw

theorem State.memOk_putPieces (a : Acc) (g : Agent) (ms : List Mapped) :
    ∀ (s : State) (bs : List Byte), s.MemOk → (s.putPieces a g ms bs).MemOk := by
  induction ms with
  | nil => exact fun _ _ h => h
  | cons m ms ih => exact fun s bs h => ih _ _ (s.memOk_putPiece a g m _ h)

/-- A lane's store or read-modify-write keeps it. -/
theorem State.memOk_modify (s : State) (a : Acc) (g : Agent) (l : LaneAcc) (ms : List Mapped) (h : s.MemOk) :
    (s.modify a g l ms).1.MemOk := by
  unfold State.modify
  dsimp only
  split
  · exact State.memOk_putPieces a g ms _ _ h
  · exact State.memOk_putPieces a g ms _ _ h
  · exact State.memOk_putPieces a g ms _ _ h
  · exact h

/-! ## Sequencers and remote writes of the copy engine -/

/-- A warp is never cut off (R456). -/
@[simp] theorem State.cutOff_warp (s : State) (h k : Nat) : s.cutOff (.warp h k) = false := rfl

/-- Discarding what sequencers have asked for changes no byte and leaves no access of theirs (R440). -/
@[simp] theorem State.dropSeqs_mem (s : State) (p : SeqId → Bool) : (s.dropSeqs p).mem = s.mem := rfl

theorem State.dropSeqs_accs (s : State) (p : SeqId → Bool) (q : SeqId) (hq : p q = true) :
    ∀ a ∈ (s.dropSeqs p).accs, a.who ≠ .seq q := by
  intro a ha h
  simp only [State.dropSeqs, List.mem_filter, h, hq] at ha
  simp at ha

/-- Tagging a remote write of the copy engine changes no byte (R433). -/
@[simp] theorem State.tagCopy_mem (s : State) (c : CopyCmd) (bs : List Byte) (home : DieId) (dup lost : Bool) :
    (s.tagCopy c bs home dup lost).mem = s.mem := by
  simp [State.tagCopy]

/-! ## Operations that change no byte -/

@[simp] theorem State.dropRemote_mem (s : State) (r : Remote) : (s.dropRemote r).mem = s.mem := rfl
@[simp] theorem State.keep_mem (s : State) (r : Remote) (v : Nat) : (s.keep r v).mem = s.mem := rfl

@[simp] theorem State.laneSent_mem (s : State) (id lane : Nat) : (s.laneSent id lane).mem = s.mem := by
  unfold State.laneSent
  split <;> rfl

@[simp] theorem State.laneAnew_mem (s : State) (r : Remote) : (s.laneAnew r).mem = s.mem := by
  unfold State.laneAnew
  split <;> rfl

/-- After `keep` the home holds the result of the write (R434). -/
theorem State.keep_kept (s : State) (r : Remote) (v : Nat) :
    ∃ k ∈ (s.keep r v).kept, k.die = r.die ∧ k.tag = r.tag ∧ k.value = v ∧ k.home = r.home :=
  ⟨_, List.mem_append_right _ (List.mem_singleton_self _), rfl, rfl, rfl, rfl⟩

/-- No tag that is in use is taken: where a write need not wait, its tag has not been used in the last 2 ms, no write
outstanding bears it, and its home has room (R433, R434). -/
theorem State.not_tagHeld (s : State) (d home : DieId) (h : s.tagHeld d home = false) :
    (s.die d).tagBusy = false ∧ (∀ r ∈ s.remotes, r.die = d → r.tag ≠ (s.die d).tag + 1) ∧ s.keptFull home = false := by
  simp only [State.tagHeld, Bool.or_eq_false_iff] at h
  refine ⟨h.1.1, fun r hr hd ht => ?_, h.2⟩
  have := List.any_eq_false.1 h.1.2 r hr
  simp [hd, ht] at this

end Sys2Proof.Machine
end

