-- ==== Sys2Proof/Laws/PerInstr.lean ====
section
/-! SUPPORT. The family `Code`: what the parser reads from the fields that the encoder gives an instruction is that
instruction; an event has no fields. -/

namespace Sys2Proof.Laws.Code

set_option Elab.async false

/-- The parser undoes the encoder of fields (R49, R67). -/
def Statement (i : Instr) : Prop := ∀ f, encodeFields i = some f → parseInstr f = some i

/-- A form whose shape is read back, and whose OP and FN lead the parser to it. -/
theorem of_shape {α : Type} {i : Instr} {e f : Fields} {p : Option α} {k : α → Instr} {x : α}
    (h : encodeFields i = some f) (he : encodeFields i = some e) (hp : p = some x) (hk : k x = i)
    (hr : parseInstr e = p.map k) : parseInstr f = some i := by
  rw [he] at h
  cases h
  rw [hr, hp, ← hk]
  rfl

/-- An event. -/
theorem of_event {i : Instr} (h : encodeFields i = none) : Statement i := fun f hf => by rw [h] at hf; cases hf

theorem intAdd (x : IntBin) : Statement (.intAdd x) := fun _ h =>
  of_shape h rfl (IntBin.parse_enc _ _ x) rfl (by rw [parseInstr, (IntBin.enc_op _ _ x).1]; change parse00 _ = _; rw [parse00, (IntBin.enc_op _ _ x).2]; rfl)

theorem intAddc (x : IntBin) : Statement (.intAddc x) := fun _ h =>
  of_shape h rfl (IntBin.parse_enc _ _ x) rfl (by rw [parseInstr, (IntBin.enc_op _ _ x).1]; change parse00 _ = _; rw [parse00, (IntBin.enc_op _ _ x).2]; rfl)

theorem intSub (x : IntBin) : Statement (.intSub x) := fun _ h =>
  of_shape h rfl (IntBin.parse_enc _ _ x) rfl (by rw [parseInstr, (IntBin.enc_op _ _ x).1]; change parse00 _ = _; rw [parse00, (IntBin.enc_op _ _ x).2]; rfl)

theorem intSubb (x : IntBin) : Statement (.intSubb x) := fun _ h =>
  of_shape h rfl (IntBin.parse_enc _ _ x) rfl (by rw [parseInstr, (IntBin.enc_op _ _ x).1]; change parse00 _ = _; rw [parse00, (IntBin.enc_op _ _ x).2]; rfl)

theorem intNeg (x : IntUn) : Statement (.intNeg x) := fun _ h =>
  of_shape h rfl (IntUn.parse_enc _ _ x) rfl (by rw [parseInstr, (IntUn.enc_op _ _ x).1]; change parse00 _ = _; rw [parse00, (IntUn.enc_op _ _ x).2]; rfl)

theorem intAbs (x : IntUn) : Statement (.intAbs x) := fun _ h =>
  of_shape h rfl (IntUn.parse_enc _ _ x) rfl (by rw [parseInstr, (IntUn.enc_op _ _ x).1]; change parse00 _ = _; rw [parse00, (IntUn.enc_op _ _ x).2]; rfl)

theorem intMin (x : IntBin) : Statement (.intMin x) := fun _ h =>
  of_shape h rfl (IntBin.parse_enc _ _ x) rfl (by rw [parseInstr, (IntBin.enc_op _ _ x).1]; change parse00 _ = _; rw [parse00, (IntBin.enc_op _ _ x).2]; rfl)

theorem intMax (x : IntBin) : Statement (.intMax x) := fun _ h =>
  of_shape h rfl (IntBin.parse_enc _ _ x) rfl (by rw [parseInstr, (IntBin.enc_op _ _ x).1]; change parse00 _ = _; rw [parse00, (IntBin.enc_op _ _ x).2]; rfl)

theorem imulLo (x : Typed2) : Statement (.imulLo x) := fun _ h =>
  of_shape h rfl (Typed2.parse_enc _ _ x) rfl (by rw [parseInstr, (Typed2.enc_op _ _ x).1]; change parse01 _ = _; rw [parse01, (Typed2.enc_op _ _ x).2]; rfl)

theorem imulHi (x : Typed2) : Statement (.imulHi x) := fun _ h =>
  of_shape h rfl (Typed2.parse_enc _ _ x) rfl (by rw [parseInstr, (Typed2.enc_op _ _ x).1]; change parse01 _ = _; rw [parse01, (Typed2.enc_op _ _ x).2]; rfl)

theorem imulWide (x : Typed2) : Statement (.imulWide x) := fun _ h =>
  of_shape h rfl (Typed2.parse_enc _ _ x) rfl (by rw [parseInstr, (Typed2.enc_op _ _ x).1]; change parse01 _ = _; rw [parse01, (Typed2.enc_op _ _ x).2]; rfl)

theorem imulMadlo (x : Typed3) : Statement (.imulMadlo x) := fun _ h =>
  of_shape h rfl (Typed3.parse_enc _ _ x) rfl (by rw [parseInstr, (Typed3.enc_op _ _ x).1]; change parse01 _ = _; rw [parse01, (Typed3.enc_op _ _ x).2]; rfl)

theorem imulMadhi (x : Typed3) : Statement (.imulMadhi x) := fun _ h =>
  of_shape h rfl (Typed3.parse_enc _ _ x) rfl (by rw [parseInstr, (Typed3.enc_op _ _ x).1]; change parse01 _ = _; rw [parse01, (Typed3.enc_op _ _ x).2]; rfl)

theorem imulMadwide (x : Typed3) : Statement (.imulMadwide x) := fun _ h =>
  of_shape h rfl (Typed3.parse_enc _ _ x) rfl (by rw [parseInstr, (Typed3.enc_op _ _ x).1]; change parse01 _ = _; rw [parse01, (Typed3.enc_op _ _ x).2]; rfl)

theorem idivDiv (x : Typed2) : Statement (.idivDiv x) := fun _ h =>
  of_shape h rfl (Typed2.parse_enc _ _ x) rfl (by rw [parseInstr, (Typed2.enc_op _ _ x).1]; change parse02 _ = _; rw [parse02, (Typed2.enc_op _ _ x).2]; rfl)

theorem idivRem (x : Typed2) : Statement (.idivRem x) := fun _ h =>
  of_shape h rfl (Typed2.parse_enc _ _ x) rfl (by rw [parseInstr, (Typed2.enc_op _ _ x).1]; change parse02 _ = _; rw [parse02, (Typed2.enc_op _ _ x).2]; rfl)

theorem idotDp4 (x : Dot4) : Statement (.idotDp4 x) := fun _ h =>
  of_shape h rfl (Dot4.parse_enc _ _ x) rfl (by rw [parseInstr, (Dot4.enc_op _ _ x).1]; change parse03 _ = _; rw [parse03, (Dot4.enc_op _ _ x).2]; rfl)

theorem logicAnd (x : Logic2) : Statement (.logicAnd x) := fun _ h =>
  of_shape h rfl (Logic2.parse_enc _ _ x) rfl (by rw [parseInstr, (Logic2.enc_op _ _ x).1]; change parse10 _ = _; rw [parse10, (Logic2.enc_op _ _ x).2]; rfl)

theorem logicOr (x : Logic2) : Statement (.logicOr x) := fun _ h =>
  of_shape h rfl (Logic2.parse_enc _ _ x) rfl (by rw [parseInstr, (Logic2.enc_op _ _ x).1]; change parse10 _ = _; rw [parse10, (Logic2.enc_op _ _ x).2]; rfl)

theorem logicXor (x : Logic2) : Statement (.logicXor x) := fun _ h =>
  of_shape h rfl (Logic2.parse_enc _ _ x) rfl (by rw [parseInstr, (Logic2.enc_op _ _ x).1]; change parse10 _ = _; rw [parse10, (Logic2.enc_op _ _ x).2]; rfl)

theorem logicNot (x : Logic1) : Statement (.logicNot x) := fun _ h =>
  of_shape h rfl (Logic1.parse_enc _ _ x) rfl (by rw [parseInstr, (Logic1.enc_op _ _ x).1]; change parse10 _ = _; rw [parse10, (Logic1.enc_op _ _ x).2]; rfl)

theorem logicTruth (x : Truth) : Statement (.logicTruth x) := fun _ h =>
  of_shape h rfl (Truth.parse_enc _ _ x) rfl (by rw [parseInstr, (Truth.enc_op _ _ x).1]; change parse10 _ = _; rw [parse10, (Truth.enc_op _ _ x).2]; rfl)

theorem shiftShl (x : Logic2) : Statement (.shiftShl x) := fun _ h =>
  of_shape h rfl (Logic2.parse_enc _ _ x) rfl (by rw [parseInstr, (Logic2.enc_op _ _ x).1]; change parse11 _ = _; rw [parse11, (Logic2.enc_op _ _ x).2]; rfl)

theorem shiftShr (x : Logic2) : Statement (.shiftShr x) := fun _ h =>
  of_shape h rfl (Logic2.parse_enc _ _ x) rfl (by rw [parseInstr, (Logic2.enc_op _ _ x).1]; change parse11 _ = _; rw [parse11, (Logic2.enc_op _ _ x).2]; rfl)

theorem shiftSar (x : Logic2) : Statement (.shiftSar x) := fun _ h =>
  of_shape h rfl (Logic2.parse_enc _ _ x) rfl (by rw [parseInstr, (Logic2.enc_op _ _ x).1]; change parse11 _ = _; rw [parse11, (Logic2.enc_op _ _ x).2]; rfl)

theorem shiftFshl (x : Typed3) : Statement (.shiftFshl x) := fun _ h =>
  of_shape h rfl (Typed3.parse_enc _ _ x) rfl (by rw [parseInstr, (Typed3.enc_op _ _ x).1]; change parse11 _ = _; rw [parse11, (Typed3.enc_op _ _ x).2]; rfl)

theorem shiftFshr (x : Typed3) : Statement (.shiftFshr x) := fun _ h =>
  of_shape h rfl (Typed3.parse_enc _ _ x) rfl (by rw [parseInstr, (Typed3.enc_op _ _ x).1]; change parse11 _ = _; rw [parse11, (Typed3.enc_op _ _ x).2]; rfl)

theorem bitPopc (x : Typed1) : Statement (.bitPopc x) := fun _ h =>
  of_shape h rfl (Typed1.parse_enc _ _ x) rfl (by rw [parseInstr, (Typed1.enc_op _ _ x).1]; change parse12 _ = _; rw [parse12, (Typed1.enc_op _ _ x).2]; rfl)

theorem bitClz (x : Typed1) : Statement (.bitClz x) := fun _ h =>
  of_shape h rfl (Typed1.parse_enc _ _ x) rfl (by rw [parseInstr, (Typed1.enc_op _ _ x).1]; change parse12 _ = _; rw [parse12, (Typed1.enc_op _ _ x).2]; rfl)

theorem bitCtz (x : Typed1) : Statement (.bitCtz x) := fun _ h =>
  of_shape h rfl (Typed1.parse_enc _ _ x) rfl (by rw [parseInstr, (Typed1.enc_op _ _ x).1]; change parse12 _ = _; rw [parse12, (Typed1.enc_op _ _ x).2]; rfl)

theorem bitBrev (x : Typed1) : Statement (.bitBrev x) := fun _ h =>
  of_shape h rfl (Typed1.parse_enc _ _ x) rfl (by rw [parseInstr, (Typed1.enc_op _ _ x).1]; change parse12 _ = _; rw [parse12, (Typed1.enc_op _ _ x).2]; rfl)

theorem bitBfe (x : Typed2) : Statement (.bitBfe x) := fun _ h =>
  of_shape h rfl (Typed2.parse_enc _ _ x) rfl (by rw [parseInstr, (Typed2.enc_op _ _ x).1]; change parse12 _ = _; rw [parse12, (Typed2.enc_op _ _ x).2]; rfl)

theorem bitBfi (x : Typed3) : Statement (.bitBfi x) := fun _ h =>
  of_shape h rfl (Typed3.parse_enc _ _ x) rfl (by rw [parseInstr, (Typed3.enc_op _ _ x).1]; change parse12 _ = _; rw [parse12, (Typed3.enc_op _ _ x).2]; rfl)

theorem mov (x : MovOp) : Statement (.mov x) := fun _ h =>
  of_shape h rfl (MovOp.parse_enc _ _ x) rfl (by rw [parseInstr, (MovOp.enc_op _ _ x).1]; change parse13 _ = _; rw [parse13, (MovOp.enc_op _ _ x).2]; rfl)

theorem movBsel (x : Typed3) : Statement (.movBsel x) := fun _ h =>
  of_shape h rfl (Typed3.parse_enc _ _ x) rfl (by rw [parseInstr, (Typed3.enc_op _ _ x).1]; change parse13 _ = _; rw [parse13, (Typed3.enc_op _ _ x).2]; rfl)

theorem setpCmp (x : SetpCmp) : Statement (.setpCmp x) := fun _ h =>
  of_shape h rfl (SetpCmp.parse_enc _ _ x) rfl (by rw [parseInstr, (SetpCmp.enc_op _ _ x).1]; change parse20 _ = _; rw [parse20, (SetpCmp.enc_op _ _ x).2]; rfl)

theorem setpCct (x : SetpCct) : Statement (.setpCct x) := fun _ h =>
  of_shape h rfl (SetpCct.parse_enc _ _ x) rfl (by rw [parseInstr, (SetpCct.enc_op _ _ x).1]; change parse20 _ = _; rw [parse20, (SetpCct.enc_op _ _ x).2]; rfl)

theorem setpClass (x : SetpClass) : Statement (.setpClass x) := fun _ h =>
  of_shape h rfl (SetpClass.parse_enc _ _ x) rfl (by rw [parseInstr, (SetpClass.enc_op _ _ x).1]; change parse20 _ = _; rw [parse20, (SetpClass.enc_op _ _ x).2]; rfl)

theorem pcomb (x : Pcomb) : Statement (.pcomb x) := fun _ h =>
  of_shape h rfl (Pcomb.parse_enc _ _ x) rfl (by rw [parseInstr, (Pcomb.enc_op _ _ x).1]; change parse21 _ = _; rw [parse21, (Pcomb.enc_op _ _ x).2]; rfl)

theorem sel (x : SelP) : Statement (.sel x) := fun _ h =>
  of_shape h rfl (SelP.parse_enc _ _ x) rfl (by rw [parseInstr, (SelP.enc_op _ _ x).1]; change parse22 _ = _; rw [parse22, (SelP.enc_op _ _ x).2]; rfl)

theorem selCc (x : SelCc) : Statement (.selCc x) := fun _ h =>
  of_shape h rfl (SelCc.parse_enc _ _ x) rfl (by rw [parseInstr, (SelCc.enc_op _ _ x).1]; change parse22 _ = _; rw [parse22, (SelCc.enc_op _ _ x).2]; rfl)

theorem pmovToreg (x : DOnly) : Statement (.pmovToreg x) := fun _ h =>
  of_shape h rfl (DOnly.parse_enc _ _ x) rfl (by rw [parseInstr, (DOnly.enc_op _ _ x).1]; change parse23 _ = _; rw [parse23, (DOnly.enc_op _ _ x).2]; rfl)

theorem pmovFromreg (x : PmovFrom) : Statement (.pmovFromreg x) := fun _ h =>
  of_shape h rfl (PmovFrom.parse_enc _ _ x) rfl (by rw [parseInstr, (PmovFrom.enc_op _ _ x).1]; change parse23 _ = _; rw [parse23, (PmovFrom.enc_op _ _ x).2]; rfl)

theorem farithAdd (x : Flt2) : Statement (.farithAdd x) := fun _ h =>
  of_shape h rfl (Flt2.parse_enc _ _ x) rfl (by rw [parseInstr, (Flt2.enc_op _ _ x).1]; change parse30 _ = _; rw [parse30, (Flt2.enc_op _ _ x).2]; rfl)

theorem farithSub (x : Flt2) : Statement (.farithSub x) := fun _ h =>
  of_shape h rfl (Flt2.parse_enc _ _ x) rfl (by rw [parseInstr, (Flt2.enc_op _ _ x).1]; change parse30 _ = _; rw [parse30, (Flt2.enc_op _ _ x).2]; rfl)

theorem farithMul (x : Flt2) : Statement (.farithMul x) := fun _ h =>
  of_shape h rfl (Flt2.parse_enc _ _ x) rfl (by rw [parseInstr, (Flt2.enc_op _ _ x).1]; change parse30 _ = _; rw [parse30, (Flt2.enc_op _ _ x).2]; rfl)

theorem farithFma (x : Flt3) : Statement (.farithFma x) := fun _ h =>
  of_shape h rfl (Flt3.parse_enc _ _ x) rfl (by rw [parseInstr, (Flt3.enc_op _ _ x).1]; change parse30 _ = _; rw [parse30, (Flt3.enc_op _ _ x).2]; rfl)

theorem farithMin (x : FltMm) : Statement (.farithMin x) := fun _ h =>
  of_shape h rfl (FltMm.parse_enc _ _ x) rfl (by rw [parseInstr, (FltMm.enc_op _ _ x).1]; change parse30 _ = _; rw [parse30, (FltMm.enc_op _ _ x).2]; rfl)

theorem farithMax (x : FltMm) : Statement (.farithMax x) := fun _ h =>
  of_shape h rfl (FltMm.parse_enc _ _ x) rfl (by rw [parseInstr, (FltMm.enc_op _ _ x).1]; change parse30 _ = _; rw [parse30, (FltMm.enc_op _ _ x).2]; rfl)

theorem farithAbs (x : Flt1) : Statement (.farithAbs x) := fun _ h =>
  of_shape h rfl (Flt1.parse_enc _ _ x) rfl (by rw [parseInstr, (Flt1.enc_op _ _ x).1]; change parse30 _ = _; rw [parse30, (Flt1.enc_op _ _ x).2]; rfl)

theorem farithNeg (x : Flt1) : Statement (.farithNeg x) := fun _ h =>
  of_shape h rfl (Flt1.parse_enc _ _ x) rfl (by rw [parseInstr, (Flt1.enc_op _ _ x).1]; change parse30 _ = _; rw [parse30, (Flt1.enc_op _ _ x).2]; rfl)

theorem fmiscRint (x : FltRint) : Statement (.fmiscRint x) := fun _ h =>
  of_shape h rfl (FltRint.parse_enc _ _ x) rfl (by rw [parseInstr, (FltRint.enc_op _ _ x).1]; change parse31 _ = _; rw [parse31, (FltRint.enc_op _ _ x).2]; rfl)

theorem fmiscCopysign (x : Typed2) : Statement (.fmiscCopysign x) := fun _ h =>
  of_shape h rfl (Typed2.parse_enc _ _ x) rfl (by rw [parseInstr, (Typed2.enc_op _ _ x).1]; change parse31 _ = _; rw [parse31, (Typed2.enc_op _ _ x).2]; rfl)

theorem darithAdd (x : Flt2) : Statement (.darithAdd x) := fun _ h =>
  of_shape h rfl (Flt2.parse_enc _ _ x) rfl (by rw [parseInstr, (Flt2.enc_op _ _ x).1]; change parse40 _ = _; rw [parse40, (Flt2.enc_op _ _ x).2]; rfl)

theorem darithSub (x : Flt2) : Statement (.darithSub x) := fun _ h =>
  of_shape h rfl (Flt2.parse_enc _ _ x) rfl (by rw [parseInstr, (Flt2.enc_op _ _ x).1]; change parse40 _ = _; rw [parse40, (Flt2.enc_op _ _ x).2]; rfl)

theorem darithMul (x : Flt2) : Statement (.darithMul x) := fun _ h =>
  of_shape h rfl (Flt2.parse_enc _ _ x) rfl (by rw [parseInstr, (Flt2.enc_op _ _ x).1]; change parse40 _ = _; rw [parse40, (Flt2.enc_op _ _ x).2]; rfl)

theorem darithFma (x : Flt3) : Statement (.darithFma x) := fun _ h =>
  of_shape h rfl (Flt3.parse_enc _ _ x) rfl (by rw [parseInstr, (Flt3.enc_op _ _ x).1]; change parse40 _ = _; rw [parse40, (Flt3.enc_op _ _ x).2]; rfl)

theorem darithMin (x : FltMm) : Statement (.darithMin x) := fun _ h =>
  of_shape h rfl (FltMm.parse_enc _ _ x) rfl (by rw [parseInstr, (FltMm.enc_op _ _ x).1]; change parse40 _ = _; rw [parse40, (FltMm.enc_op _ _ x).2]; rfl)

theorem darithMax (x : FltMm) : Statement (.darithMax x) := fun _ h =>
  of_shape h rfl (FltMm.parse_enc _ _ x) rfl (by rw [parseInstr, (FltMm.enc_op _ _ x).1]; change parse40 _ = _; rw [parse40, (FltMm.enc_op _ _ x).2]; rfl)

theorem darithAbs (x : Flt1) : Statement (.darithAbs x) := fun _ h =>
  of_shape h rfl (Flt1.parse_enc _ _ x) rfl (by rw [parseInstr, (Flt1.enc_op _ _ x).1]; change parse40 _ = _; rw [parse40, (Flt1.enc_op _ _ x).2]; rfl)

theorem darithNeg (x : Flt1) : Statement (.darithNeg x) := fun _ h =>
  of_shape h rfl (Flt1.parse_enc _ _ x) rfl (by rw [parseInstr, (Flt1.enc_op _ _ x).1]; change parse40 _ = _; rw [parse40, (Flt1.enc_op _ _ x).2]; rfl)

theorem darithRint (x : FltRint) : Statement (.darithRint x) := fun _ h =>
  of_shape h rfl (FltRint.parse_enc _ _ x) rfl (by rw [parseInstr, (FltRint.enc_op _ _ x).1]; change parse40 _ = _; rw [parse40, (FltRint.enc_op _ _ x).2]; rfl)

theorem sfuRcp (x : SfuOp) : Statement (.sfuRcp x) := fun _ h =>
  of_shape h rfl (SfuOp.parse_enc _ _ x) rfl (by rw [parseInstr, (SfuOp.enc_op _ _ x).1]; change parse41 _ = _; rw [parse41, (SfuOp.enc_op _ _ x).2]; rfl)

theorem sfuRsq (x : SfuOp) : Statement (.sfuRsq x) := fun _ h =>
  of_shape h rfl (SfuOp.parse_enc _ _ x) rfl (by rw [parseInstr, (SfuOp.enc_op _ _ x).1]; change parse41 _ = _; rw [parse41, (SfuOp.enc_op _ _ x).2]; rfl)

theorem sfuSqrt (x : SfuOp) : Statement (.sfuSqrt x) := fun _ h =>
  of_shape h rfl (SfuOp.parse_enc _ _ x) rfl (by rw [parseInstr, (SfuOp.enc_op _ _ x).1]; change parse41 _ = _; rw [parse41, (SfuOp.enc_op _ _ x).2]; rfl)

theorem sfuEx2 (x : SfuOp) : Statement (.sfuEx2 x) := fun _ h =>
  of_shape h rfl (SfuOp.parse_enc _ _ x) rfl (by rw [parseInstr, (SfuOp.enc_op _ _ x).1]; change parse41 _ = _; rw [parse41, (SfuOp.enc_op _ _ x).2]; rfl)

theorem sfuLg2 (x : SfuOp) : Statement (.sfuLg2 x) := fun _ h =>
  of_shape h rfl (SfuOp.parse_enc _ _ x) rfl (by rw [parseInstr, (SfuOp.enc_op _ _ x).1]; change parse41 _ = _; rw [parse41, (SfuOp.enc_op _ _ x).2]; rfl)

theorem sfuSin (x : SfuOp) : Statement (.sfuSin x) := fun _ h =>
  of_shape h rfl (SfuOp.parse_enc _ _ x) rfl (by rw [parseInstr, (SfuOp.enc_op _ _ x).1]; change parse41 _ = _; rw [parse41, (SfuOp.enc_op _ _ x).2]; rfl)

theorem sfuCos (x : SfuOp) : Statement (.sfuCos x) := fun _ h =>
  of_shape h rfl (SfuOp.parse_enc _ _ x) rfl (by rw [parseInstr, (SfuOp.enc_op _ _ x).1]; change parse41 _ = _; rw [parse41, (SfuOp.enc_op _ _ x).2]; rfl)

theorem sfuTanh (x : SfuOp) : Statement (.sfuTanh x) := fun _ h =>
  of_shape h rfl (SfuOp.parse_enc _ _ x) rfl (by rw [parseInstr, (SfuOp.enc_op _ _ x).1]; change parse41 _ = _; rw [parse41, (SfuOp.enc_op _ _ x).2]; rfl)

theorem cvtI2i (x : CvtOp) : Statement (.cvtI2i x) := fun _ h =>
  of_shape h rfl (CvtOp.parse_enc _ _ x) rfl (by rw [parseInstr, (CvtOp.enc_op _ _ x).1]; change parse50 _ = _; rw [parse50, (CvtOp.enc_op _ _ x).2]; rfl)

theorem cvtI2f (x : CvtOp) : Statement (.cvtI2f x) := fun _ h =>
  of_shape h rfl (CvtOp.parse_enc _ _ x) rfl (by rw [parseInstr, (CvtOp.enc_op _ _ x).1]; change parse50 _ = _; rw [parse50, (CvtOp.enc_op _ _ x).2]; rfl)

theorem cvtF2i (x : CvtOp) : Statement (.cvtF2i x) := fun _ h =>
  of_shape h rfl (CvtOp.parse_enc _ _ x) rfl (by rw [parseInstr, (CvtOp.enc_op _ _ x).1]; change parse50 _ = _; rw [parse50, (CvtOp.enc_op _ _ x).2]; rfl)

theorem cvtF2f (x : CvtOp) : Statement (.cvtF2f x) := fun _ h =>
  of_shape h rfl (CvtOp.parse_enc _ _ x) rfl (by rw [parseInstr, (CvtOp.enc_op _ _ x).1]; change parse50 _ = _; rw [parse50, (CvtOp.enc_op _ _ x).2]; rfl)

theorem cvtPack (x : PackOp) : Statement (.cvtPack x) := fun _ h =>
  of_shape h rfl (PackOp.parse_enc _ _ x) rfl (by rw [parseInstr, (PackOp.enc_op _ _ x).1]; change parse50 _ = _; rw [parse50, (PackOp.enc_op _ _ x).2]; rfl)

theorem cvtUnpack (x : PackOp) : Statement (.cvtUnpack x) := fun _ h =>
  of_shape h rfl (PackOp.parse_enc _ _ x) rfl (by rw [parseInstr, (PackOp.enc_op _ _ x).1]; change parse50 _ = _; rw [parse50, (PackOp.enc_op _ _ x).2]; rfl)

theorem vpermIdx (x : VpermOp) : Statement (.vpermIdx x) := fun _ h =>
  of_shape h rfl (VpermOp.parse_enc _ _ x) rfl (by rw [parseInstr, (VpermOp.enc_op _ _ x).1]; change parse60 _ = _; rw [parse60, (VpermOp.enc_op _ _ x).2]; rfl)

theorem vpermUp (x : VpermOp) : Statement (.vpermUp x) := fun _ h =>
  of_shape h rfl (VpermOp.parse_enc _ _ x) rfl (by rw [parseInstr, (VpermOp.enc_op _ _ x).1]; change parse60 _ = _; rw [parse60, (VpermOp.enc_op _ _ x).2]; rfl)

theorem vpermDown (x : VpermOp) : Statement (.vpermDown x) := fun _ h =>
  of_shape h rfl (VpermOp.parse_enc _ _ x) rfl (by rw [parseInstr, (VpermOp.enc_op _ _ x).1]; change parse60 _ = _; rw [parse60, (VpermOp.enc_op _ _ x).2]; rfl)

theorem vpermXor (x : VpermOp) : Statement (.vpermXor x) := fun _ h =>
  of_shape h rfl (VpermOp.parse_enc _ _ x) rfl (by rw [parseInstr, (VpermOp.enc_op _ _ x).1]; change parse60 _ = _; rw [parse60, (VpermOp.enc_op _ _ x).2]; rfl)

theorem reduceAdd (x : ReduceOp) : Statement (.reduceAdd x) := fun _ h =>
  of_shape h rfl (ReduceOp.parse_enc _ _ x) rfl (by rw [parseInstr, (ReduceOp.enc_op _ _ x).1]; change parse61 _ = _; rw [parse61, (ReduceOp.enc_op _ _ x).2]; rfl)

theorem reduceMin (x : ReduceOp) : Statement (.reduceMin x) := fun _ h =>
  of_shape h rfl (ReduceOp.parse_enc _ _ x) rfl (by rw [parseInstr, (ReduceOp.enc_op _ _ x).1]; change parse61 _ = _; rw [parse61, (ReduceOp.enc_op _ _ x).2]; rfl)

theorem reduceMax (x : ReduceOp) : Statement (.reduceMax x) := fun _ h =>
  of_shape h rfl (ReduceOp.parse_enc _ _ x) rfl (by rw [parseInstr, (ReduceOp.enc_op _ _ x).1]; change parse61 _ = _; rw [parse61, (ReduceOp.enc_op _ _ x).2]; rfl)

theorem reduceAnd (x : Typed1) : Statement (.reduceAnd x) := fun _ h =>
  of_shape h rfl (Typed1.parse_enc _ _ x) rfl (by rw [parseInstr, (Typed1.enc_op _ _ x).1]; change parse61 _ = _; rw [parse61, (Typed1.enc_op _ _ x).2]; rfl)

theorem reduceOr (x : Typed1) : Statement (.reduceOr x) := fun _ h =>
  of_shape h rfl (Typed1.parse_enc _ _ x) rfl (by rw [parseInstr, (Typed1.enc_op _ _ x).1]; change parse61 _ = _; rw [parse61, (Typed1.enc_op _ _ x).2]; rfl)

theorem reduceXor (x : Typed1) : Statement (.reduceXor x) := fun _ h =>
  of_shape h rfl (Typed1.parse_enc _ _ x) rfl (by rw [parseInstr, (Typed1.enc_op _ _ x).1]; change parse61 _ = _; rw [parse61, (Typed1.enc_op _ _ x).2]; rfl)

theorem scanIncl (x : ScanOp) : Statement (.scanIncl x) := fun _ h =>
  of_shape h rfl (ScanOp.parse_enc _ _ x) rfl (by rw [parseInstr, (ScanOp.enc_op _ _ x).1]; change parse62 _ = _; rw [parse62, (ScanOp.enc_op _ _ x).2]; rfl)

theorem scanExcl (x : ScanOp) : Statement (.scanExcl x) := fun _ h =>
  of_shape h rfl (ScanOp.parse_enc _ _ x) rfl (by rw [parseInstr, (ScanOp.enc_op _ _ x).1]; change parse62 _ = _; rw [parse62, (ScanOp.enc_op _ _ x).2]; rfl)

theorem voteBallot (x : BallotOp) : Statement (.voteBallot x) := fun _ h =>
  of_shape h rfl (BallotOp.parse_enc _ _ x) rfl (by rw [parseInstr, (BallotOp.enc_op _ _ x).1]; change parse63 _ = _; rw [parse63, (BallotOp.enc_op _ _ x).2]; rfl)

theorem voteAny (x : VoteOp) : Statement (.voteAny x) := fun _ h =>
  of_shape h rfl (VoteOp.parse_enc _ _ x) rfl (by rw [parseInstr, (VoteOp.enc_op _ _ x).1]; change parse63 _ = _; rw [parse63, (VoteOp.enc_op _ _ x).2]; rfl)

theorem voteAll (x : VoteOp) : Statement (.voteAll x) := fun _ h =>
  of_shape h rfl (VoteOp.parse_enc _ _ x) rfl (by rw [parseInstr, (VoteOp.enc_op _ _ x).1]; change parse63 _ = _; rw [parse63, (VoteOp.enc_op _ _ x).2]; rfl)

theorem voteMatch (x : Typed1) : Statement (.voteMatch x) := fun _ h =>
  of_shape h rfl (Typed1.parse_enc _ _ x) rfl (by rw [parseInstr, (Typed1.enc_op _ _ x).1]; change parse63 _ = _; rw [parse63, (Typed1.enc_op _ _ x).2]; rfl)

theorem umovFirst (x : Typed1) : Statement (.umovFirst x) := fun _ h =>
  of_shape h rfl (Typed1.parse_enc _ _ x) rfl (by rw [parseInstr, (Typed1.enc_op _ _ x).1]; change parse64 _ = _; rw [parse64, (Typed1.enc_op _ _ x).2]; rfl)

theorem umovLane (x : UmovLane) : Statement (.umovLane x) := fun _ h =>
  of_shape h rfl (UmovLane.parse_enc _ _ x) rfl (by rw [parseInstr, (UmovLane.enc_op _ _ x).1]; change parse64 _ = _; rw [parse64, (UmovLane.enc_op _ _ x).2]; rfl)

theorem bra (x : DispOp) : Statement (.bra x) := fun _ h =>
  of_shape h rfl (DispOp.parse_enc _ _ x) rfl (by rw [parseInstr, (DispOp.enc_op _ _ x).1]; change parse70 _ = _; rw [parse70, (DispOp.enc_op _ _ x).2]; rfl)

theorem brx (x : AOnly) : Statement (.brx x) := fun _ h =>
  of_shape h rfl (AOnly.parse_enc _ _ x) rfl (by rw [parseInstr, (AOnly.enc_op _ _ x).1]; change parse71 _ = _; rw [parse71, (AOnly.enc_op _ _ x).2]; rfl)

theorem call (x : CallOp) : Statement (.call x) := fun _ h =>
  of_shape h rfl (CallOp.parse_enc _ _ x) rfl (by rw [parseInstr, (CallOp.enc_op _ _ x).1]; change parse72 _ = _; rw [parse72, (CallOp.enc_op _ _ x).2]; rfl)

theorem callx (x : CallxOp) : Statement (.callx x) := fun _ h =>
  of_shape h rfl (CallxOp.parse_enc _ _ x) rfl (by rw [parseInstr, (CallxOp.enc_op _ _ x).1]; change parse73 _ = _; rw [parse73, (CallxOp.enc_op _ _ x).2]; rfl)

theorem ret (x : AOnly) : Statement (.ret x) := fun _ h =>
  of_shape h rfl (AOnly.parse_enc _ _ x) rfl (by rw [parseInstr, (AOnly.enc_op _ _ x).1]; change parse74 _ = _; rw [parse74, (AOnly.enc_op _ _ x).2]; rfl)

theorem jset (x : DispOp) : Statement (.jset x) := fun _ h =>
  of_shape h rfl (DispOp.parse_enc _ _ x) rfl (by rw [parseInstr, (DispOp.enc_op _ _ x).1]; change parse75 _ = _; rw [parse75, (DispOp.enc_op _ _ x).2]; rfl)

theorem jwait (x : Bare) : Statement (.jwait x) := fun _ h =>
  of_shape h rfl (Bare.parse_enc _ _ x) rfl (by rw [parseInstr, (Bare.enc_op _ _ x).1]; change parse76 _ = _; rw [parse76, (Bare.enc_op _ _ x).2]; rfl)

theorem exit (x : Bare) : Statement (.exit x) := fun _ h =>
  of_shape h rfl (Bare.parse_enc _ _ x) rfl (by rw [parseInstr, (Bare.enc_op _ _ x).1]; change parse77 _ = _; rw [parse77, (Bare.enc_op _ _ x).2]; rfl)

theorem waitc (x : WaitcOp) : Statement (.waitc x) := fun _ h =>
  of_shape h rfl (WaitcOp.parse_enc _ _ x) rfl (by rw [parseInstr, (WaitcOp.enc_op _ _ x).1]; change parse78 _ = _; rw [parse78, (WaitcOp.enc_op _ _ x).2]; rfl)

theorem yield (x : Bare) : Statement (.yield x) := fun _ h =>
  of_shape h rfl (Bare.parse_enc _ _ x) rfl (by rw [parseInstr, (Bare.enc_op _ _ x).1]; change parse79 _ = _; rw [parse79, (Bare.enc_op _ _ x).2]; rfl)

theorem sread (x : SreadOp) : Statement (.sread x) := fun _ h =>
  of_shape h rfl (SreadOp.parse_enc _ _ x) rfl (by rw [parseInstr, (SreadOp.enc_op _ _ x).1]; change parse7A _ = _; rw [parse7A, (SreadOp.enc_op _ _ x).2]; rfl)

theorem nop (x : Bare) : Statement (.nop x) := fun _ h =>
  of_shape h rfl (Bare.parse_enc _ _ x) rfl (by rw [parseInstr, (Bare.enc_op _ _ x).1]; change parse7B _ = _; rw [parse7B, (Bare.enc_op _ _ x).2]; rfl)

theorem ld (x : LdOp) : Statement (.ld x) := fun _ h =>
  of_shape h rfl (LdOp.parse_enc _ _ x) rfl (by rw [parseInstr, (LdOp.enc_op _ _ x).1]; change parse80 _ = _; rw [parse80, (LdOp.enc_op _ _ x).2]; rfl)

theorem st (x : StOp) : Statement (.st x) := fun _ h =>
  of_shape h rfl (StOp.parse_enc _ _ x) rfl (by rw [parseInstr, (StOp.enc_op _ _ x).1]; change parse81 _ = _; rw [parse81, (StOp.enc_op _ _ x).2]; rfl)

theorem prefL1 (x : PrefOp) : Statement (.prefL1 x) := fun _ h =>
  of_shape h rfl (PrefOp.parse_enc _ _ x) rfl (by rw [parseInstr, (PrefOp.enc_op _ _ x).1]; change parse82 _ = _; rw [parse82, (PrefOp.enc_op _ _ x).2]; rfl)

theorem prefMsc (x : PrefOp) : Statement (.prefMsc x) := fun _ h =>
  of_shape h rfl (PrefOp.parse_enc _ _ x) rfl (by rw [parseInstr, (PrefOp.enc_op _ _ x).1]; change parse82 _ = _; rw [parse82, (PrefOp.enc_op _ _ x).2]; rfl)

theorem cctlInvl1 (x : CctlOp) : Statement (.cctlInvl1 x) := fun _ h =>
  of_shape h rfl (CctlOp.parse_enc _ _ x) rfl (by rw [parseInstr, (CctlOp.enc_op _ _ x).1]; change parse83 _ = _; rw [parse83, (CctlOp.enc_op _ _ x).2]; rfl)

theorem cctlWbmsc (x : CctlOp) : Statement (.cctlWbmsc x) := fun _ h =>
  of_shape h rfl (CctlOp.parse_enc _ _ x) rfl (by rw [parseInstr, (CctlOp.enc_op _ _ x).1]; change parse83 _ = _; rw [parse83, (CctlOp.enc_op _ _ x).2]; rfl)

theorem atomAdd (x : AtomOp) : Statement (.atomAdd x) := fun _ h =>
  of_shape h rfl (AtomOp.parse_enc _ _ x) rfl (by rw [parseInstr, (AtomOp.enc_op _ _ x).1]; change parse90 _ = _; rw [parse90, (AtomOp.enc_op _ _ x).2]; rfl)

theorem atomMin (x : AtomOp) : Statement (.atomMin x) := fun _ h =>
  of_shape h rfl (AtomOp.parse_enc _ _ x) rfl (by rw [parseInstr, (AtomOp.enc_op _ _ x).1]; change parse90 _ = _; rw [parse90, (AtomOp.enc_op _ _ x).2]; rfl)

theorem atomMax (x : AtomOp) : Statement (.atomMax x) := fun _ h =>
  of_shape h rfl (AtomOp.parse_enc _ _ x) rfl (by rw [parseInstr, (AtomOp.enc_op _ _ x).1]; change parse90 _ = _; rw [parse90, (AtomOp.enc_op _ _ x).2]; rfl)

theorem atomAnd (x : AtomOp) : Statement (.atomAnd x) := fun _ h =>
  of_shape h rfl (AtomOp.parse_enc _ _ x) rfl (by rw [parseInstr, (AtomOp.enc_op _ _ x).1]; change parse90 _ = _; rw [parse90, (AtomOp.enc_op _ _ x).2]; rfl)

theorem atomOr (x : AtomOp) : Statement (.atomOr x) := fun _ h =>
  of_shape h rfl (AtomOp.parse_enc _ _ x) rfl (by rw [parseInstr, (AtomOp.enc_op _ _ x).1]; change parse90 _ = _; rw [parse90, (AtomOp.enc_op _ _ x).2]; rfl)

theorem atomXor (x : AtomOp) : Statement (.atomXor x) := fun _ h =>
  of_shape h rfl (AtomOp.parse_enc _ _ x) rfl (by rw [parseInstr, (AtomOp.enc_op _ _ x).1]; change parse90 _ = _; rw [parse90, (AtomOp.enc_op _ _ x).2]; rfl)

theorem atomXchg (x : AtomOp) : Statement (.atomXchg x) := fun _ h =>
  of_shape h rfl (AtomOp.parse_enc _ _ x) rfl (by rw [parseInstr, (AtomOp.enc_op _ _ x).1]; change parse90 _ = _; rw [parse90, (AtomOp.enc_op _ _ x).2]; rfl)

theorem atomCas (x : AtomOp) : Statement (.atomCas x) := fun _ h =>
  of_shape h rfl (AtomOp.parse_enc _ _ x) rfl (by rw [parseInstr, (AtomOp.enc_op _ _ x).1]; change parse90 _ = _; rw [parse90, (AtomOp.enc_op _ _ x).2]; rfl)

theorem redAdd (x : RedOp) : Statement (.redAdd x) := fun _ h =>
  of_shape h rfl (RedOp.parse_enc _ _ x) rfl (by rw [parseInstr, (RedOp.enc_op _ _ x).1]; change parse91 _ = _; rw [parse91, (RedOp.enc_op _ _ x).2]; rfl)

theorem redMin (x : RedOp) : Statement (.redMin x) := fun _ h =>
  of_shape h rfl (RedOp.parse_enc _ _ x) rfl (by rw [parseInstr, (RedOp.enc_op _ _ x).1]; change parse91 _ = _; rw [parse91, (RedOp.enc_op _ _ x).2]; rfl)

theorem redMax (x : RedOp) : Statement (.redMax x) := fun _ h =>
  of_shape h rfl (RedOp.parse_enc _ _ x) rfl (by rw [parseInstr, (RedOp.enc_op _ _ x).1]; change parse91 _ = _; rw [parse91, (RedOp.enc_op _ _ x).2]; rfl)

theorem redAnd (x : RedOp) : Statement (.redAnd x) := fun _ h =>
  of_shape h rfl (RedOp.parse_enc _ _ x) rfl (by rw [parseInstr, (RedOp.enc_op _ _ x).1]; change parse91 _ = _; rw [parse91, (RedOp.enc_op _ _ x).2]; rfl)

theorem redOr (x : RedOp) : Statement (.redOr x) := fun _ h =>
  of_shape h rfl (RedOp.parse_enc _ _ x) rfl (by rw [parseInstr, (RedOp.enc_op _ _ x).1]; change parse91 _ = _; rw [parse91, (RedOp.enc_op _ _ x).2]; rfl)

theorem redXor (x : RedOp) : Statement (.redXor x) := fun _ h =>
  of_shape h rfl (RedOp.parse_enc _ _ x) rfl (by rw [parseInstr, (RedOp.enc_op _ _ x).1]; change parse91 _ = _; rw [parse91, (RedOp.enc_op _ _ x).2]; rfl)

theorem fence (x : FenceOp) : Statement (.fence x) := fun _ h =>
  of_shape h rfl (FenceOp.parse_enc _ _ x) rfl (by rw [parseInstr, (FenceOp.enc_op _ _ x).1]; change parse92 _ = _; rw [parse92, (FenceOp.enc_op _ _ x).2]; rfl)

theorem barInit (x : BarInit) : Statement (.barInit x) := fun _ h =>
  of_shape h rfl (BarInit.parse_enc _ _ x) rfl (by rw [parseInstr, (BarInit.enc_op _ _ x).1]; change parseA0 _ = _; rw [parseA0, (BarInit.enc_op _ _ x).2]; rfl)

theorem barExpect (x : BarExpect) : Statement (.barExpect x) := fun _ h =>
  of_shape h rfl (BarExpect.parse_enc _ _ x) rfl (by rw [parseInstr, (BarExpect.enc_op _ _ x).1]; change parseA0 _ = _; rw [parseA0, (BarExpect.enc_op _ _ x).2]; rfl)

theorem barArrive (x : BarArrive) : Statement (.barArrive x) := fun _ h =>
  of_shape h rfl (BarArrive.parse_enc _ _ x) rfl (by rw [parseInstr, (BarArrive.enc_op _ _ x).1]; change parseA0 _ = _; rw [parseA0, (BarArrive.enc_op _ _ x).2]; rfl)

theorem barWait (x : BarWait) : Statement (.barWait x) := fun _ h =>
  of_shape h rfl (BarWait.parse_enc _ _ x) rfl (by rw [parseInstr, (BarWait.enc_op _ _ x).1]; change parseA0 _ = _; rw [parseA0, (BarWait.enc_op _ _ x).2]; rfl)

theorem qclaim (x : QclaimOp) : Statement (.qclaim x) := fun _ h =>
  of_shape h rfl (QclaimOp.parse_enc _ _ x) rfl (by rw [parseInstr, (QclaimOp.enc_op _ _ x).1]; change parseA1 _ = _; rw [parseA1, (QclaimOp.enc_op _ _ x).2]; rfl)

theorem qcommit (x : QposOp) : Statement (.qcommit x) := fun _ h =>
  of_shape h rfl (QposOp.parse_enc _ _ x) rfl (by rw [parseInstr, (QposOp.enc_op _ _ x).1]; change parseA2 _ = _; rw [parseA2, (QposOp.enc_op _ _ x).2]; rfl)

theorem qawait (x : QawaitOp) : Statement (.qawait x) := fun _ h =>
  of_shape h rfl (QawaitOp.parse_enc _ _ x) rfl (by rw [parseInstr, (QawaitOp.enc_op _ _ x).1]; change parseA3 _ = _; rw [parseA3, (QawaitOp.enc_op _ _ x).2]; rfl)

theorem qretire (x : QposOp) : Statement (.qretire x) := fun _ h =>
  of_shape h rfl (QposOp.parse_enc _ _ x) rfl (by rw [parseInstr, (QposOp.enc_op _ _ x).1]; change parseA4 _ = _; rw [parseA4, (QposOp.enc_op _ _ x).2]; rfl)

theorem push (x : PushOp) : Statement (.push x) := fun _ h =>
  of_shape h rfl (PushOp.parse_enc _ _ x) rfl (by rw [parseInstr, (PushOp.enc_op _ _ x).1]; change parseA5 _ = _; rw [parseA5, (PushOp.enc_op _ _ x).2]; rfl)

theorem evsig (x : EvsigOp) : Statement (.evsig x) := fun _ h =>
  of_shape h rfl (EvsigOp.parse_enc _ _ x) rfl (by rw [parseInstr, (EvsigOp.enc_op _ _ x).1]; change parseA6 _ = _; rw [parseA6, (EvsigOp.enc_op _ _ x).2]; rfl)

theorem take (x : DOnly) : Statement (.take x) := fun _ h =>
  of_shape h rfl (DOnly.parse_enc _ _ x) rfl (by rw [parseInstr, (DOnly.enc_op _ _ x).1]; change parseA7 _ = _; rw [parseA7, (DOnly.enc_op _ _ x).2]; rfl)

theorem publish (x : PublishOp) : Statement (.publish x) := fun _ h =>
  of_shape h rfl (PublishOp.parse_enc _ _ x) rfl (by rw [parseInstr, (PublishOp.enc_op _ _ x).1]; change parseA8 _ = _; rw [parseA8, (PublishOp.enc_op _ _ x).2]; rfl)

theorem mmaM32N32K64 (x : MmaOp) : Statement (.mmaM32N32K64 x) := fun _ h =>
  of_shape h rfl (MmaOp.parse_enc _ _ x) rfl (by rw [parseInstr, (MmaOp.enc_op _ _ x).1]; change parseB0 _ = _; rw [parseB0, (MmaOp.enc_op _ _ x).2]; rfl)

theorem mmaM32N64K64 (x : MmaOp) : Statement (.mmaM32N64K64 x) := fun _ h =>
  of_shape h rfl (MmaOp.parse_enc _ _ x) rfl (by rw [parseInstr, (MmaOp.enc_op _ _ x).1]; change parseB0 _ = _; rw [parseB0, (MmaOp.enc_op _ _ x).2]; rfl)

theorem mmaM32N16K128 (x : MmaOp) : Statement (.mmaM32N16K128 x) := fun _ h =>
  of_shape h rfl (MmaOp.parse_enc _ _ x) rfl (by rw [parseInstr, (MmaOp.enc_op _ _ x).1]; change parseB0 _ = _; rw [parseB0, (MmaOp.enc_op _ _ x).2]; rfl)

theorem mmaM32N32K32 (x : MmaOp) : Statement (.mmaM32N32K32 x) := fun _ h =>
  of_shape h rfl (MmaOp.parse_enc _ _ x) rfl (by rw [parseInstr, (MmaOp.enc_op _ _ x).1]; change parseB0 _ = _; rw [parseB0, (MmaOp.enc_op _ _ x).2]; rfl)

theorem mmaM32N64K32 (x : MmaOp) : Statement (.mmaM32N64K32 x) := fun _ h =>
  of_shape h rfl (MmaOp.parse_enc _ _ x) rfl (by rw [parseInstr, (MmaOp.enc_op _ _ x).1]; change parseB0 _ = _; rw [parseB0, (MmaOp.enc_op _ _ x).2]; rfl)

theorem mmaM32N32K128 (x : MmaOp) : Statement (.mmaM32N32K128 x) := fun _ h =>
  of_shape h rfl (MmaOp.parse_enc _ _ x) rfl (by rw [parseInstr, (MmaOp.enc_op _ _ x).1]; change parseB0 _ = _; rw [parseB0, (MmaOp.enc_op _ _ x).2]; rfl)

theorem mmaM32N32K8 (x : MmaOp) : Statement (.mmaM32N32K8 x) := fun _ h =>
  of_shape h rfl (MmaOp.parse_enc _ _ x) rfl (by rw [parseInstr, (MmaOp.enc_op _ _ x).1]; change parseB0 _ = _; rw [parseB0, (MmaOp.enc_op _ _ x).2]; rfl)

theorem mscale (x : MscaleOp) : Statement (.mscale x) := fun _ h =>
  of_shape h rfl (MscaleOp.parse_enc _ _ x) rfl (by rw [parseInstr, (MscaleOp.enc_op _ _ x).1]; change parseB1 _ = _; rw [parseB1, (MscaleOp.enc_op _ _ x).2]; rfl)

theorem mzero (x : MzeroOp) : Statement (.mzero x) := fun _ h =>
  of_shape h rfl (MzeroOp.parse_enc _ _ x) rfl (by rw [parseInstr, (MzeroOp.enc_op _ _ x).1]; change parseB2 _ = _; rw [parseB2, (MzeroOp.enc_op _ _ x).2]; rfl)

theorem mld (x : MmovOp) : Statement (.mld x) := fun _ h =>
  of_shape h rfl (MmovOp.parseLd_encLd _ _ x) rfl (by rw [parseInstr, (MmovOp.encLd_op _ _ x).1]; change parseB3 _ = _; rw [parseB3, (MmovOp.encLd_op _ _ x).2]; rfl)

theorem mst (x : MmovOp) : Statement (.mst x) := fun _ h =>
  of_shape h rfl (MmovOp.parseSt_encSt _ _ x) rfl (by rw [parseInstr, (MmovOp.encSt_op _ _ x).1]; change parseB4 _ = _; rw [parseB4, (MmovOp.encSt_op _ _ x).2]; rfl)

theorem fpush (x : FpushOp) : Statement (.fpush x) := fun _ h =>
  of_shape h rfl (FpushOp.parse_enc _ _ x) rfl (by rw [parseInstr, (FpushOp.enc_op _ _ x).1]; change parseB5 _ = _; rw [parseB5, (FpushOp.enc_op _ _ x).2]; rfl)

theorem mmode (x : MmodeOp) : Statement (.mmode x) := fun _ h =>
  of_shape h rfl (MmodeOp.parse_enc _ _ x) rfl (by rw [parseInstr, (MmodeOp.enc_op _ _ x).1]; change parseB6 _ = _; rw [parseB6, (MmodeOp.enc_op _ _ x).2]; rfl)

theorem mepi (x : MepiOp) : Statement (.mepi x) := fun _ h =>
  of_shape h rfl (MepiOp.parse_enc _ _ x) rfl (by rw [parseInstr, (MepiOp.enc_op _ _ x).1]; change parseB7 _ = _; rw [parseB7, (MepiOp.enc_op _ _ x).2]; rfl)

theorem cinit (x : CinitOp) : Statement (.cinit x) := fun _ h =>
  of_shape h rfl (CinitOp.parse_enc _ _ x) rfl (by rw [parseInstr, (CinitOp.enc_op _ _ x).1]; change parseC0 _ = _; rw [parseC0, (CinitOp.enc_op _ _ x).2]; rfl)

theorem cmps (x : CmpsOp) : Statement (.cmps x) := fun _ h =>
  of_shape h rfl (CmpsOp.parse_enc _ _ x) rfl (by rw [parseInstr, (CmpsOp.enc_op _ _ x).1]; change parseC1 _ = _; rw [parseC1, (CmpsOp.enc_op _ _ x).2]; rfl)

theorem cflush (x : AOnly) : Statement (.cflush x) := fun _ h =>
  of_shape h rfl (AOnly.parse_enc _ _ x) rfl (by rw [parseInstr, (AOnly.enc_op _ _ x).1]; change parseC2 _ = _; rw [parseC2, (AOnly.enc_op _ _ x).2]; rfl)

theorem cread (x : CreadOp) : Statement (.cread x) := fun _ h =>
  of_shape h rfl (CreadOp.parse_enc _ _ x) rfl (by rw [parseInstr, (CreadOp.enc_op _ _ x).1]; change parseC3 _ = _; rw [parseC3, (CreadOp.enc_op _ _ x).2]; rfl)

theorem cretire (x : CretireOp) : Statement (.cretire x) := fun _ h =>
  of_shape h rfl (CretireOp.parse_enc _ _ x) rfl (by rw [parseInstr, (CretireOp.enc_op _ _ x).1]; change parseC4 _ = _; rw [parseC4, (CretireOp.enc_op _ _ x).2]; rfl)

theorem creplay (x : CreplayOp) : Statement (.creplay x) := fun _ h =>
  of_shape h rfl (CreplayOp.parse_enc _ _ x) rfl (by rw [parseInstr, (CreplayOp.enc_op _ _ x).1]; change parseC5 _ = _; rw [parseC5, (CreplayOp.enc_op _ _ x).2]; rfl)

theorem time (x : DOnly) : Statement (.time x) := fun _ h =>
  of_shape h rfl (DOnly.parse_enc _ _ x) rfl (by rw [parseInstr, (DOnly.enc_op _ _ x).1]; change parseD0 _ = _; rw [parseD0, (DOnly.enc_op _ _ x).2]; rfl)

theorem waitt (x : WaittOp) : Statement (.waitt x) := fun _ h =>
  of_shape h rfl (WaittOp.parse_enc _ _ x) rfl (by rw [parseInstr, (WaittOp.enc_op _ _ x).1]; change parseD1 _ = _; rw [parseD1, (WaittOp.enc_op _ _ x).2]; rfl)

theorem pcls (x : PclsOp) : Statement (.pcls x) := fun _ h =>
  of_shape h rfl (PclsOp.parse_enc _ _ x) rfl (by rw [parseInstr, (PclsOp.enc_op _ _ x).1]; change parseD2 _ = _; rw [parseD2, (PclsOp.enc_op _ _ x).2]; rfl)

theorem swpt (x : SwptOp) : Statement (.swpt x) := fun _ h =>
  of_shape h rfl (SwptOp.parse_enc _ _ x) rfl (by rw [parseInstr, (SwptOp.enc_op _ _ x).1]; change parseD3 _ = _; rw [parseD3, (SwptOp.enc_op _ _ x).2]; rfl)

theorem ckpt (x : CkptOp) : Statement (.ckpt x) := fun _ h =>
  of_shape h rfl (CkptOp.parse_enc _ _ x) rfl (by rw [parseInstr, (CkptOp.enc_op _ _ x).1]; change parseD4 _ = _; rw [parseD4, (CkptOp.enc_op _ _ x).2]; rfl)

theorem trap (x : TrapOp) : Statement (.trap x) := fun _ h =>
  of_shape h rfl (TrapOp.parse_enc _ _ x) rfl (by rw [parseInstr, (TrapOp.enc_op _ _ x).1]; change parseE0 _ = _; rw [parseE0, (TrapOp.enc_op _ _ x).2]; rfl)

theorem brk (x : TrapOp) : Statement (.brk x) := fun _ h =>
  of_shape h rfl (TrapOp.parse_enc _ _ x) rfl (by rw [parseInstr, (TrapOp.enc_op _ _ x).1]; change parseE1 _ = _; rw [parseE1, (TrapOp.enc_op _ _ x).2]; rfl)

theorem eret (x : Bare) : Statement (.eret x) := fun _ h =>
  of_shape h rfl (Bare.parse_enc _ _ x) rfl (by rw [parseInstr, (Bare.enc_op _ _ x).1]; change parseE2 _ = _; rw [parseE2, (Bare.enc_op _ _ x).2]; rfl)

theorem csrRd (x : CsrRd) : Statement (.csrRd x) := fun _ h =>
  of_shape h rfl (CsrRd.parse_enc _ _ x) rfl (by rw [parseInstr, (CsrRd.enc_op _ _ x).1]; change parseE3 _ = _; rw [parseE3, (CsrRd.enc_op _ _ x).2]; rfl)

theorem csrWr (x : CsrWr) : Statement (.csrWr x) := fun _ h =>
  of_shape h rfl (CsrWr.parse_enc _ _ x) rfl (by rw [parseInstr, (CsrWr.enc_op _ _ x).1]; change parseE3 _ = _; rw [parseE3, (CsrWr.enc_op _ _ x).2]; rfl)

theorem wfi (x : Bare) : Statement (.wfi x) := fun _ h =>
  of_shape h rfl (Bare.parse_enc _ _ x) rfl (by rw [parseInstr, (Bare.enc_op _ _ x).1]; change parseE4 _ = _; rw [parseE4, (Bare.enc_op _ _ x).2]; rfl)

theorem loadDataReturn (acc : Nat) (lanes : Mask) (fromL1 lost : Bool) : Statement (.loadDataReturn acc lanes fromL1 lost) := of_event rfl

theorem accessPerformed (acc : Nat) (lanes : Mask) (lost : Bool) : Statement (.accessPerformed acc lanes lost) := of_event rfl

theorem windowSwitch (pub : Nat) : Statement (.windowSwitch pub) := of_event rfl

theorem takeServe (take : Nat) : Statement (.takeServe take) := of_event rfl

theorem copy (die : DieId) (core block : Nat) : Statement (.copy die core block) := of_event rfl

theorem multicast (die : DieId) (core block : Nat) : Statement (.multicast die core block) := of_event rfl

theorem feed (die : DieId) (core block : Nat) : Statement (.feed die core block) := of_event rfl

theorem store (die : DieId) (core block : Nat) : Statement (.store die core block) := of_event rfl

theorem copyEnginePublish (die : DieId) (core block : Nat) : Statement (.copyEnginePublish die core block) := of_event rfl

theorem byteCredit (cmd spos : Nat) : Statement (.byteCredit cmd spos) := of_event rfl

theorem copyCommandComplete (cmd : Nat) : Statement (.copyCommandComplete cmd) := of_event rfl

theorem ctxset (die : DieId) (cluster block : Nat) : Statement (.ctxset die cluster block) := of_event rfl

theorem ray (die : DieId) (cluster block : Nat) : Statement (.ray die cluster block) := of_event rfl

theorem cone (die : DieId) (cluster block : Nat) : Statement (.cone die cluster block) := of_event rfl

theorem frustum (die : DieId) (cluster block : Nat) : Statement (.frustum die cluster block) := of_event rfl

theorem nodeVisit (query path : Nat) : Statement (.nodeVisit query path) := of_event rfl

theorem recordCommit (query path : Nat) : Statement (.recordCommit query path) := of_event rfl

theorem done (query : Nat) : Statement (.done query) := of_event rfl

theorem continuationStart (die : DieId) (cluster : Nat) : Statement (.continuationStart die cluster) := of_event rfl

theorem fifoRunAppend (block spos fifo : Nat) : Statement (.fifoRunAppend block spos fifo) := of_event rfl

theorem streamOperation (block spos unit : Nat) : Statement (.streamOperation block spos unit) := of_event rfl

theorem blockPlace (die : DieId) : Statement (.blockPlace die) := of_event rfl

theorem blockResourcesReturn (block : Nat) : Statement (.blockResourcesReturn block) := of_event rfl

theorem launchComplete (job : Nat) : Statement (.launchComplete job) := of_event rfl

theorem cardAdmission (die : DieId) (ring : Nat) : Statement (.cardAdmission die ring) := of_event rfl

theorem jobRelease (job : Nat) : Statement (.jobRelease job) := of_event rfl

theorem instanceRelease (job : Nat) : Statement (.instanceRelease job) := of_event rfl

theorem preemption (job : Nat) : Statement (.preemption job) := of_event rfl

theorem nodeBatch (die : DieId) : Statement (.nodeBatch die) := of_event rfl

theorem cutDrainEnd (block : Nat) : Statement (.cutDrainEnd block) := of_event rfl

theorem drainTimeout (block : Nat) : Statement (.drainTimeout block) := of_event rfl

theorem blockResume (die : DieId) : Statement (.blockResume die) := of_event rfl

theorem deadline (job : Nat) : Statement (.deadline job) := of_event rfl

theorem budget (job : Nat) : Statement (.budget job) := of_event rfl

theorem bandwidth (job : Nat) (die : DieId) (ctrl : Nat) : Statement (.bandwidth job die ctrl) := of_event rfl

theorem ckptovr (block : Nat) : Statement (.ckptovr block) := of_event rfl

theorem errorRecordDeferredWrite (die : DieId) (tenant : Nat) : Statement (.errorRecordDeferredWrite die tenant) := of_event rfl

theorem regulatorWindow (die : DieId) : Statement (.regulatorWindow die) := of_event rfl

theorem srcmt (die : DieId) (by_ : RegWriter) (ring : Nat) (v : Word) : Statement (.srcmt die by_ ring v) := of_event rfl

theorem srctl (die : DieId) (ring : Nat) (v : Word) : Statement (.srctl die ring v) := of_event rfl

theorem qmctl (die : DieId) (ring : Nat) (v : Word) : Statement (.qmctl die ring v) := of_event rfl

theorem tlbinv (die : DieId) (v : Word) : Statement (.tlbinv die v) := of_event rfl

theorem tlbInvalidationComplete (die : DieId) : Statement (.tlbInvalidationComplete die) := of_event rfl

theorem tways (die : DieId) (tenant : Nat) (v : Word) : Statement (.tways die tenant v) := of_event rfl

theorem carveOutChangeComplete (die : DieId) : Statement (.carveOutChangeComplete die) := of_event rfl

theorem tdrop (die : DieId) (tenant : Nat) : Statement (.tdrop die tenant) := of_event rfl

theorem evcount (die : DieId) (v : Word) : Statement (.evcount die v) := of_event rfl

theorem evctlReset (die : DieId) : Statement (.evctlReset die) := of_event rfl

theorem evctlFree (die : DieId) : Statement (.evctlFree die) := of_event rfl

theorem diemodeSingle (die : DieId) (survivor : DieId) : Statement (.diemodeSingle die survivor) := of_event rfl

theorem diemodeBoth (die : DieId) : Statement (.diemodeBoth die) := of_event rfl

theorem dtimelo (seq : SeqId) : Statement (.dtimelo seq) := of_event rfl

theorem irqack (seq : SeqId) (v : Word) : Statement (.irqack seq v) := of_event rfl

theorem hbeat (seq : SeqId) (v : Word) : Statement (.hbeat seq v) := of_event rfl

theorem pwrlim (die : DieId) (v : Word) : Statement (.pwrlim die v) := of_event rfl

theorem fwcmdStage (die : DieId) (powerImage passes : Bool) (version : Nat) : Statement (.fwcmdStage die powerImage passes version) := of_event rfl

theorem fwcmdCommit (die : DieId) (powerImage : Bool) : Statement (.fwcmdCommit die powerImage) := of_event rfl

theorem firmwareFirstHeartbeat (die : DieId) : Statement (.firmwareFirstHeartbeat die) := of_event rfl

theorem firmwareRollback (die : DieId) : Statement (.firmwareRollback die) := of_event rfl

theorem registerWrite (die : DieId) (trivet : Bool) (csr : Nat) (v : Word) : Statement (.registerWrite die trivet csr v) := of_event rfl

theorem interruptLine (seq : SeqId) (line : BitVec 5) : Statement (.interruptLine seq line) := of_event rfl

theorem powerRequest (die : DieId) : Statement (.powerRequest die) := of_event rfl

theorem levelChange (die : DieId) (cluster : Nat) : Statement (.levelChange die cluster) := of_event rfl

theorem corePowerGate (die : DieId) (core : Nat) : Statement (.corePowerGate die core) := of_event rfl

theorem coreWake (die : DieId) (core : Nat) : Statement (.coreWake die core) := of_event rfl

theorem powerLimitTransition (die : DieId) : Statement (.powerLimitTransition die) := of_event rfl

theorem thermalTrip (die : DieId) : Statement (.thermalTrip die) := of_event rfl

theorem powerOn (passA passB : Bool) (images : List Nat) : Statement (.powerOn passA passB images) := of_event rfl

theorem ptpMessage (die : DieId) (offset : Int) : Statement (.ptpMessage die offset) := of_event rfl

theorem qbvGateEvent (die : DieId) (port : Bool) : Statement (.qbvGateEvent die port) := of_event rfl

theorem ingestFrame (die : DieId) (stream : Nat) (data : Frame) : Statement (.ingestFrame die stream data) := of_event rfl

theorem hostWrite (pa : Nat) (data : List Byte) : Statement (.hostWrite pa data) := of_event rfl

theorem hostRead (pa len : Nat) : Statement (.hostRead pa len) := of_event rfl

theorem hostWindowCompletion (acc lane : Nat) (status : PcieStatus) (value : BitVec 128) : Statement (.hostWindowCompletion acc lane status value) := of_event rfl

theorem getVersion (die : DieId) : Statement (.getVersion die) := of_event rfl

theorem getCapabilities (die : DieId) : Statement (.getCapabilities die) := of_event rfl

theorem negotiateAlgorithms (die : DieId) : Statement (.negotiateAlgorithms die) := of_event rfl

theorem getDigests (die : DieId) : Statement (.getDigests die) := of_event rfl

theorem getCertificate (die : DieId) : Statement (.getCertificate die) := of_event rfl

theorem challenge (die : DieId) : Statement (.challenge die) := of_event rfl

theorem getMeasurements (die : DieId) : Statement (.getMeasurements die) := of_event rfl

theorem patrol (die : DieId) (vaults : Bool) (fixed : List (Nat × Nat)) : Statement (.patrol die vaults fixed) := of_event rfl

theorem uncorrectableErrorFound (pa : Nat) (inCache : Bool) : Statement (.uncorrectableErrorFound pa inCache) := of_event rfl

theorem uncorrectableErrorConsumed (job : Nat) (array core : Nat) (offset : Nat) : Statement (.uncorrectableErrorConsumed job array core offset) := of_event rfl

theorem remoteWriteResend (die : DieId) (tag : BitVec 24) (lost : Bool) : Statement (.remoteWriteResend die tag lost) := of_event rfl

theorem remoteResponse (die : DieId) (tag : BitVec 24) : Statement (.remoteResponse die tag) := of_event rfl

theorem linkRetry (die : DieId) : Statement (.linkRetry die) := of_event rfl

theorem trivetHeartbeat (die : DieId) : Statement (.trivetHeartbeat die) := of_event rfl

theorem dieLost (lost : DieId) : Statement (.dieLost lost) := of_event rfl

theorem sequencerHang (die : DieId) (num : Nat) : Statement (.sequencerHang die num) := of_event rfl

theorem powerSequencerHang (die : DieId) : Statement (.powerSequencerHang die) := of_event rfl

theorem lockstepMismatch (die : DieId) : Statement (.lockstepMismatch die) := of_event rfl

theorem engineHung (die : DieId) (engine : EngineId) : Statement (.engineHung die engine) := of_event rfl

theorem vaultRowSpare (die : DieId) (vault row : Nat) : Statement (.vaultRowSpare die vault row) := of_event rfl

theorem coreSpare (die : DieId) (core : Nat) : Statement (.coreSpare die core) := of_event rfl

theorem waittTargetReached (who : Issuer) : Statement (.waittTargetReached who) := of_event rfl

theorem watchdogAbandon (job : Nat) : Statement (.watchdogAbandon job) := of_event rfl

theorem remoteReadResend (acc : Nat) : Statement (.remoteReadResend acc) := of_event rfl

theorem keptResultAged (die : DieId) : Statement (.keptResultAged die) := of_event rfl

theorem configurationRequest (die : DieId) : Statement (.configurationRequest die) := of_event rfl

end Sys2Proof.Laws.Code
end

