-- ==== Sys2Proof/Tests/Slice0.lean ====
section
/-! SUPPORT. Tests: words written out from the encoding tables of the manual (R49, R60, R67 and the form
tables), the manual's own worked words, ill-formed terms that the checks of R50 refuse, and one-step checks
on a small state. -/

namespace Sys2Proof.Tests

open Sys2Proof Sys2Proof.Machine

set_option maxRecDepth 20000
set_option Elab.async false
set_option exponentiation.threshold 4096

/-- No guard, no spacing, no yield. -/
abbrev hn : Hdr := ⟨⟨false, 7⟩, ⟨false, 7⟩, 0, false⟩

/-- Guards !p3 and p5, SC 2, YL 1. -/
abbrev hg : Hdr := ⟨⟨true, 3⟩, ⟨false, 5⟩, 2, true⟩

/-! ## Decoding -/

/-- Words of the Int forms. -/
def wordsInt : List (IWord × Instr) := [
  (0x000000640000650EE000000004040000, .intAdd ⟨hn, .s32, false, true, 4, 2, .imm 100⟩),
  (0x00000000A000880B6000003014080100, .intAddc ⟨hg, .n64, true, false, 8, 10, .reg 12⟩),
  (0x000000000000A60EE000000C04010200, .intSub ⟨hn, .n32, true, true, 1, 2, .reg 3⟩),
  (0x000000000000270EE000001808020300, .intSubb ⟨hn, .s64, false, true, 2, 4, .reg 6⟩),
  (0x000000000000850EE000000004010400, .intNeg ⟨hn, .s32, true, false, 1, 2⟩),
  (0x000000000000270EE000000010060500, .intAbs ⟨hn, .s64, false, true, 6, 8⟩),
  (0x000000000000250EE000064008030600, .intMin ⟨hn, .s32, false, true, 3, 4, .reg 400⟩),
  (0x000000070000480EE00000000C040700, .intMax ⟨hn, .n64, false, false, 4, 6, .imm 7⟩),
  (0x000000000000070EE000001808020001, .imulLo ⟨hn, .s64, 2, 4, .reg 6⟩),
  (0x000000000000060EE000001406020101, .imulHi ⟨hn, .n32, 2, 3, .reg 5⟩),
  (0x000000000000050EE000001406020201, .imulWide ⟨hn, .s32, 2, 3, .reg 5⟩),
  (0x000000000000080EE000401808020301, .imulMadlo ⟨hn, .n64, 2, 4, .reg 6, 8⟩),
  (0x000000000000050EE000200C04010401, .imulMadhi ⟨hn, .s32, 1, 2, .reg 3, 4⟩),
  (0x000000400000460EE0003000140C0501, .imulMadwide ⟨hn, .n32, 12, 10, .imm 64, 6⟩),
  (0x000000000000050EE000000C04010002, .idivDiv ⟨hn, .s32, 1, 2, .reg 3⟩),
  (0x000000000000080EE000001808020102, .idivRem ⟨hn, .n64, 2, 4, .reg 6⟩),
  (0x000000000000850EE000200C04010003, .idotDp4 ⟨hn, .s32, true, 1, 2, .reg 3, 4⟩)]

theorem test_decode_int : ∀ p ∈ wordsInt, decode p.1 = some p.2 ∧ p.2.word = p.1 := by decide

/-- Words of the Logic forms. -/
def wordsLogic : List (IWord × Instr) := [
  (0x0000000000002F0EE000000C04010010, .logicAnd ⟨hn, .b32, true, 1, 2, .reg 3⟩),
  (0x0000000000002F0EE000000C04010110, .logicOr ⟨hn, .b32, true, 1, 2, .reg 3⟩),
  (0x0000000000002F0EE000000C04010210, .logicXor ⟨hn, .b32, true, 1, 2, .reg 3⟩),
  (0x000000000000100EE000000008020310, .logicNot ⟨hn, .b64, false, 2, 4⟩),
  (0x00000000004B2F0EE000200C04010410, .logicTruth ⟨hn, .b32, true, 0x96, 1, 2, .reg 3, 4⟩),
  (0x000000050000700EE000000008020011, .shiftShl ⟨hn, .b64, true, 2, 4, .imm 5⟩),
  (0x0000000000000F0EE000001408020111, .shiftShr ⟨hn, .b32, false, 2, 4, .reg 5⟩),
  (0x000000000000250EE000001408020211, .shiftSar ⟨hn, .s32, true, 2, 4, .reg 5⟩),
  (0x0000000000000F0EE000200C04010311, .shiftFshl ⟨hn, .b32, 1, 2, .reg 3, 4⟩),
  (0x0000000800004F0EE000200004010411, .shiftFshr ⟨hn, .b32, 1, 2, .imm 8, 4⟩),
  (0x000000000000100EE000000004010012, .bitPopc ⟨hn, .b64, 1, 2⟩),
  (0x0000000000000F0EE000000004010112, .bitClz ⟨hn, .b32, 1, 2⟩),
  (0x000000000000100EE000000004010212, .bitCtz ⟨hn, .b64, 1, 2⟩),
  (0x000000000000100EE000000004060312, .bitBrev ⟨hn, .b64, 6, 2⟩),
  (0x000008100000470EE000000004060412, .bitBfe ⟨hn, .s64, 6, 2, .imm 0x0810⟩),
  (0x0000000000000F0EE000200C04060512, .bitBfi ⟨hn, .b32, 6, 2, .reg 3, 4⟩),
  (0x000000000000110EE000003000080013, .mov ⟨hn, .b128, 8, .reg 12⟩),
  (0x0000000000000F0EE000200C04010113, .movBsel ⟨hn, .b32, 1, 2, .reg 3, 4⟩)]

theorem test_decode_logic : ∀ p ∈ wordsLogic, decode p.1 = some p.2 ∧ p.2.word = p.1 := by decide

/-- Words of the Pred forms. -/
def wordsPred : List (IWord × Instr) := [
  (0x000000000CE68B0EE000000802000020, .setpCmp ⟨hn, .f32, ⟨true, 2, 3, 4⟩, 13, 1, .reg 2⟩),
  (0x0000000002AE000EE000000000000120, .setpCct ⟨hn, ⟨false, 1, 2, 5⟩, 12⟩),
  (0x0000010300080C0EE000000008000220, .setpClass ⟨hn, .f64, ⟨false, 0, 0, 1⟩, 4, 0x103⟩),
  (0x0000008803E8800EE000000000000021, .pcomb ⟨hn, 1, 2, 7, 3, 0x88⟩),
  (0x000000000006100EE000001808020022, .sel ⟨hn, .b64, true, 4, 2, 4, .reg 6⟩),
  (0x0000000000048F0EE000001808020122, .selCc ⟨hn, .b32, 9, 2, 4, .reg 6⟩),
  (0x000000000000000EE000000000050023, .pmovToreg ⟨hn, 5⟩),
  (0x000000550000000EE00000000A000123, .pmovFromreg ⟨hn, 5, 0x55⟩)]

theorem test_decode_pred : ∀ p ∈ wordsPred, decode p.1 = some p.2 ∧ p.2.word = p.1 := by decide

/-- Words of the Float forms. -/
def wordsFloat : List (IWord × Instr) := [
  (0x0000000000012B0EE000000C04010030, .farithAdd ⟨hn, .f32, .upward, true, 1, 2, .reg 3⟩),
  (0x0000000000012B0EE000000C04010130, .farithSub ⟨hn, .f32, .upward, true, 1, 2, .reg 3⟩),
  (0x0000000000012B0EE000000C04010230, .farithMul ⟨hn, .f32, .upward, true, 1, 2, .reg 3⟩),
  (0x00000000A0020E0B6000200C04010330, .farithFma ⟨hg, .bf16x2, .nearestAway, false, 1, 2, .reg 3, 4⟩),
  (0x000000000004090EE000000C04010430, .farithMin ⟨hn, .f16, true, false, 1, 2, .reg 3⟩),
  (0x000000000004090EE000000C04010530, .farithMax ⟨hn, .f16, true, false, 1, 2, .reg 3⟩),
  (0x0000000000002B0EE000000004010630, .farithAbs ⟨hn, .f32, true, 1, 2⟩),
  (0x0000000000002B0EE000000004010730, .farithNeg ⟨hn, .f32, true, 1, 2⟩),
  (0x0000000000018D0EE000000004010031, .fmiscRint ⟨hn, .f16x2, .downward, 1, 2⟩),
  (0x0000000000000B0EE000000C04010131, .fmiscCopysign ⟨hn, .f32, 1, 2, .reg 3⟩),
  (0x000000000000AC0EE000001808020040, .darithAdd ⟨hn, .f64, .towardZero, true, 2, 4, .reg 6⟩),
  (0x000000000000AC0EE000001808020140, .darithSub ⟨hn, .f64, .towardZero, true, 2, 4, .reg 6⟩),
  (0x000000000000AC0EE000001808020240, .darithMul ⟨hn, .f64, .towardZero, true, 2, 4, .reg 6⟩),
  (0x3F80000000004C0EE000400008020340, .darithFma ⟨hn, .f64, .nearestEven, false, 2, 4, .imm 0x3F800000, 8⟩),
  (0x0000000000042C0EE000001808020440, .darithMin ⟨hn, .f64, true, true, 2, 4, .reg 6⟩),
  (0x0000000000042C0EE000001808020540, .darithMax ⟨hn, .f64, true, true, 2, 4, .reg 6⟩),
  (0x0000000000000C0EE000000008020640, .darithAbs ⟨hn, .f64, false, 2, 4⟩),
  (0x0000000000000C0EE000000008020740, .darithNeg ⟨hn, .f64, false, 2, 4⟩),
  (0x0000000000010C0EE000000008020840, .darithRint ⟨hn, .f64, .upward, 2, 4⟩),
  (0x0000000000018B0EE000000004010041, .sfuRcp ⟨hn, .downward, 1, 2⟩),
  (0x0000000000018B0EE000000004010141, .sfuRsq ⟨hn, .downward, 1, 2⟩),
  (0x0000000000018B0EE000000004010241, .sfuSqrt ⟨hn, .downward, 1, 2⟩),
  (0x0000000000018B0EE000000004010341, .sfuEx2 ⟨hn, .downward, 1, 2⟩),
  (0x0000000000018B0EE000000004010441, .sfuLg2 ⟨hn, .downward, 1, 2⟩),
  (0x0000000000018B0EE000000004010541, .sfuSin ⟨hn, .downward, 1, 2⟩),
  (0x0000000000018B0EE000000004010641, .sfuCos ⟨hn, .downward, 1, 2⟩),
  (0x0000000000018B0EE000000004010741, .sfuTanh ⟨hn, .downward, 1, 2⟩)]

theorem test_decode_float : ∀ p ∈ wordsFloat, decode p.1 = some p.2 ∧ p.2.word = p.1 := by decide

/-- Words of the Cvt forms. -/
def wordsCvt : List (IWord × Instr) := [
  (0x000000000034010EE000000004010050, .cvtI2i ⟨hn, .s8, .n32, true, .nearestEven, 1, 2⟩),
  (0x0000000000390C0EE000000008020150, .cvtI2f ⟨hn, .f64, .s64, false, .upward, 2, 4⟩),
  (0x00000000005C840EE000000004010250, .cvtF2i ⟨hn, .n16, .f32, true, .towardZero, 1, 2⟩),
  (0x000000000066090EE000000004010350, .cvtF2f ⟨hn, .f16, .f64, true, .nearestAway, 1, 2⟩),
  (0x00000000005D8B0EE000000008010450, .cvtPack ⟨hn, .s8p4f, .f32, true, .downward, 1, 4⟩),
  (0x0000000000281A0EE000000004080550, .cvtUnpack ⟨hn, .int4, .s32, false, .nearestEven, 8, 2⟩)]

theorem test_decode_cvt : ∀ p ∈ wordsCvt, decode p.1 = some p.2 ∧ p.2.word = p.1 := by decide

/-- Words of the Exchange forms. -/
def wordsExchange : List (IWord × Instr) := [
  (0x000000000001100EE000400C08020060, .vpermIdx ⟨hn, .b64, false, 0, 2, 2, 4, .reg 3, 8⟩),
  (0x000000040058CF0EE000480004010160, .vpermUp ⟨hn, .b32, true, 3, 1, 1, 2, .imm 4, 9⟩),
  (0x0000000100504F0EE0004800100A0260, .vpermDown ⟨hn, .b32, true, 2, 0, 10, 8, .imm 1, 9⟩),
  (0x0000000000020F0EE0004E1804010360, .vpermXor ⟨hn, .b32, false, 0, 4, 1, 2, .reg 390, 9⟩),
  (0x0000000000010B0EE000000005900061, .reduceAdd ⟨hn, .f32, .upward, false, 400, 2⟩),
  (0x0000000000040B0EE000000004010161, .reduceMin ⟨hn, .f32, .nearestEven, true, 1, 2⟩),
  (0x000000000000050EE000000004010261, .reduceMax ⟨hn, .s32, .nearestEven, false, 1, 2⟩),
  (0x0000000000000F0EE000000004010361, .reduceAnd ⟨hn, .b32, 1, 2⟩),
  (0x0000000000000F0EE000000004010461, .reduceOr ⟨hn, .b32, 1, 2⟩),
  (0x0000000000000F0EE000000004010561, .reduceXor ⟨hn, .b32, 1, 2⟩),
  (0x0000000000018B0EE000000004010062, .scanIncl ⟨hn, .f32, .downward, false, 0, 1, 2⟩),
  (0x000000000010060EE000000004010162, .scanExcl ⟨hn, .n32, .nearestEven, false, 2, 1, 2⟩),
  (0x000000000006800EE000000001870063, .voteBallot ⟨hn, true, 5, 391⟩),
  (0x000000000020800EE000000000000163, .voteAny ⟨hn, false, 1, 4⟩),
  (0x000000000035000EE000000000000263, .voteAll ⟨hn, true, 2, 6⟩),
  (0x000000000000100EE000000004010363, .voteMatch ⟨hn, .b64, 1, 2⟩),
  (0x0000000000000F0EE000000005830064, .umovFirst ⟨hn, .b32, 387, 2⟩),
  (0x0000001F0000500EE00C200008020164, .umovLane ⟨hn, .b64, 2, 4, .imm 31, 388⟩)]

theorem test_decode_exchange : ∀ p ∈ wordsExchange, decode p.1 = some p.2 ∧ p.2.word = p.1 := by decide

/-- Words of the Control forms. -/
def wordsControl : List (IWord × Instr) := [
  (0xFFFFFFE00000000E0000000000000070, .bra ⟨⟨⟨false, 0⟩, ⟨false, 7⟩, 0, false⟩, 0xFFFFFFE0⟩),
  (0x00000000A000000B6000000008000071, .brx ⟨hg, 4⟩),
  (0x000001400000000EE000000000140072, .call ⟨hn, 20, 0x140⟩),
  (0x000000000000000EE00000000C140073, .callx ⟨hn, 20, 6⟩),
  (0x000000000000000EE000000028000074, .ret ⟨hn, 20⟩),
  (0x000000400000000EE000000000000075, .jset ⟨hn, 0x40⟩),
  (0x000000000000000EE000000000000076, .jwait ⟨hn⟩),
  (0x00000000A000000B6000000000000077, .exit ⟨hg⟩),
  (0xFFFFFF000000000EE000000000000078, .waitc ⟨hn, 0xFF, 0xFF, 0xFF, 0⟩),
  (0x000000000000000EE000000000000079, .yield ⟨hn⟩),
  (0x000000050000000EE00000000184007A, .sread ⟨hn, 388, 5⟩),
  (0x00000000A000000B600000000000007B, .nop ⟨hg⟩),
  (0x000000050000000EE0000000000000E0, .trap ⟨hn, 5⟩),
  (0x000000100000000EE0000000000000E1, .brk ⟨hn, 0x10⟩),
  (0x000000000000000EE0000000000000E2, .eret ⟨hn⟩),
  (0x000003410000000EE0000000000400E3, .csrRd ⟨hn, 4, 0x341⟩),
  (0x000003400000000EE0000000080001E3, .csrWr ⟨hn, 4, 0x340⟩),
  (0x000000000000000EE0000000000000E4, .wfi ⟨hn⟩)]

theorem test_decode_control : ∀ p ∈ wordsControl, decode p.1 = some p.2 ∧ p.2.word = p.1 := by decide

/-- Words of the Memory forms. -/
def wordsMemory : List (IWord × Instr) := [
  (0x000000400680102EE000000004080080, .ld ⟨hn, .b64, ⟨.die, 1, false, .stream, 2, 0x40⟩, false, 8⟩),
  (0xFFFFFFFFA004020B6000002404000081, .st ⟨hg, .n8, ⟨.none, 0, true, .default, 2, 0xFFFFFFFF⟩, false, 9⟩),
  (0x000000800000004EE000000008000082, .prefL1 ⟨hn, .keep, false, 4, 0x80⟩),
  (0x000000000000000EE000000008000182, .prefMsc ⟨hn, .default, false, 4, 0⟩),
  (0x000000000000800EE000000000000083, .cctlInvl1 ⟨hn, true, false, 0, 0⟩),
  (0x000001000000000EE00000000C000183, .cctlWbmsc ⟨hn, false, false, 6, 0x100⟩),
  (0x0000000809800B6EE0000030080A0090, .atomAdd ⟨hn, .f32, ⟨.module, 3, false, .nol1, 4, 8⟩, 10, 12, 0⟩),
  (0x000000080980076EE0000030080A0190, .atomMin ⟨hn, .s64, ⟨.module, 3, false, .nol1, 4, 8⟩, 10, 12, 0⟩),
  (0x000000080980066EE0000030080A0290, .atomMax ⟨hn, .n32, ⟨.module, 3, false, .nol1, 4, 8⟩, 10, 12, 0⟩),
  (0x0000000809800F6EE0000030080A0390, .atomAnd ⟨hn, .b32, ⟨.module, 3, false, .nol1, 4, 8⟩, 10, 12, 0⟩),
  (0x000000080980106EE0000030080A0490, .atomOr ⟨hn, .b64, ⟨.module, 3, false, .nol1, 4, 8⟩, 10, 12, 0⟩),
  (0x0000000809800F6EE0000030080A0590, .atomXor ⟨hn, .b32, ⟨.module, 3, false, .nol1, 4, 8⟩, 10, 12, 0⟩),
  (0x000000080980106EE0000030080A0690, .atomXchg ⟨hn, .b64, ⟨.module, 3, false, .nol1, 4, 8⟩, 10, 12, 0⟩),
  (0x0000000809800F6EE0007030080A0790, .atomCas ⟨hn, .b32, ⟨.module, 3, false, .nol1, 4, 8⟩, 10, 12, 14⟩),
  (0x000000100B0406AEE000003008000091, .redAdd ⟨hn, .n32, ⟨.system, 2, true, .last, 4, 16⟩, 12⟩),
  (0x000000100B040BAEE000003008000191, .redMin ⟨hn, .f32, ⟨.system, 2, true, .last, 4, 16⟩, 12⟩),
  (0x000000100B0408AEE000003008000291, .redMax ⟨hn, .n64, ⟨.system, 2, true, .last, 4, 16⟩, 12⟩),
  (0x000000100B040FAEE000003008000391, .redAnd ⟨hn, .b32, ⟨.system, 2, true, .last, 4, 16⟩, 12⟩),
  (0x000000100B0410AEE000003008000491, .redOr ⟨hn, .b64, ⟨.system, 2, true, .last, 4, 16⟩, 12⟩),
  (0x000000100B040FAEE000003008000591, .redXor ⟨hn, .b32, ⟨.system, 2, true, .last, 4, 16⟩, 12⟩),
  (0x000000000780000EE000000000000092, .fence ⟨hn, .die, 3⟩)]

theorem test_decode_memory : ∀ p ∈ wordsMemory, decode p.1 = some p.2 ∧ p.2.word = p.1 := by decide

/-- Words of the Sync forms. -/
def wordsSync : List (IWord × Instr) := [
  (0x000000090080400EE00C2803080000A0, .barInit ⟨hn, false, .reg 388, .imm 9, 389⟩),
  (0x000000400603C00EE0000000000001A0, .barExpect ⟨hn, true, 2, .bidx 7, .imm 64⟩),
  (0x00000000007F800EE0000000000002A0, .barArrive ⟨hn, false, 0, .bidx 255⟩),
  (0x000000000000800EE0000618000003A0, .barWait ⟨hn, .bidx 1, .reg 390⟩),
  (0x000000030001400EE0000003040800A1, .qclaim ⟨hn, 2, 8, 386, .imm 3⟩),
  (0x000000000000000EE00C461B040000A2, .qcommit ⟨hn, 386, .reg 390, 392⟩),
  (0x000000010000400EE0000003040800A3, .qawait ⟨hn, 8, 386, .imm 1⟩),
  (0x000000020000400EE00C4003040000A4, .qretire ⟨hn, 386, .imm 2, 392⟩),
  (0x000000000005800EE0008000000000A5, .push ⟨hn, 1, 3, 0, 16⟩),
  (0x000401020000000EE0000000000000A6, .evsig ⟨hn, false, 0, 0x0102, 4⟩),
  (0x000000000000000EE0000000018400A7, .take ⟨hn, 388⟩),
  (0x000000030A00000EE0000000000000A8, .publish ⟨hn, .system, 3⟩)]

theorem test_decode_sync : ∀ p ∈ wordsSync, decode p.1 = some p.2 ∧ p.2.word = p.1 := by decide

/-- Words of the Matrix forms. -/
def wordsMatrix : List (IWord × Instr) := [
  (0x000153090D00180EE0000000000000B0, .mmaM32N32K64 ⟨hn, .int8, some 2, true, none, 1, 5, 3, 9⟩),
  (0x000053090D00030EE0000000000001B0, .mmaM32N64K64 ⟨hn, .s8p4, some 2, true, none, 0, 5, 3, 9⟩),
  (0x000353090D000D0EE0000000000002B0, .mmaM32N16K128 ⟨hn, .s8p6f, some 2, true, none, 3, 5, 3, 9⟩),
  (0x000253090D001C0EE0000000000003B0, .mmaM32N32K32 ⟨hn, .bf16, some 2, true, none, 2, 5, 3, 9⟩),
  (0x000053090D001B0EE0000000000004B0, .mmaM32N64K32 ⟨hn, .fp16, some 2, true, none, 0, 5, 3, 9⟩),
  (0x000153090D001A0EE0000000000005B0, .mmaM32N32K128 ⟨hn, .int4, some 2, true, none, 1, 5, 3, 9⟩),
  (0x000053090D001D0EE0000000000006B0, .mmaM32N32K8 ⟨hn, .fp32, some 2, true, none, 0, 5, 3, 9⟩),
  (0x005408090100000EE00000030C0000B1, .mscale ⟨hn, none, true, 390, 1, 1, 4, 8, 9⟩),
  (0x000000640E00000EE0000000000000B2, .mzero ⟨hn, some 3, 100⟩),
  (0x000010000002000EE0000000003000B3, .mld ⟨hn, none, 4, 16, 0, 48⟩),
  (0x00003C030801000EE0000000200000B4, .mst ⟨hn, some 0, 2, 60, 3, 16⟩),
  (0x00000005002D030EE0000000080000B5, .fpush ⟨hn, .s8p4, 2, true, true, .upward, 4, 5⟩),
  (0x000000000002000EE0000000000000B6, .mmode ⟨hn, none, .nearestAway⟩),
  (0x0086000B01C0000EE00C2E10000000B7, .mepi ⟨hn, none, true, true, true, 388, 389, 2, 0, 6, 11⟩)]

theorem test_decode_matrix : ∀ p ∈ wordsMatrix, decode p.1 = some p.2 ∧ p.2.word = p.1 := by decide

/-- Words of the Compositor forms. -/
def wordsCompositor : List (IWord × Instr) := [
  (0x3E8000000001C00EF8CC5000080000C0, .cinit ⟨hn, true, 4, some ⟨.imm 0x3E800000, 394, 396⟩⟩),
  (0x000000000000000EE0004000080000C1, .cmps ⟨hn, 4, 8⟩),
  (0x000000000000000EE00000030C0000C2, .cflush ⟨hn, 390⟩),
  (0x000000000000000EE0000000060800C3, .cread ⟨hn, 8, 3⟩),
  (0x000000000000800EE0000000060000C4, .cretire ⟨hn, true, 3⟩),
  (0x000000000000000E22C14090023000C5, .creplay ⟨⟨⟨false, 1⟩, ⟨false, 7⟩, 0, false⟩, 48, 1, 36, 40, 44⟩)]

theorem test_decode_compositor : ∀ p ∈ wordsCompositor, decode p.1 = some p.2 ∧ p.2.word = p.1 := by decide

/-- Words of the Time forms. -/
def wordsTime : List (IWord × Instr) := [
  (0x000000000000000EE0000000019400D0, .time ⟨hn, 404⟩),
  (0x000000000000800EE0000003100000D1, .waitt ⟨hn, true, 392⟩),
  (0x000000030000400EE0000000000000D2, .pcls ⟨hn, .imm 3⟩),
  (0x000000090000000EE0000000000000D3, .swpt ⟨hn, 9⟩),
  (0x000000020000000EE0000617080000D4, .ckpt ⟨hn, 388, 389, 2⟩)]

theorem test_decode_time : ∀ p ∈ wordsTime, decode p.1 = some p.2 ∧ p.2.word = p.1 := by decide

/-- The words that the manual prints beside its source lines (chapters 3, 4, 6 to 8, 10 to 14, 16, 17, 19). -/
def wordsManual : List (IWord × Instr) := [
  (0x000000642000650E2000000004040000, .intAdd ⟨⟨⟨false, 1⟩, ⟨false, 7⟩, 2, false⟩, .s32, false, true, 4, 2, .imm 100⟩),
  (0xFFFFFF000000000EE000000000000078, .waitc ⟨hn, 0xFF, 0xFF, 0xFF, 0⟩),
  (0x000000000000000EE000000000000077, .exit ⟨hn⟩),
  (0x0000000100504F0EE0004800100A0260, .vpermDown ⟨hn, .b32, true, 2, 0, 10, 8, .imm 1, 9⟩),
  (0xFFFFFFE00000000E0000000000000070, .bra ⟨⟨⟨false, 0⟩, ⟨false, 7⟩, 0, false⟩, 0xFFFFFFE0⟩),
  (0x000001400000000EE000000000140072, .call ⟨hn, 20, 0x140⟩),
  (0x000000050000000EE00000000184007A, .sread ⟨hn, 388, 5⟩),
  (0x000000000000000EE000000000000076, .jwait ⟨hn⟩),
  (0x000000400680102EE000000004080080, .ld ⟨hn, .b64, ⟨.die, 1, false, .stream, 2, 0x40⟩, false, 8⟩),
  (0x000000000005800EE0008000000000A5, .push ⟨hn, 1, 3, 0, 16⟩),
  (0x000010000002000EE0000000003000B3, .mld ⟨hn, none, 4, 16, 0, 48⟩),
  (0x0000100001001C0EE0000000000003B0, .mmaM32N32K32 ⟨hn, .bf16, none, true, none, 0, 1, 0, 0⟩),
  (0x000000000780000EE000000000000092, .fence ⟨hn, .die, 3⟩),
  (0x000000000000000EE0004000080000C1, .cmps ⟨hn, 4, 8⟩),
  (0x3E8000000001C00EF8CC5000080000C0, .cinit ⟨hn, true, 4, some ⟨.imm 0x3E800000, 394, 396⟩⟩),
  (0x000000000009000E20008000000000A5, .push ⟨⟨⟨false, 1⟩, ⟨false, 7⟩, 0, false⟩, 2, 2, 0, 16⟩),
  (0x000000000000000E22C14090023000C5, .creplay ⟨⟨⟨false, 1⟩, ⟨false, 7⟩, 0, false⟩, 48, 1, 36, 40, 44⟩),
  (0x000000000000000EE0000000019400D0, .time ⟨hn, 404⟩),
  (0x000000020000000EE0000617080000D4, .ckpt ⟨hn, 388, 389, 2⟩),
  (0x000000050000000EE0000000000000E0, .trap ⟨hn, 5⟩),
  (0x000000100000000EE0000000000000E1, .brk ⟨hn, 0x10⟩),
  (0x000000000000000EE0000000000000E2, .eret ⟨hn⟩),
  (0x000000000000800EE0000003100000D1, .waitt ⟨hn, true, 392⟩)]

theorem test_decode_manual : ∀ p ∈ wordsManual, decode p.1 = some p.2 := by decide

/-- Words that R50 refuses: unassigned OP or FN, reserved values, unused fields or MOD bits set. -/
def wordsRefused : List IWord := [
  0x000000000000000EE000000000000004 /- R68: unassigned OP -/,
  0x000000000000000EE0000000000000F0 /- R68: reserved group -/,
  0x000000000000050EE000000C04010800 /- R67: unassigned FN -/,
  0x0000000000000F0EE000000004010612 /- R67: unassigned FN -/,
  0x000000000000120EE000000C04010000 /- R60: reserved TY -/,
  0x000000000058070EE000000008010450 /- R92: reserved format -/,
  0x0000000000028B0EE000000C04010030 /- R97: reserved RM -/,
  0x0000000000000FCEE000000004010080 /- R57: reserved CH -/,
  0x0000000000080F0EE000000004010080 /- R180: reserved AS -/,
  0x000000000C800F0EE000000004010080 /- R180: reserved SCOPE -/,
  0x0000000000008F0EE000000C00010013 /- R124: MOD reserved -/,
  0x0000000000000F0EE000000C04010013 /- R50: unused field A -/,
  0x000000010000000EE000000000000077 /- R152: IMM32 unused -/,
  0x000000000000250EE000000C04010001 /- R118: CC must be 0 -/,
  0x0000000000000F2EE000000C00010013 /- R57: CH outside memory forms -/,
  0x000000030200000EE0000000000000B2 /- R229: reserved UNIT -/,
  0x000001480000000EE000000000140072 /- R152: displacement not a multiple of 16 -/,
  0x0000000A0000000EE00000000004007A /- R160: special index -/,
  0x000000030000510EE000000000040013 /- R124: immediate b128 -/,
  0x000000030000450EE000000C04010000 /- R50: B with BI = 1 -/,
  0x0000000000000F0EE000000C04010012 /- R123: B unused -/,
  0x000000000100000EE0000000000002A0 /- R196: SPC without RMT -/]

theorem test_decode_refused : wordsRefused.all (fun w => (decode w).isNone) = true := by decide +kernel

/-! ## Ill-formed terms: one for each check -/

def illInt : List Instr := [
  .intAdd ⟨hn, .s8, false, false, 1, 2, .reg 3⟩,
  .intMin ⟨hn, .s32, true, false, 1, 2, .reg 3⟩,
  .intAdd ⟨hn, .s64, false, false, 1, 2, .reg 4⟩,
  .intAdd ⟨hn, .s32, false, false, 384, 2, .reg 4⟩,
  .intAdd ⟨hn, .s64, false, false, 2, 3, .reg 4⟩,
  .intAdd ⟨hn, .s64, false, false, 2, 4, .reg 5⟩,
  .intNeg ⟨hn, .n32, false, false, 1, 2⟩,
  .intAbs ⟨hn, .s64, false, false, 3, 2⟩,
  .imulLo ⟨hn, .f32, 1, 2, .reg 3⟩,
  .imulWide ⟨hn, .s64, 2, 4, .reg 6⟩,
  .imulWide ⟨hn, .s32, 3, 4, .reg 6⟩,
  .imulMadlo ⟨hn, .n64, 2, 4, .reg 6, 9⟩,
  .imulMadwide ⟨hn, .n32, 2, 4, .reg 6, 9⟩,
  .idivDiv ⟨hn, .b32, 1, 2, .reg 3⟩,
  .idotDp4 ⟨hn, .s64, false, 2, 2, .reg 3, 4⟩,
  .idotDp4 ⟨hn, .s32, false, 400, 2, .reg 3, 4⟩]

theorem test_illformed_int : ∀ i ∈ illInt, ¬ i.WellFormed := by decide

def illLogic : List Instr := [
  .logicAnd ⟨hn, .s32, false, 1, 2, .reg 3⟩,
  .logicNot ⟨hn, .b64, false, 1, 2⟩,
  .logicTruth ⟨hn, .b64, false, 0, 2, 4, .reg 6, 7⟩,
  .shiftShl ⟨hn, .s32, false, 1, 2, .reg 3⟩,
  .shiftSar ⟨hn, .b32, false, 1, 2, .reg 3⟩,
  .shiftFshl ⟨hn, .b64, 2, 4, .reg 6, 8⟩,
  .bitPopc ⟨hn, .b64, 1, 3⟩,
  .bitBrev ⟨hn, .b64, 1, 2⟩,
  .bitBfe ⟨hn, .b32, 1, 2, .reg 3⟩,
  .bitBfi ⟨hn, .s32, 1, 2, .reg 3, 4⟩,
  .mov ⟨hn, .s32, 1, .reg 2⟩,
  .mov ⟨hn, .b128, 4, .imm 1⟩,
  .movBsel ⟨hn, .b64, 2, 4, .reg 6, 8⟩]

theorem test_illformed_logic : ∀ i ∈ illLogic, ¬ i.WellFormed := by decide

def illPred : List Instr := [
  .setpCmp ⟨hn, .b32, ⟨false, 0, 0, 0⟩, 0, 1, .reg 2⟩,
  .setpCmp ⟨hn, .s32, ⟨false, 0, 0, 0⟩, 6, 1, .reg 2⟩,
  .setpCmp ⟨hn, .f32, ⟨false, 0, 0, 0⟩, 14, 1, .reg 2⟩,
  .setpCmp ⟨hn, .s32, ⟨true, 0, 0, 0⟩, 0, 1, .reg 2⟩,
  .setpCct ⟨hn, ⟨false, 0, 1, 0⟩, 0⟩,
  .setpClass ⟨hn, .s32, ⟨false, 0, 0, 0⟩, 1, 1⟩,
  .setpCmp ⟨hn, .f16, ⟨false, 0, 0, 0⟩, 0, 1, .imm 65536⟩,
  .sel ⟨hn, .f32, false, 0, 1, 2, .reg 3⟩,
  .selCc ⟨hn, .b64, 0, 1, 2, .reg 4⟩]

theorem test_illformed_pred : ∀ i ∈ illPred, ¬ i.WellFormed := by decide

def illFloat : List Instr := [
  .farithAdd ⟨hn, .f64, .nearestEven, false, 2, 4, .reg 6⟩,
  .farithAdd ⟨hn, .f16x2, .nearestEven, true, 1, 2, .reg 3⟩,
  .farithFma ⟨hn, .bf16x2, .nearestEven, true, 1, 2, .reg 3, 4⟩,
  .farithMin ⟨hn, .s32, false, false, 1, 2, .reg 3⟩,
  .farithAbs ⟨hn, .f16x2, true, 1, 2⟩,
  .fmiscRint ⟨hn, .f64, .nearestEven, 2, 4⟩,
  .fmiscCopysign ⟨hn, .f64, 2, 4, .reg 6⟩,
  .darithAdd ⟨hn, .f32, .nearestEven, false, 2, 4, .reg 6⟩,
  .darithFma ⟨hn, .f64, .nearestEven, false, 2, 4, .reg 6, 7⟩,
  .darithRint ⟨hn, .f64, .nearestEven, 1, 4⟩,
  .sfuRcp ⟨hn, .nearestEven, 384, 2⟩]

theorem test_illformed_float : ∀ i ∈ illFloat, ¬ i.WellFormed := by decide

def illCvt : List Instr := [
  .cvtI2i ⟨hn, .s8, .n32, false, .upward, 1, 2⟩,
  .cvtI2f ⟨hn, .s32, .s32, false, .nearestEven, 1, 2⟩,
  .cvtF2i ⟨hn, .s32, .s32, false, .nearestEven, 1, 2⟩,
  .cvtF2f ⟨hn, .f64, .f32, false, .nearestEven, 1, 2⟩,
  .cvtPack ⟨hn, .s8p4, .f64, false, .nearestEven, 1, 4⟩,
  .cvtPack ⟨hn, .s8p4, .f32, false, .nearestEven, 1, 6⟩,
  .cvtUnpack ⟨hn, .int4, .f32, false, .nearestEven, 4, 1⟩]

theorem test_illformed_cvt : ∀ i ∈ illCvt, ¬ i.WellFormed := by decide

def illExchange : List Instr := [
  .vpermIdx ⟨hn, .s32, false, 0, 0, 1, 2, .reg 3, 4⟩,
  .vpermIdx ⟨hn, .b32, false, 0, 5, 1, 2, .reg 3, 4⟩,
  .vpermIdx ⟨hn, .b32, false, 1, 0, 1, 2, .reg 3, 4⟩,
  .vpermIdx ⟨hn, .b32, false, 0, 0, 400, 2, .reg 3, 4⟩,
  .reduceAdd ⟨hn, .b32, .nearestEven, false, 1, 2⟩,
  .reduceAdd ⟨hn, .s32, .upward, false, 1, 2⟩,
  .reduceMin ⟨hn, .s32, .nearestEven, true, 1, 2⟩,
  .reduceAnd ⟨hn, .s32, 1, 2⟩,
  .scanIncl ⟨hn, .s32, .nearestEven, false, 6, 1, 2⟩,
  .scanIncl ⟨hn, .s32, .nearestEven, false, 3, 1, 2⟩,
  .scanExcl ⟨hn, .s32, .nearestEven, false, 0, 400, 2⟩,
  .voteMatch ⟨hn, .b32, 400, 2⟩,
  .umovFirst ⟨hn, .s32, 400, 2⟩,
  .umovLane ⟨hn, .b32, 1, 2, .reg 3, 400⟩,
  .umovLane ⟨hn, .b32, 1, 2, .reg 390, 4⟩]

theorem test_illformed_exchange : ∀ i ∈ illExchange, ¬ i.WellFormed := by decide

def illControl : List Instr := [
  .bra ⟨hn, 8⟩,
  .brx ⟨hn, 3⟩,
  .call ⟨hn, 21, 0x140⟩,
  .call ⟨hn, 20, 0x144⟩,
  .callx ⟨hn, 400, 2⟩,
  .callx ⟨hn, 20, 3⟩,
  .jset ⟨hg, 16⟩,
  .jset ⟨hn, 4⟩,
  .jwait ⟨hg⟩,
  .eret ⟨hg⟩,
  .waitc ⟨hn, 64, 0, 0, 0⟩,
  .sread ⟨hn, 4, 10⟩,
  .sread ⟨hn, 5, 9⟩,
  .sread ⟨hn, 388, 0⟩]

theorem test_illformed_control : ∀ i ∈ illControl, ¬ i.WellFormed := by decide

def illMemory : List Instr := [
  .ld ⟨hn, .s32, ⟨.none, 0, false, .default, 2, 0⟩, false, 1⟩,
  .ld ⟨hn, .b32, ⟨.none, 1, false, .default, 2, 0⟩, false, 1⟩,
  .ld ⟨hn, .b32, ⟨.die, 2, false, .default, 2, 0⟩, false, 1⟩,
  .ld ⟨hn, .b32, ⟨.none, 0, false, .default, 3, 0⟩, false, 1⟩,
  .ld ⟨hn, .b128, ⟨.none, 0, false, .default, 2, 0⟩, false, 2⟩,
  .st ⟨hn, .s8, ⟨.none, 0, false, .default, 2, 0⟩, false, 1⟩,
  .st ⟨hn, .b64, ⟨.none, 0, false, .default, 2, 0⟩, false, 1⟩,
  .prefL1 ⟨hn, .default, false, 3, 0⟩,
  .cctlWbmsc ⟨hn, true, false, 0, 0⟩,
  .cctlInvl1 ⟨hn, true, false, 0, 4⟩,
  .atomAdd ⟨hn, .b32, ⟨.none, 0, false, .default, 2, 0⟩, 1, 2, 0⟩,
  .atomMin ⟨hn, .bf16x2, ⟨.none, 0, false, .default, 2, 0⟩, 1, 2, 0⟩,
  .atomAnd ⟨hn, .s32, ⟨.none, 0, false, .default, 2, 0⟩, 1, 2, 0⟩,
  .atomXchg ⟨hn, .b32, ⟨.none, 0, false, .default, 2, 0⟩, 1, 2, 3⟩,
  .atomCas ⟨hn, .b64, ⟨.none, 0, false, .default, 2, 0⟩, 2, 4, 7⟩,
  .redAdd ⟨hn, .n32, ⟨.die, 3, false, .default, 2, 0⟩, 1⟩,
  .fence ⟨hn, .none, 0⟩]

theorem test_illformed_memory : ∀ i ∈ illMemory, ¬ i.WellFormed := by decide

def illSync : List Instr := [
  .barInit ⟨hn, false, .bidx 0, .reg 3, 388⟩,
  .barInit ⟨hn, false, .bidx 0, .imm 3, 4⟩,
  .barInit ⟨hn, true, .bidx 0, .imm 3, 0⟩,
  .barWait ⟨hn, .reg 3, .imm 0⟩,
  .barExpect ⟨hn, false, 1, .bidx 0, .imm 0⟩,
  .barArrive ⟨hn, false, 2, .bidx 0⟩,
  .qclaim ⟨hn, 0, 8, 2, .imm 1⟩,
  .qclaim ⟨hn, 0, 9, 386, .imm 1⟩,
  .qclaim ⟨hn, 0, 8, 386, .reg 1⟩,
  .qcommit ⟨hn, 386, .imm 1, 2⟩,
  .qawait ⟨hn, 388, 386, .imm 1⟩,
  .push ⟨hn, 3, 0, 0, 16⟩,
  .push ⟨hn, 1, 0, 0, 8⟩,
  .push ⟨hn, 1, 0, 386, 16⟩,
  .push ⟨hn, 0, 0, 2, 16⟩,
  .evsig ⟨hn, true, 386, 5, 0⟩,
  .evsig ⟨hn, false, 386, 5, 0⟩,
  .evsig ⟨hn, true, 3, 0, 0⟩,
  .take ⟨hn, 390⟩,
  .publish ⟨hn, .none, 3⟩]

theorem test_illformed_sync : ∀ i ∈ illSync, ¬ i.WellFormed := by decide

def illMatrix : List Instr := [
  .mmaM32N32K64 ⟨hn, .fp16, none, false, none, 0, 0, 0, 0⟩,
  .mmaM32N32K64 ⟨hn, .int8, none, false, some .s8p4, 0, 0, 0, 0⟩,
  .mmaM32N64K64 ⟨hn, .s8p4, none, false, none, 1, 0, 0, 0⟩,
  .mmaM32N32K128 ⟨hn, .int4, none, false, some .int4, 0, 0, 0, 0⟩,
  .mscale ⟨hn, none, false, 1, 0, 3, 0, 0, 0⟩,
  .mscale ⟨hn, none, false, 1, 1, 2, 0, 0, 0⟩,
  .mld ⟨hn, none, 5, 0, 0, 0⟩,
  .mld ⟨hn, none, 4, 49, 0, 16⟩,
  .mst ⟨hn, none, 2, 0, 0, 6⟩,
  .fpush ⟨hn, .s8p4, 5, false, false, .nearestEven, 0, 0⟩,
  .fpush ⟨hn, .s8p4, 0, false, true, .nearestEven, 0, 0⟩,
  .fpush ⟨hn, .int4, 0, true, false, .nearestEven, 0, 0⟩,
  .fpush ⟨hn, .s8p4, 2, true, false, .nearestEven, 2, 0⟩,
  .mepi ⟨hn, none, false, false, false, 0, 0, 0, 0, 0, 0⟩,
  .mepi ⟨hn, none, false, false, true, 1, 389, 0, 0, 0, 0⟩,
  .mepi ⟨hn, none, false, true, false, 388, 0, 0, 0, 0, 0⟩,
  .mepi ⟨hn, none, false, false, true, 388, 389, 0, 0, 1, 0⟩]

theorem test_illformed_matrix : ∀ i ∈ illMatrix, ¬ i.WellFormed := by decide

def illOther : List Instr := [
  .cinit ⟨hn, false, 4, some ⟨.reg 4, 394, 396⟩⟩,
  .cinit ⟨hn, false, 4, some ⟨.imm 0, 395, 396⟩⟩,
  .cmps ⟨hn, 4, 9⟩,
  .cread ⟨hn, 4, 3⟩,
  .creplay ⟨hn, 48, 1, 37, 40, 44⟩,
  .creplay ⟨hn, 48, 1, 36, 388, 44⟩,
  .creplay ⟨hn, 48, 1, 36, 40, 400⟩,
  .time ⟨hn, 3⟩,
  .waitt ⟨hn, true, 2⟩,
  .pcls ⟨hn, .imm 4⟩,
  .pcls ⟨hn, .reg 4⟩,
  .ckpt ⟨hn, 4, 389, 0⟩,
  .ckpt ⟨hn, 388, 5, 0⟩,
  .pmovToreg ⟨hn, 400⟩,
  .ret ⟨hn, 21⟩]

theorem test_illformed_other : ∀ i ∈ illOther, ¬ i.WellFormed := by decide

/-! ## Witnesses: small states and operands that meet the hypotheses of the statements -/

/-- The placed program's warp, its state, block and path. -/
abbrev who0 : Issuer := .warp 0 0
def s0 : State := State.reset.seed
def w0 : Warp := Warp.fresh 0 0 0 0 384 0 (BitVec.allOnes 32) 0
def b0 : Block := seedBlock 0 1
def p0 : PathEntry := ⟨BitVec.allOnes 32, 0, 0, false, false⟩

/-- The same with another warp, another block, or other bytes at virtual address 0. -/
def sw (w : Warp) : State := s0.setWarp who0 w
def sb (b : Block) : State := { s0 with blocks := [b] }
def sm (l : List Byte) : State := s0.store 0x20000 l

/-- A guard that no lane passes. -/
abbrev hz : Hdr := ⟨⟨true, 7⟩, ⟨false, 7⟩, 0, false⟩

/-- The hypotheses of `Completes`. -/
def Met (i : Instr) (h : Hdr) (cls : Cls) (rd wr : List Nat) (ctr : Option Ctr)
    (pre : State → Issuer → Warp → PathEntry → Mask → Prop) : Prop :=
  ∃ s who w p, i.WellFormed ∧ s.CanIssue cls rd wr ctr who w p ∧ w.stepping = false ∧ s.upsets = [] ∧
    pre s who w p (w.activeLanes p h)

/-- The hypotheses of `LaneCompletes`. -/
def MetLane (i : Instr) (rd wr : List Nat) : Prop := Met i hn .shared rd wr none fun _ _ _ _ _ => True

/-- What `Met` asks beside `pre`, evaluated, of a warp without unwritten registers. -/
def may (i : Instr) (cls : Cls) (rd wr : List Nat) (ctr : Option Ctr) (s : State) (who : Issuer) (w : Warp) (p : PathEntry) : Bool :=
  decide ((i.legal = true ∧ w.stepping = false ∧ s.upsets = []) ∧
    s.cur = some who ∧ s.warp? who = some w ∧ w.active = some p ∧ s.barred who w = false ∧ w.notBefore ≤ s.cycle ∧
    w.pend = [] ∧ (ctr.all fun c => decide (w.counter c < 63)) = true ∧ cls.allows who = true ∧
    ∀ r ∈ rd ++ wr, 384 ≤ r ∨ r < w.budget)

theorem met {i : Instr} {h : Hdr} {cls : Cls} {rd wr : List Nat} {ctr : Option Ctr}
    {pre : State → Issuer → Warp → PathEntry → Mask → Prop} (s : State) (who : Issuer) (w : Warp) (p : PathEntry)
    (hm : may i cls rd wr ctr s who w p = true) (hp : pre s who w p (w.activeLanes p h)) : Met i h cls rd wr ctr pre := by
  have ⟨⟨legal, stepping, upsets⟩, cur, warp, path, barred, soon, pend, room, allows, budget⟩ := of_decide_eq_true hm
  exact ⟨s, who, w, p, legal, ⟨cur, warp, path, barred, soon, by simp [pend],
    fun c hc => by simpa [hc] using room, allows, budget⟩, stepping, upsets, hp⟩

/-- Facts that are evaluated together, before what stands to their right in a conjunction. -/
theorem join2 {a b x : Prop} (h : a ∧ b) (r : x) : a ∧ b ∧ x := ⟨h.1, h.2, r⟩
theorem join3 {a b c x : Prop} (h : a ∧ b ∧ c) (r : x) : a ∧ b ∧ c ∧ x := ⟨h.1, join2 h.2 r⟩
theorem join5 {a b c d e x : Prop} (h : a ∧ b ∧ c ∧ d ∧ e) (r : x) : a ∧ b ∧ c ∧ d ∧ e ∧ x := ⟨h.1, h.2.1, join3 h.2.2 r⟩

/-- A property of the lanes of a mask, from its instances. -/
theorem lanes_all {P : Nat → Prop} (m : Mask) (h : ∀ L, L < 32 → m.getLsbD L = true → P L) (L : Nat)
    (hL : m.getLsbD L = true) : P L := by
  by_cases hl : L < 32
  · exact h L hl hL
  · simp [BitVec.getLsbD_of_ge m L (by omega)] at hL

/-- A lane form that passes the operand checks may issue on the seeded state. -/
theorem met_lane (i : Instr) (rd wr : List Nat) (hi : may i .shared rd wr none s0 who0 w0 p0 = true) : MetLane i rd wr :=
  met s0 who0 w0 p0 hi trivial

theorem witness_IntFormsCompute : MetLane (.intSubb ⟨hn, .s64, true, true, 2, 4, .reg 6⟩) [4, 5, 6, 7] [2, 3] ∧
    MetLane (.intNeg ⟨hn, .s32, true, true, 0, 383⟩) [383] [0] ∧
    MetLane (.idotDp4 ⟨hn, .s32, true, 1, 2, .imm 7, 4⟩) [2, 4] [1] :=
  ⟨met_lane _ _ _ (by decide +kernel), met_lane _ _ _ (by decide +kernel), met_lane _ _ _ (by decide +kernel)⟩

theorem witness_ProductAndQuotientFormsCompute :
    MetLane (.imulWide ⟨hn, .s32, 2, 3, .reg 511⟩) [3, 511] [2, 3] ∧
    MetLane (.imulMadwide ⟨hn, .n32, 12, 10, .imm 64, 6⟩) [10, 6, 7] [12, 13] ∧
    MetLane (.idivRem ⟨hn, .n64, 2, 4, .reg 6⟩) [4, 5, 6, 7] [2, 3] :=
  ⟨met_lane _ _ _ (by decide +kernel), met_lane _ _ _ (by decide +kernel), met_lane _ _ _ (by decide +kernel)⟩

theorem witness_LogicShiftAndBitFormsCompute :
    MetLane (.logicTruth ⟨hn, .b32, true, 0x96, 1, 2, .reg 3, 4⟩) [2, 3, 4] [1] ∧
    MetLane (.shiftSar ⟨hn, .s32, true, 2, 4, .imm 32⟩) [4] [2] ∧
    MetLane (.shiftFshr ⟨hn, .b32, 1, 2, .imm 33, 4⟩) [2, 4] [1] ∧
    MetLane (.bitClz ⟨hn, .b32, 1, 2⟩) [2] [1] ∧ MetLane (.bitBfe ⟨hn, .s32, 1, 2, .imm 0x0420⟩) [2] [1] ∧
    MetLane (.bitBfi ⟨hn, .b32, 1, 2, .imm 0x081C, 4⟩) [2, 4] [1] :=
  ⟨met_lane _ _ _ (by decide +kernel), met_lane _ _ _ (by decide +kernel), met_lane _ _ _ (by decide +kernel),
    met_lane _ _ _ (by decide +kernel), met_lane _ _ _ (by decide +kernel), met_lane _ _ _ (by decide +kernel)⟩

theorem witness_MovAndSelectFormsCompute :
    MetLane (.mov ⟨hn, .b64, 382, .reg 510⟩) [510, 511] [382, 383] ∧
    MetLane (.movBsel ⟨hn, .b32, 1, 2, .reg 3, 4⟩) [2, 3, 4] [1] ∧
    MetLane (.sel ⟨hn, .b32, true, 7, 1, 2, .reg 3⟩) [2, 3] [1] ∧ MetLane (.pmovToreg ⟨hn, 9⟩) [] [9] :=
  ⟨met_lane _ _ _ (by decide +kernel), met_lane _ _ _ (by decide +kernel), met_lane _ _ _ (by decide +kernel),
    met_lane _ _ _ (by decide +kernel)⟩

theorem witness_PredicateFormsCompute :
    MetLane (.setpCmp ⟨hn, .f32, ⟨false, 2, 7, 0⟩, 13, 1, .imm 0⟩) [1] [] ∧
    MetLane (.setpCct ⟨hn, ⟨true, 3, 1, 7⟩, 0⟩) [] [] ∧ MetLane (.setpClass ⟨hn, .f32, ⟨false, 0, 0, 6⟩, 1, 0x1FF⟩) [1] [] ∧
    MetLane (.pcomb ⟨hn, 0, 1, 7, 2, 0x80⟩) [] [] ∧ MetLane (.pmovFromreg ⟨hn, 1, 0x7F⟩) [1] [] :=
  ⟨met_lane _ _ _ (by decide +kernel), met_lane _ _ _ (by decide +kernel), met_lane _ _ _ (by decide +kernel),
    met_lane _ _ _ (by decide +kernel), met_lane _ _ _ (by decide +kernel)⟩

theorem witness_FloatFormsCompute :
    MetLane (.farithFma ⟨hn, .f32, .towardZero, true, 1, 2, .reg 3, 4⟩) [2, 3, 4] [1] ∧
    MetLane (.darithAdd ⟨hn, .f64, .nearestEven, true, 2, 4, .reg 6⟩) [4, 5, 6, 7] [2, 3] ∧
    MetLane (.farithMin ⟨hn, .bf16x2, true, false, 1, 2, .reg 3⟩) [2, 3] [1] ∧ LTy.f32.isPacked = false :=
  ⟨met_lane _ _ _ (by decide +kernel), met_lane _ _ _ (by decide +kernel), met_lane _ _ _ (by decide +kernel), rfl⟩

theorem witness_FloatMiscFormsCompute :
    MetLane (.fmiscRint ⟨hn, .f32, .towardZero, 1, 2⟩) [2] [1] ∧ MetLane (.fmiscCopysign ⟨hn, .f32, 1, 2, .reg 3⟩) [2, 3] [1] ∧
    MetLane (.sfuTanh ⟨hn, .nearestEven, 1, 2⟩) [2] [1] :=
  ⟨met_lane _ _ _ (by decide +kernel), met_lane _ _ _ (by decide +kernel), met_lane _ _ _ (by decide +kernel)⟩

theorem witness_ConversionFormsCompute :
    MetLane (.cvtF2i ⟨hn, .s64, .f32, true, .nearestEven, 2, 4⟩) [4] [2, 3] ∧
    MetLane (.cvtPack ⟨hn, .s8p4, .f32, true, .nearestEven, 1, 4⟩) [4, 5, 6, 7] [1] ∧
    MetLane (.cvtUnpack ⟨hn, .s8p4, .f32, false, .nearestEven, 4, 1⟩) [1] [4, 5, 6, 7] :=
  ⟨met_lane _ _ _ (by decide +kernel), met_lane _ _ _ (by decide +kernel), met_lane _ _ _ (by decide +kernel)⟩

theorem witness_LaneExchangeFormsCompute :
    MetLane (.vpermXor ⟨hn, .b32, true, 1, 2, 1, 2, .imm 31, 3⟩) [2, 3] [1] ∧
    MetLane (.reduceMin ⟨hn, .f32, .nearestEven, true, 400, 2⟩) [2] [400] ∧ MetLane (.reduceXor ⟨hn, .b32, 1, 2⟩) [2] [1] ∧
    MetLane (.scanExcl ⟨hn, .s32, .nearestEven, false, 2, 1, 2⟩) [2] [1] :=
  ⟨met_lane _ _ _ (by decide +kernel), met_lane _ _ _ (by decide +kernel), met_lane _ _ _ (by decide +kernel),
    met_lane _ _ _ (by decide +kernel)⟩

theorem witness_VoteAndUmovFormsCompute :
    MetLane (.voteBallot ⟨hn, false, 7, 384⟩) [] [384] ∧ MetLane (.voteAll ⟨hn, true, 0, 7⟩) [] [] ∧
    MetLane (.voteMatch ⟨hn, .b64, 1, 2⟩) [2, 3] [1] ∧ MetLane (.umovFirst ⟨hn, .b64, 510, 2⟩) [2, 3] [510, 511] ∧
    MetLane (.umovLane ⟨hn, .b32, 400, 2, .imm 31, 401⟩) [2, 401] [400] :=
  ⟨met_lane _ _ _ (by decide +kernel), met_lane _ _ _ (by decide +kernel), met_lane _ _ _ (by decide +kernel),
    met_lane _ _ _ (by decide +kernel), met_lane _ _ _ (by decide +kernel)⟩

theorem witness_SreadGivesTheSpecials :
    MetLane (.sread ⟨hn, 388, 9⟩) [] [388, 389] ∧ MetLane (.sread ⟨hn, 4, 0⟩) [] [4] ∧
      who0 = .warp 0 0 ∧ s0.block? 0 = some b0 ∧
    Met (.sread ⟨hn, 388, 9⟩) hn .shared [] [388, 389] none fun _ who _ _ _ => ∃ q, who = .seq q :=
  ⟨met_lane _ _ _ (by decide +kernel), met_lane _ _ _ (by decide +kernel), rfl, by decide +kernel,
    met { s0 with cur := some (.seq ⟨true, false, 3⟩), warps := [(.seq ⟨true, false, 3⟩, { w0 with launched := 1, paths := [{ p0 with mask := 1 }] })] }
      (.seq ⟨true, false, 3⟩) { w0 with launched := 1, paths := [{ p0 with mask := 1 }] } { p0 with mask := 1 }
      (by decide +kernel) ⟨_, rfl⟩⟩

/-! ### Group 0x7_ -/

/-- A warp on one path at `pc` under a join record. -/
def wj (j : JoinRec) (pc : Pc) : Warp := { w0 with joins := [j], paths := [{ p0 with pc := pc, jidx := j.idx }] }

/-- Fifteen join records. -/
def j15 : List JoinRec := (List.range 15).map fun k => ⟨BitVec.ofNat 4 (k + 1), 5, 0, 0, 0⟩

/-- Sixteen further paths, one parked lane each and one of them in the spill area, beside the active path of lanes 16 to 31. -/
def w17 : Warp := { w0 with
  gregs := [(0, 16)], preds := [(1, 0x10000)], vregs := ((List.range 32).filter fun L => 16 < L).map fun L => (32 * 2 + L, BitVec.ofNat 32 (16 * L))
  paths := ⟨0xFFFF0000, 0, 0, false, false⟩ :: (List.range 16).map fun k => ⟨1#32 <<< k, BitVec.ofNat 48 (50 + k), 1, true, k == 0⟩ }

theorem witness_BranchesMoveEachLane :
    Met (.bra ⟨hz, 16⟩) hz .shared [] [] none (fun _ _ _ _ act => act = 0) ∧
    Met (.ret ⟨hz, 384⟩) hz .shared [384, 385] [] none (fun _ _ _ _ act => act = 0) ∧
    (let pre := fun (tgt : Warp → PathEntry → Nat → Nat) (s : State) who (w : Warp) (p : PathEntry) (act : Mask) =>
      act ≠ 0 ∧ (∀ L, act.getLsbD L = true → tgt w p L % 16 = 0 ∧ tgt w p L < 2 ^ 52) ∧
       (s.deep who = true ∨
         (w.paths.filter fun q => !q.spilled).length + (groupTargets (tgt w p) (lanesOf act)).length +
           (if p.mask &&& ~~~act = 0 then 0 else 1) ≤ 17)
    Met (.bra ⟨hn, 0xFFFFFFF0⟩) hn .shared [] [] none
      (pre fun _ p _ => (((p.pc.toNat * 16 : Int) + (0xFFFFFFF0#32).toInt) % 2 ^ 52).toNat) ∧
    Met (.callx ⟨hn, 4, 384⟩) hn .shared [384, 385] [4, 5] none (pre fun w _ L => w.group 2 384 L)) :=
  ⟨met s0 who0 w0 p0 (by decide +kernel) (by decide +kernel), met s0 who0 w0 p0 (by decide +kernel) (by decide +kernel),
    met s0 who0 w0 p0 (by decide +kernel) ⟨by decide +kernel, lanes_all _ (by decide +kernel), .inr (by decide +kernel)⟩,
    met s0 who0 w0 p0 (by decide +kernel) ⟨by decide +kernel, lanes_all _ (by decide +kernel), .inr (by decide +kernel)⟩⟩

/-- A guard that lane 16 of that warp alone passes. -/
abbrev h16 : Hdr := ⟨⟨false, 1⟩, ⟨false, 7⟩, 0, false⟩

theorem witness_BranchesTrapOnBadTargetsOrFullTable :
    Met (.brx ⟨hn, 384⟩) hn .shared [384, 385] [] none (fun _ _ w _ act =>
      ∃ L, act.getLsbD L = true ∧ (w.group 2 384 L % 16 ≠ 0 ∨ 2 ^ 52 ≤ w.group 2 384 L)) ∧
    Met (.ret ⟨hn, 384⟩) hn .shared [384, 385] [] none (fun _ _ w _ act =>
      ∃ L, act.getLsbD L = true ∧ (w.group 2 384 L % 16 ≠ 0 ∨ 2 ^ 52 ≤ w.group 2 384 L)) ∧
    Met (.brx ⟨hn, 2⟩) hn .shared [2, 3] [] none (fun s who w p act => act ≠ 0 ∧ s.deep who = false ∧
      (∀ L, act.getLsbD L = true → w.group 2 2 L % 16 = 0 ∧ w.group 2 2 L < 2 ^ 52) ∧
      17 < (w.paths.filter fun q => !q.spilled).length +
        (groupTargets (fun L => w.group 2 2 L) (lanesOf act)).length + (if p.mask &&& ~~~act = 0 then 0 else 1)) ∧
    (let pre := fun (s : State) (who : Issuer) (w : Warp) (p : PathEntry) (act : Mask) => act ≠ 0 ∧ s.deep who = false ∧
      17 < (w.paths.filter fun q => !q.spilled).length +
        (groupTargets (fun _ => (((p.pc.toNat * 16 : Int) + (64#32).toInt) % 2 ^ 52).toNat) (lanesOf act)).length +
        (if p.mask &&& ~~~act = 0 then 0 else 1)
     Met (.bra ⟨h16, 64⟩) h16 .shared [] [] none pre ∧ Met (.call ⟨h16, 4, 64⟩) h16 .shared [] [4, 5] none pre) :=
  ⟨met (sw { w0 with gregs := [(0, 8)] }) who0 { w0 with gregs := [(0, 8)] } p0 (by decide +kernel) ⟨31, by decide +kernel⟩,
    met (sw { w0 with gregs := [(1, 0x100000)] }) who0 { w0 with gregs := [(1, 0x100000)] } p0 (by decide +kernel)
      ⟨0, by decide +kernel⟩,
    met (sw w17) who0 w17 ⟨0xFFFF0000, 0, 0, false, false⟩ (by decide +kernel)
      ⟨by decide +kernel, by decide +kernel, lanes_all _ (by decide +kernel), by decide +kernel⟩,
    met (sw w17) who0 w17 ⟨0xFFFF0000, 0, 0, false, false⟩ (by decide +kernel) (by decide +kernel),
    met (sw w17) who0 w17 ⟨0xFFFF0000, 0, 0, false, false⟩ (by decide +kernel) (by decide +kernel)⟩

theorem witness_JsetAndJwaitKeepTheJoins :
    Met (.jset ⟨hn, 64⟩) hn .shared [] [] none (fun _ _ w _ _ => w.joins.length < 15) ∧
    Met (.jset ⟨hn, 64⟩) hn .shared [] [] none (fun _ _ w _ _ => 15 ≤ w.joins.length) ∧
    Met (.jwait ⟨hn⟩) hn .shared [] [] none (fun _ _ w p _ =>
      p.jidx ≠ 0 ∧ ∃ r, w.joins.find? (fun j => j.idx == p.jidx) = some r ∧ r.target = p.pc) ∧
    Met (.jwait ⟨hn⟩) hn .shared [] [] none (fun _ _ w p _ =>
      p.jidx = 0 ∨ ∀ r, w.joins.find? (fun j => j.idx == p.jidx) = some r → r.target ≠ p.pc) :=
  ⟨met (sw { w0 with joins := j15.take 14 }) who0 { w0 with joins := j15.take 14 } p0 (by decide +kernel) (by decide +kernel),
    met (sw { w0 with joins := j15 }) who0 { w0 with joins := j15 } p0 (by decide +kernel) (by decide +kernel),
    met (sw (wj ⟨3, 5, 1, 0, 0⟩ 5)) who0 (wj ⟨3, 5, 1, 0, 0⟩ 5) { p0 with pc := 5, jidx := 3 } (by decide +kernel)
      ⟨by decide +kernel, ⟨3, 5, 1, 0, 0⟩, by decide +kernel, by decide +kernel⟩,
    met s0 who0 w0 p0 (by decide +kernel) (.inl rfl)⟩

/-- A warp with an unfinished load. -/
def wld : Warp := { w0 with ops := [⟨.ld, 7, 1⟩] }

theorem witness_ExitRemovesLanesOrTheWarp :
    Met (.exit ⟨⟨⟨false, 1⟩, ⟨false, 7⟩, 0, false⟩⟩) ⟨⟨false, 1⟩, ⟨false, 7⟩, 0, false⟩ .shared [] [] none
      (fun _ _ w _ act => act ≠ 0 ∧ w.live &&& ~~~act ≠ 0) ∧
    Met (.exit ⟨hn⟩) hn .shared [] [] none
      (fun _ _ w _ act => act ≠ 0 ∧ w.live &&& ~~~act = 0 ∧ w.counter .ld = 0 ∧ w.counter .tl = 0) ∧
    Met (.exit ⟨hn⟩) hn .shared [] [] none
      (fun _ _ w _ act => act ≠ 0 ∧ w.live &&& ~~~act = 0 ∧ (w.counter .ld ≠ 0 ∨ w.counter .tl ≠ 0)) ∧
    Met (.exit ⟨hz⟩) hz .shared [] [] none (fun _ _ _ _ act => act = 0) :=
  ⟨met (sw { w0 with preds := [(1, 1)] }) who0 { w0 with preds := [(1, 1)] } p0 (by decide +kernel) (by decide +kernel),
    met s0 who0 w0 p0 (by decide +kernel) (by decide +kernel), met (sw wld) who0 wld p0 (by decide +kernel) (by decide +kernel),
    met s0 who0 w0 p0 (by decide +kernel) (by decide +kernel)⟩

theorem witness_WaitYieldAndNopRetire :
    let within := fun (n : Nat) (l : BitVec 8) => l = 0xFF ∨ n ≤ l.toNat
    Met (.waitc ⟨hn, 0xFF, 0xFF, 0xFF, 1⟩) hn .shared [] [] none (fun _ _ w _ act => act = 0 ∨
      (within (w.counter .tl) 0xFF ∧ within (w.counter .cp) 0xFF ∧ within (w.counter .st) 0xFF ∧ within (w.counter .ld) 1)) ∧
    Met (.waitc ⟨hn, 0xFF, 0xFF, 0xFF, 0⟩) hn .shared [] [] none (fun _ _ w _ act => act ≠ 0 ∧
      ¬ (within (w.counter .tl) 0xFF ∧ within (w.counter .cp) 0xFF ∧ within (w.counter .st) 0xFF ∧ within (w.counter .ld) 0)) ∧
    Met (.yield ⟨hn⟩) hn .shared [] [] none (fun _ _ _ _ _ => True) ∧ Met (.nop ⟨hn⟩) hn .shared [] [] none (fun _ _ _ _ _ => True) :=
  ⟨met (sw wld) who0 wld p0 (by decide +kernel) (.inr (by decide +kernel)),
    met (sw wld) who0 wld p0 (by decide +kernel) (by decide +kernel),
    met s0 who0 w0 p0 (by decide +kernel) trivial, met s0 who0 w0 p0 (by decide +kernel) trivial⟩

/-! ### Traps -/

/-- The block with a trap handler. -/
def bt : Block := { b0 with kd := seedKd ||| (1 : BitVec 2048) <<< 36 }

/-- A warp in its handler. -/
def wf : Warp := { w0 with frozen := some ⟨[1, 2, 3, 4, 5, 6, 7], false, [p0], []⟩ }

theorem witness_TrapEntryFreezesAndDescribes :
    (∃ w b, (sb bt).warp? who0 = some w ∧ (sb bt).block? 0 = some b ∧ w.frozen = none ∧ kdTrapv b.kd = true) ∧
    (∃ w b j, s0.warp? who0 = some w ∧ s0.block? 0 = some b ∧ (w.frozen ≠ none ∨ kdTrapv b.kd = false) ∧ s0.job? b.job = some j ∧
      j.gone = false) ∧
    ∃ w b j, (sw wf).warp? who0 = some w ∧ (sw wf).block? 0 = some b ∧ (w.frozen ≠ none ∨ kdTrapv b.kd = false) ∧
      (sw wf).job? b.job = some j ∧ j.gone = false :=
  ⟨⟨w0, bt, by decide +kernel, by decide +kernel, by decide +kernel, by decide +kernel⟩,
    ⟨w0, b0, seedJob 1, by decide +kernel, by decide +kernel, by decide +kernel, by decide +kernel, by decide +kernel⟩,
    ⟨wf, b0, seedJob 1, by decide +kernel, by decide +kernel, by decide +kernel, by decide +kernel, by decide +kernel⟩⟩

theorem witness_TrapBrkAndEretEnterAndLeaveTheHandler :
    (let pre := fun (s : State) (who : Issuer) (w : Warp) (_ : PathEntry) (act : Mask) =>
      act ≠ 0 ∧ w.frozen = none ∧ ∃ h wid b, who = .warp h wid ∧ s.block? h = some b ∧ kdTrapv b.kd = true
    Met (.trap ⟨hn, 5⟩) hn .shared [] [] none pre ∧ Met (.brk ⟨hn, 5⟩) hn .shared [] [] none pre) ∧
    Met (.trap ⟨hz, 5⟩) hz .shared [] [] none (fun _ _ _ _ act => act = 0) ∧
    Met (.eret ⟨hn⟩) hn .shared [] [] none (fun _ _ w _ _ => ∃ f, w.frozen = some f ∧ f.g.length = 7) ∧
    Met (.eret ⟨hn⟩) hn .shared [] [] none (fun _ _ w _ _ => w.frozen = none) :=
  ⟨⟨met (sb bt) who0 w0 p0 (by decide +kernel) ⟨by decide +kernel, rfl, 0, 0, bt, rfl, by decide +kernel, by decide +kernel⟩,
      met (sb bt) who0 w0 p0 (by decide +kernel) ⟨by decide +kernel, rfl, 0, 0, bt, rfl, by decide +kernel, by decide +kernel⟩⟩,
    met s0 who0 w0 p0 (by decide +kernel) (by decide +kernel),
    met (sw wf) who0 wf p0 (by decide +kernel) ⟨_, rfl, rfl⟩, met s0 who0 w0 p0 (by decide +kernel) rfl⟩

/-- A sequencer, its one-lane warp, and its state with pending lines `m`. -/
abbrev q0 : SeqId := ⟨false, false, 0⟩
abbrev q1 : SeqId := ⟨false, true, 0⟩
def pq : PathEntry := { p0 with mask := 1 }
def wq : Warp := { w0 with launched := 1, paths := [pq] }
def sq (q : SeqId) (w : Warp) : State := { State.reset with cur := some (.seq q), warps := [(.seq q, w)] }

theorem witness_WfiWaitsForALine :
    Met (.wfi ⟨hn⟩) hn .privileged [] [] none (fun s who _ _ act => act = 0 ∨
      ∃ q, who = .seq q ∧ (s.seq q).irqPend &&& (s.seq q).irqMask ≠ 0) ∧
    Met (.wfi ⟨hn⟩) hn .privileged [] [] none (fun s who _ _ act => act ≠ 0 ∧
      ∃ q, who = .seq q ∧ (s.seq q).irqPend &&& (s.seq q).irqMask = 0) :=
  ⟨met { sq q0 wq with seqs := [(q0, ⟨4, 4, 0, 0, false, false, false⟩)] } (.seq q0) wq pq (by decide +kernel)
      (.inr ⟨q0, rfl, by decide +kernel⟩),
    met (sq q0 wq) (.seq q0) wq pq (by decide +kernel) ⟨by decide +kernel, q0, rfl, by decide +kernel⟩⟩
/-! ### Groups 0x8_ and 0x9_ -/

/-- The precondition of `MemoryForm`. -/
def memPre (n : Nat) (bw wr : Bool) (addr : Warp → Nat → Nat) (s : State) (who : Issuer) (w : Warp) (_ : PathEntry) (act : Mask) : Prop :=
  act ≠ 0 ∧ ∀ L, act.getLsbD L = true →
    (bw = true ∨ addr w L % n = 0) ∧ ∀ k, k < n → s.apertureOk (s.agentOf who w) (addr w L + k) = true ∧
      s.boundsOk (s.agentOf who w) (addr w L + k) = true ∧ (wr = true → s.inBarrier (s.agentOf who w) (addr w L + k) = false)

/-- The address of the memory statements. -/
def addr (sp : Bool) (a : Reg) (off : Word) (w : Warp) (L : Nat) : Nat :=
  if sp then 0xF000000000000 + ((w.word a.toNat L).toNat + off.toNat) % 2 ^ 32
  else (((w.group 2 a.toNat L : Int) + off.toInt) % 2 ^ 64).toNat

/-- Scope, semantics, SP, hint, address register and displacement of an access. -/
abbrev mx (sp : Bool) (off : Word) : Sys2Proof.Acc := ⟨.none, 0, sp, .stream, 384, off⟩

theorem witness_MemoryFormsEnterThePipeline :
    Met (.ld ⟨hn, .b32, mx true 0xFFFC, false, 4⟩) hn .shared [384] [4] (some .ld) (memPre 4 false false (addr true 384 0xFFFC)) ∧
    Met (.ld ⟨hn, .s16, mx false 3, true, 4⟩) hn .shared [384, 385] [4] (some .ld) (memPre 2 true false (addr false 384 3)) ∧
    Met (.st ⟨hn, .b32, mx true 128, false, 4⟩) hn .shared [384, 4] [] (some .st) (memPre 4 false true (addr true 384 128)) ∧
    Met (.atomCas ⟨hn, .b32, mx false 64, 4, 5, 6⟩) hn .shared [384, 385, 5, 6] [4] (some .ld) (memPre 4 false true (addr false 384 64)) ∧
    Met (.redAdd ⟨hn, .s32, mx false 64, 5⟩) hn .shared [384, 385, 5] [] (some .st) (memPre 4 false true (addr false 384 64)) ∧
    Met (.cctlWbmsc ⟨hn, false, false, 384, 64⟩) hn .shared [384, 385] [] (some .st) (memPre 1 true false (addr false 384 64)) ∧
    Met (.cctlInvl1 ⟨hn, true, false, 0, 0⟩) hn .shared [] [] (some .st) (fun _ _ _ _ act => act ≠ 0) :=
  ⟨met s0 who0 w0 p0 (by decide +kernel) ⟨by decide +kernel, lanes_all _ (by decide +kernel)⟩,
    met s0 who0 w0 p0 (by decide +kernel) ⟨by decide +kernel, lanes_all _ (by decide +kernel)⟩,
    met s0 who0 w0 p0 (by decide +kernel) ⟨by decide +kernel, lanes_all _ (by decide +kernel)⟩,
    met s0 who0 w0 p0 (by decide +kernel) ⟨by decide +kernel, lanes_all _ (by decide +kernel)⟩,
    met s0 who0 w0 p0 (by decide +kernel) ⟨by decide +kernel, lanes_all _ (by decide +kernel)⟩,
    met s0 who0 w0 p0 (by decide +kernel) ⟨by decide +kernel, lanes_all _ (by decide +kernel)⟩,
    met s0 who0 w0 p0 (by decide +kernel) (by decide +kernel)⟩

/-- The precondition of the statement of the issue checks. -/
def chkPre (n : Nat) (bw wr sp : Bool) (a : Reg) (off : Word) (s : State) (who : Issuer) (w : Warp) (_ : PathEntry) (act : Mask) : Prop :=
  ∃ L, act.getLsbD L = true ∧ ((bw = false ∧ w.addr sp a off L % n ≠ 0) ∨ ∃ k, k < n ∧
    (s.apertureOk (s.agentOf who w) (w.addr sp a off L + k) = false ∨
     s.boundsOk (s.agentOf who w) (w.addr sp a off L + k) = false ∨
     (wr = true ∧ s.inBarrier (s.agentOf who w) (w.addr sp a off L + k) = true)))

theorem witness_IssueChecksTrapInOrder :
    Met (.ld ⟨hn, .b32, mx false 2, false, 4⟩) hn .shared [384, 385] [4] (some .ld) (chkPre 4 false false false 384 2) ∧
    Met (.st ⟨hn, .b32, mx true 124, false, 4⟩) hn .shared [384, 4] [] (some .st) (chkPre 4 false true true 384 124) ∧
    Met (.atomAdd ⟨hn, .s32, mx true 0x10000, 4, 5, 0⟩) hn .shared [384, 5] [4] (some .ld) (chkPre 4 false true true 384 0x10000) ∧
    Met (.redAdd ⟨hn, .s32, ⟨.none, 0, false, .stream, 384, 0⟩, 5⟩) hn .shared [384, 385, 5] [] (some .st) (chkPre 4 false true false 384 0) ∧
    Met (.atomCas ⟨hn, .b64, mx true 4, 4, 6, 8⟩) hn .shared [384, 6, 7, 8, 9] [4, 5] (some .ld) (chkPre 8 false true true 384 4) ∧
    Met (.redXor ⟨hn, .b32, mx true 112, 5⟩) hn .shared [384, 5] [] (some .st) (chkPre 4 false true true 384 112) ∧
    Met (.prefMsc ⟨hn, .stream, true, 384, 0x10000⟩) hn .shared [384] [] none (chkPre 1 true false true 384 0x10000) ∧
    Met (.cctlInvl1 ⟨hn, false, true, 384, 0x10000⟩) hn .shared [384] [] (some .st) (chkPre 1 true false true 384 0x10000) :=
  ⟨met s0 who0 w0 p0 (by decide +kernel) ⟨0, by decide +kernel, .inl (by decide +kernel)⟩,
    met s0 who0 w0 p0 (by decide +kernel) ⟨31, by decide +kernel, .inr ⟨3, by decide +kernel, .inr (.inr (by decide +kernel))⟩⟩,
    met s0 who0 w0 p0 (by decide +kernel) ⟨31, by decide +kernel, .inr ⟨0, by decide +kernel, .inr (.inl (by decide +kernel))⟩⟩,
    met (sw { w0 with gregs := [(1, 0x100000)] }) who0 { w0 with gregs := [(1, 0x100000)] } p0 (by decide +kernel)
      ⟨31, by decide +kernel, .inr ⟨0, by decide +kernel, .inl (by decide +kernel)⟩⟩,
    met s0 who0 w0 p0 (by decide +kernel) ⟨0, by decide +kernel, .inl (by decide +kernel)⟩,
    met s0 who0 w0 p0 (by decide +kernel) ⟨0, by decide +kernel, .inr ⟨0, by decide +kernel, .inr (.inr (by decide +kernel))⟩⟩,
    met s0 who0 w0 p0 (by decide +kernel) ⟨0, by decide +kernel, .inr ⟨0, by decide +kernel, .inr (.inl (by decide +kernel))⟩⟩,
    met s0 who0 w0 p0 (by decide +kernel) ⟨0, by decide +kernel, .inr ⟨0, by decide +kernel, .inr (.inl (by decide +kernel))⟩⟩⟩

/-- An unfinished access `i` of lane 3, of four bytes at `a`. -/
def ac (i : Nat) (op : AccOp) (a data : Nat) : Machine.Acc :=
  ⟨i, who0, op, .b32, 4, false, .none, 0, .stream, 0, 4, false, [], 0, 0, [], 0, 8, [⟨3, a, data, 0, false⟩]⟩

/-- The seeded state with it. -/
def sa (op : AccOp) (a data : Nat) : State := { s0 with accs := [ac 7 op a data] }

theorem witness_FenceAndPrefetchChangeNoValue :
    Met (.prefL1 ⟨hn, .stream, false, 384, 64⟩) hn .shared [384, 385] [] none (fun s who w _ act => ∀ L, act.getLsbD L = true →
      s.apertureOk (s.agentOf who w) (w.addr false 384 64 L) = true ∧ s.boundsOk (s.agentOf who w) (w.addr false 384 64 L) = true) ∧
    Met (.fence ⟨hn, .die, 3⟩) hn .shared [] [] none (fun s who _ _ act => act ≠ 0 ∧ ∃ a ∈ s.accs, a.who = who ∧ a.id < s.nextId) :=
  ⟨met s0 who0 w0 p0 (by decide +kernel) (lanes_all _ (by decide +kernel)),
    met { sa .st 64 5 with nextId := 8 } who0 w0 p0 (by decide +kernel)
      ⟨by decide +kernel, ac 7 .st 64 5, by decide +kernel, by decide +kernel, by decide +kernel⟩⟩

/-- The hypotheses on one unfinished access. -/
def accOk (s : State) (a : Machine.Acc) (l : LaneAcc) : Prop :=
  s.acc? 7 = some a ∧ a.lanes = [l] ∧ a.part = [] ∧ l.lane < 32 ∧ (8 : Mask).getLsbD l.lane = true ∧ l.req = false ∧ s.parks = [] ∧
  s.mayPerform a l = true ∧ l.addr % 65536 + a.size ≤ 65536 ∧ s.warp? a.who = some w0 ∧ a.dreg + a.ty.regs ≤ 384

theorem witness_LocalAccessesPerform :
    (let s := sa .st 0xF00000000FFFC 5
     accOk s (ac 7 .st 0xF00000000FFFC 5) ⟨3, 0xF00000000FFFC, 5, 0, false⟩ ∧ isLocal 0xF00000000FFFC = true) ∧
    (let s := sa .ld 0xF000000000000 0
     accOk s (ac 7 .ld 0xF000000000000 0) ⟨3, 0xF000000000000, 0, 0, false⟩ ∧ isLocal 0xF000000000000 = true ∧ s.bad = []) ∧
    ∀ f, ∀ op, op = .atom f ∨ op = .red f → (let s := sa op 0xF000000000080 1
      accOk s (ac 7 op 0xF000000000080 1) ⟨3, 0xF000000000080, 1, 0, false⟩ ∧ isLocal 0xF000000000080 = true ∧ s.bad = []) := by
  refine ⟨⟨⟨?_, ?_, ?_, ?_, ?_, ?_, ?_, ?_, ?_, ?_, ?_⟩, ?_⟩, ⟨⟨?_, ?_, ?_, ?_, ?_, ?_, ?_, ?_, ?_, ?_, ?_⟩, ?_, ?_⟩, fun f op h => ?last⟩
  case last => obtain rfl | rfl := h <;> cases f <;> refine ⟨⟨?_, ?_, ?_, ?_, ?_, ?_, ?_, ?_, ?_, ?_, ?_⟩, ?_, ?_⟩ <;> decide +kernel
  all_goals decide +kernel

/-- A remote write of the access, its result kept at the home, and a request outstanding at the host. -/
def rem0 : Remote := ⟨false, 5, 7, 3, 0, 0, true, false, 64, [0, 1, 2, 3], none, []⟩
def kep0 : Kept := ⟨true, false, 5, 0, 0⟩
def hrq0 : HostReq := ⟨false, 0, 2 ^ 43, 4, 0, false, 7, 3, 0⟩
def later (s : State) (t : Nat) : State := { s with dieA := { s.dieA with dtime := t }, dieB := { s.dieB with dtime := t } }

theorem witness_PagedRemoteAndHostAccesses :
    (∀ op, op = .st ∨ op = .ld →
      let s := sa op 0xFFFC 5
      let a := ac 7 op 0xFFFC 5
      let g := s.accAgent a
      accOk s a ⟨3, 0xFFFC, 5, 0, false⟩ ∧ isLocal 0xFFFC = false ∧ ∃ u x, s.translate g 0xFFFC a.op.perm = (u, some x) ∧ x.dup = false ∧
        homeOf x.pa = some g.die ∧ s.absent g.die = false ∧ s.poison = [] ∧ (s.gatePa g.tenant (s.walkPas g 0xFFFC)).2 = false ∧ u.gatePa g.tenant (lineStarts x.pa a.size) = (u, false)) ∧
    (∀ op, op = .st ∨ op = .ld →
      let s := sa op 0x10000 5
      let a := ac 7 op 0x10000 5
      let g := s.accAgent a
      accOk s a ⟨3, 0x10000, 5, 0, false⟩ ∧ a.op.isData = true ∧ isLocal 0x10000 = false ∧
        (s.translate g 0x10000 a.op.perm).2 = none ∧ s.terr g.die g.tenant = 0) ∧
    (let s : State := { sa .st 64 5 with remotes := [rem0], kept := [kep0] }
     s.remotes.find? (fun q => q.die == false && q.tag == 5) = some rem0 ∧
     s.kept.find? (fun q => q.die == false && q.tag == 5) = some kep0 ∧ s.acc? rem0.acc = some (ac 7 .st 64 5) ∧
     rem0.cmd = none ∧ rem0.offs.length = (ac 7 .st 64 5).size) ∧
    (let s : State := later { sa .st 64 5 with remotes := [rem0] } 99999
     s.remotes.find? (fun q => q.die == false && q.tag == 5) = some rem0 ∧ (s.die false).dtime < rem0.sent + 100000) ∧
    (let s : State := later { sa .st 64 5 with remotes := [rem0] } 100000
     rem0.sent + 100000 ≤ (s.die false).dtime ∧ rem0.resends < 5) ∧
    (let s : State := later { sa .st 64 5 with remotes := [{ rem0 with resends := 5 }], kept := [kep0] } 1000001
     s.remotes.find? (fun q => q.die == false && q.tag == 5) = some { rem0 with resends := 5 } ∧ rem0.duplex = false ∧
     rem0.cmd = none ∧ s.acc? rem0.acc = some (ac 7 .st 64 5) ∧ s.block? 0 = some b0 ∧ s.job? b0.job = some (seedJob 1) ∧
     (seedJob 1).gone = false ∧ kep0.time + 1000000 < (s.die kep0.home).dtime) ∧
    ((sa .ld 64 5).acc? 7 = some (ac 7 .ld 64 5) ∧ (sa .ld 64 5).hostOut = []) ∧
    (let s : State := { sa .ld 64 5 with hostOut := [hrq0] }
     s.acc? 7 = some (ac 7 .ld 64 5) ∧ s.hostOut.find? (fun h => h.acc == 7 && h.lane == 3 && h.kind != 1) = some hrq0 ∧
     hrq0.size = (ac 7 .ld 64 5).size ∧ s.warp? who0 = some w0) := by
  refine ⟨fun op h => ?_, fun op h => ?_, ?_, ?_, ?_, ?_, ?_, ?_⟩
  · obtain rfl | rfl := h
    · refine ⟨⟨?_, ?_, ?_, ?_, ?_, ?_, ?_, ?_, ?_, ?_, ?_⟩, ?_, _, _, rfl, ?_, ?_, ?_, ?_, ?_, ?_⟩ <;> decide +kernel
    · refine ⟨⟨?_, ?_, ?_, ?_, ?_, ?_, ?_, ?_, ?_, ?_, ?_⟩, ?_, _, _, rfl, ?_, ?_, ?_, ?_, ?_, ?_⟩ <;> decide +kernel
  · obtain rfl | rfl := h <;> refine ⟨⟨?_, ?_, ?_, ?_, ?_, ?_, ?_, ?_, ?_, ?_, ?_⟩, ?_, ?_, ?_, ?_⟩ <;> decide +kernel
  all_goals decide +kernel
/-! ### Group 0xA_ -/

/-- The precondition of the barrier statements on the object `i` at span position `sp`. -/
def barAt (s : State) (who : Issuer) (act : Mask) (i sp : Nat) (o : Barrier) : Prop := act ≠ 0 ∧ ∃ h wid b,
  who = .warp h wid ∧ s.block? h = some b ∧ i < kdBarriers b.kd ∧ sp < kdSpan b.kd ∧
  s.badIn (barrierKey h sp i) 16 = false ∧ s.barrier h sp i = o

/-- The seeded state with the barrier object 7. -/
def so (o : Barrier) : State := s0.store (barrierKey 0 0 7) (toBytes 16 o.toNat)

/-- `barAt` of an object of that state. -/
theorem barAt_so (o : Barrier) (act : Mask) (ha : act ≠ 0) (h : (so o).barrier 0 0 7 = o) (hb : (so o).block? 0 = some b0) :
    barAt (so o) who0 act 7 0 o :=
  ⟨ha, 0, 0, b0, rfl, hb, by decide +kernel, by decide +kernel, by simp [so, State.badIn, State.store, s0, State.seed, State.reset], h⟩

/-- The warp's earlier accesses that come before the form on object 7 are performed. -/
abbrev barClear (s : State) (who : Issuer) (w : Warp) (act : Mask) : Prop := s.formClear who w act (barrierVa 0 7) 16 = true

/-- The warp in a begun wait on object 7, which has seen `out`, and a state with it. -/
def wb (out : Option Bool) : Warp := { w0 with hold := .barWait (barrierKey 0 0 7) false out }
def sob (o : Barrier) (out : Option Bool) : State := (so o).setWarp who0 (wb out)

theorem barAt_sob (o : Barrier) (out : Option Bool) (act : Mask) (ha : act ≠ 0) (h : (sob o out).barrier 0 0 7 = o)
    (hb : (sob o out).block? 0 = some b0) : barAt (sob o out) who0 act 7 0 o :=
  ⟨ha, 0, 0, b0, rfl, hb, by decide +kernel, by decide +kernel,
    by simp [sob, so, State.setWarp, State.badIn, State.store, s0, State.seed, State.reset], h⟩

theorem witness_BarrierFormsActOnTheObject :
    (let bounds := fun (i : Instr) rd => Met i hn .shared rd [] none (fun s who _ _ act => act ≠ 0 ∧ ∃ blk wid b, who = .warp blk wid ∧
       s.block? blk = some b ∧ kdBarriers b.kd ≤ 8)
     bounds (.barInit ⟨hn, true, .bidx 8, .reg 0, 0⟩) [] ∧ bounds (.barExpect ⟨hn, true, 0, .bidx 8, .imm 0⟩) [] ∧
     bounds (.barArrive ⟨hn, false, 0, .bidx 8⟩) [] ∧ bounds (.barWait ⟨hn, .bidx 8, .imm 0⟩) []) ∧
    Met (.barArrive ⟨hn, true, 1, .bidx 7⟩) hn .shared [] [] none (fun s who _ _ act => act ≠ 0 ∧ ∃ blk wid b, who = .warp blk wid ∧
      s.block? blk = some b ∧ 7 < kdBarriers b.kd ∧ kdSpan b.kd ≤ 1) ∧
    Met (.barWait ⟨hn, .bidx 7, .imm 0⟩) hn .shared [] [] none (fun _ who _ _ act => act ≠ 0 ∧ ∃ q, who = .seq q) ∧
    ((⟨true, false, 2, 2, 0, 0, 0⟩ : Barrier).expt ≠ 0 ∧ (⟨false, false, 2, 2, 0, 0, 0⟩ : Barrier).armed = false) ∧
    (let form := fun pre => Met (.barInit ⟨hn, true, .bidx 7, .reg 0, 0⟩) hn .shared [] [] none pre
     form (fun s who w _ act => barClear s who w act ∧ ∃ o, barAt s who act 7 w.spos o)) ∧
    (let bad := fun (t c : Nat) => 32768 < t ∨ 2 ^ 24 ≤ c ∨ (t = 0 ∧ c = 0)
     Met (.barInit ⟨hn, false, .bidx 7, .imm 32768, 384⟩) hn .shared [384] [] none (fun s who w _ act =>
       ¬ bad (w.srcB32 (.imm 32768) 0) (w.word 384 0).toNat ∧ barClear s who w act ∧ s.early = [] ∧ (∀ b ∈ s.blocks, b.overflow = []) ∧
       ∃ o, o.armed = false ∧ barAt s who act 7 w.spos o) ∧
     Met (.barInit ⟨hn, false, .bidx 7, .imm 1, 384⟩) hn .shared [384] [] none (fun s who w _ act =>
       ∃ o, o.armed = true ∧ barAt s who act 7 w.spos o) ∧
     Met (.barInit ⟨hn, false, .bidx 7, .imm 32769, 384⟩) hn .shared [384] [] none (fun s who w _ act =>
       bad (w.srcB32 (.imm 32769) 0) (w.word 384 0).toNat ∧ ∃ o, o.armed = false ∧ barAt s who act 7 w.spos o)) ∧
    (let form := fun (n : Word) pre => Met (.barExpect ⟨hn, true, 0, .bidx 7, .imm n⟩) hn .shared [] [] none pre
     form 0xFFFFFFFF (fun s who w _ act => barClear s who w act ∧ ∃ o, o.armed = true ∧ o.expb + w.srcB32 (.imm 0xFFFFFFFF) 0 < 2 ^ 32 ∧ barAt s who act 7 0 o) ∧
     form 0xFFFFFFFF (fun s who w _ act => ∃ o, o.armed = true ∧ 2 ^ 32 ≤ o.expb + w.srcB32 (.imm 0xFFFFFFFF) 0 ∧ barAt s who act 7 0 o) ∧
     form 1 (fun s who _ _ act => ∃ o, o.armed = false ∧ barAt s who act 7 0 o)) ∧
    (let n := fun (act : Mask) => ((List.range 32).filter fun L => act.getLsbD L).length
     let form := fun pre => Met (.barArrive ⟨hn, false, 0, .bidx 7⟩) hn .shared [] [] none pre
     form (fun s who w _ act => s.quiet who act = true ∧ ∃ o, o.armed = true ∧ o.arrt + n act ≤ 65535 ∧ barAt s who act 7 w.spos o) ∧
     form (fun s who w _ act => ∃ o, o.armed = true ∧ 65535 < o.arrt + n act ∧ barAt s who act 7 w.spos o) ∧
     form (fun s who w _ act => ∃ o, o.armed = false ∧ barAt s who act 7 w.spos o)) ∧
    (let form := fun pre => Met (.barWait ⟨hn, .bidx 7, .imm 0⟩) hn .shared [] [] none pre
     let bit := fun (w : Warp) => bitAt (w.srcB32 (.imm 0) 0) 0
     let key := barrierKey 0 0 7
     form (fun s who w _ act => barClear s who w act ∧ ∃ o, barAt s who act 7 w.spos o ∧ w.hold = .none ∧ o.armed = true ∧ o.phase ≠ bit w) ∧
     form (fun s who w _ act => barClear s who w act ∧ ∃ o, barAt s who act 7 w.spos o ∧ w.hold = .barWait key (bit w) (some true)) ∧
     form (fun s who w _ act => ∃ o, o.armed = true ∧ o.phase = bit w ∧ barAt s who act 7 w.spos o ∧ w.hold = .none) ∧
     form (fun s who w _ act => ∃ o, o.armed = true ∧ o.phase = bit w ∧ barAt s who act 7 w.spos o ∧ w.hold = .barWait key (bit w) none) ∧
     form (fun s who w _ act => w.hold = .none ∧ ∃ o, o.armed = false ∧ barAt s who act 7 w.spos o) ∧
     form (fun s who w _ act => ∃ o, barAt s who act 7 w.spos o ∧ w.hold = .barWait key (bit w) (some false))) := by
  have z : ∀ act : Mask, act ≠ 0 → barAt (so ⟨false, false, 0, 0, 0, 0, 0⟩) who0 act 7 0 ⟨false, false, 0, 0, 0, 0, 0⟩ :=
    fun act h => barAt_so _ act h (by decide +kernel) (by decide +kernel)
  have a : ∀ act : Mask, act ≠ 0 → barAt (so ⟨true, false, 0, 8, 0, 0, 0⟩) who0 act 7 0 ⟨true, false, 0, 8, 0, 0, 0⟩ :=
    fun act h => barAt_so _ act h (by decide +kernel) (by decide +kernel)
  have b : ∀ act : Mask, act ≠ 0 → barAt (so ⟨true, true, 0, 8, 0, 1, 0⟩) who0 act 7 0 ⟨true, true, 0, 8, 0, 1, 0⟩ :=
    fun act h => barAt_so _ act h (by decide +kernel) (by decide +kernel)
  have c : ∀ act : Mask, act ≠ 0 → barAt (so ⟨true, true, 65504, 8, 0, 1, 2⟩) who0 act 7 0 ⟨true, true, 65504, 8, 0, 1, 2⟩ :=
    fun act h => barAt_so _ act h (by decide +kernel) (by decide +kernel)
  have d : ∀ act : Mask, act ≠ 0 → barAt (so ⟨true, true, 65503, 8, 0, 1, 2⟩) who0 act 7 0 ⟨true, true, 65503, 8, 0, 1, 2⟩ :=
    fun act h => barAt_so _ act h (by decide +kernel) (by decide +kernel)
  have e : ∀ (out : Option Bool) (act : Mask), act ≠ 0 →
      barAt (sob ⟨true, false, 0, 8, 0, 0, 0⟩ out) who0 act 7 0 ⟨true, false, 0, 8, 0, 0, 0⟩ :=
    fun out act h => barAt_sob _ out act h (by rcases out with _ | _ | _ <;> decide +kernel) (by rcases out with _ | _ | _ <;> decide +kernel)
  refine ⟨⟨?_, ?_, ?_, ?_⟩, ?_, ?_, by decide, ?_, ⟨?_, ?_, ?_⟩, ⟨?_, ?_, ?_⟩, ⟨?_, ?_, ?_⟩, ?_, ?_, ?_, ?_, ?_, ?_⟩
  · exact met s0 who0 w0 p0 (by decide +kernel) ⟨by decide +kernel, 0, 0, b0, rfl, by decide +kernel, by decide +kernel⟩
  · exact met s0 who0 w0 p0 (by decide +kernel) ⟨by decide +kernel, 0, 0, b0, rfl, by decide +kernel, by decide +kernel⟩
  · exact met s0 who0 w0 p0 (by decide +kernel) ⟨by decide +kernel, 0, 0, b0, rfl, by decide +kernel, by decide +kernel⟩
  · exact met s0 who0 w0 p0 (by decide +kernel) ⟨by decide +kernel, 0, 0, b0, rfl, by decide +kernel, by decide +kernel⟩
  · exact met s0 who0 w0 p0 (by decide +kernel) ⟨by decide +kernel, 0, 0, b0, rfl, by decide +kernel, by decide +kernel, by decide +kernel⟩
  · exact met (sq q0 wq) (.seq q0) wq pq (by decide +kernel) ⟨by decide +kernel, q0, rfl⟩
  · exact met (so _) who0 w0 p0 (by decide +kernel) ⟨by decide +kernel, _, z _ (by decide +kernel)⟩
  · exact met (so _) who0 w0 p0 (by decide +kernel) ⟨by decide +kernel, by decide +kernel, by decide +kernel, by decide +kernel, _, rfl, z _ (by decide +kernel)⟩
  · exact met (so _) who0 w0 p0 (by decide +kernel) ⟨_, rfl, a _ (by decide +kernel)⟩
  · exact met (so _) who0 w0 p0 (by decide +kernel) ⟨by decide +kernel, _, rfl, z _ (by decide +kernel)⟩
  · exact met (so _) who0 w0 p0 (by decide +kernel) ⟨by decide +kernel, _, rfl, by decide +kernel, a _ (by decide +kernel)⟩
  · exact met (so _) who0 w0 p0 (by decide +kernel) ⟨_, rfl, by decide +kernel, b _ (by decide +kernel)⟩
  · exact met (so _) who0 w0 p0 (by decide +kernel) ⟨_, rfl, z _ (by decide +kernel)⟩
  · exact met (so _) who0 w0 p0 (by decide +kernel) ⟨by decide +kernel, _, rfl, by decide +kernel, d _ (by decide +kernel)⟩
  · exact met (so _) who0 w0 p0 (by decide +kernel) ⟨_, rfl, by decide +kernel, c _ (by decide +kernel)⟩
  · exact met (so _) who0 w0 p0 (by decide +kernel) ⟨_, rfl, z _ (by decide +kernel)⟩
  · exact met (so _) who0 w0 p0 (by decide +kernel) ⟨by decide +kernel, _, b _ (by decide +kernel), rfl, rfl, by decide +kernel⟩
  · exact met (sob _ (some true)) who0 (wb (some true)) p0 (by decide +kernel) ⟨by decide +kernel, _, e _ _ (by decide +kernel), by decide +kernel⟩
  · exact met (so _) who0 w0 p0 (by decide +kernel) ⟨_, rfl, by decide +kernel, a _ (by decide +kernel), rfl⟩
  · exact met (sob _ none) who0 (wb none) p0 (by decide +kernel) ⟨_, rfl, by decide +kernel, e _ _ (by decide +kernel), by decide +kernel⟩
  · exact met (so _) who0 w0 p0 (by decide +kernel) ⟨rfl, _, rfl, z _ (by decide +kernel)⟩
  · exact met (sob _ (some false)) who0 (wb (some false)) p0 (by decide +kernel) ⟨_, e _ _ (by decide +kernel), by decide +kernel⟩
/-- The descriptor of a ring of four granules with its counters, placed at virtual address 0. -/
def rg (claim commit head retire : Nat) : Ring := ⟨0x1000, 2, 0, claim, commit, head, retire, 0, false⟩
def sr (r : Ring) : State := sm (toBytes 8 r.base ++ toBytes 8 (r.log2cap + r.scope * 256) ++ r.counters ++ toBytes 16 0)

/-- The precondition of the ring statements, for a descriptor at address 0 in g0 and g1. -/
def ringPre (s u : State) (who : Issuer) (w : Warp) (act : Mask) (n : Nat) (r : Ring) : Prop :=
  act ≠ 0 ∧ s.issueCheck (s.agentOf who w) act 64 false false (fun _ => w.group 2 384 0) = none ∧
  s.formClear who w act (w.group 2 384 0) 64 = true ∧ (s.gate (s.agentOf who w) (w.group 2 384 0) true).2 = false ∧
  s.ringAt (s.agentOf who w) (w.group 2 384 0) = (u, .ok r) ∧ r.fault n = none ∧ s.cutOff who = false

/-- The same for a descriptor that fails a check of R201, of a job that has not left. -/
def ringBad (s : State) (who : Issuer) (w : Warp) (act : Mask) (n : Nat) : Prop :=
  ∃ u r h wid b j, (act ≠ 0 ∧ s.issueCheck (s.agentOf who w) act 64 false false (fun _ => w.group 2 384 0) = none ∧
    s.formClear who w act (w.group 2 384 0) 64 = true ∧ (s.gate (s.agentOf who w) (w.group 2 384 0) true).2 = false ∧
    s.ringAt (s.agentOf who w) (w.group 2 384 0) = (u, .ok r)) ∧ r.fault n ≠ none ∧ who = .warp h wid ∧
    s.block? h = some b ∧ s.job? b.job = some j ∧ j.gone = false
def wrote (u x : State) (s : State) (who : Issuer) (w : Warp) (act : Mask) (rel : Bool) (r : Ring) : Prop :=
  u.putRing (s.agentOf who w) (w.group 2 384 0) r ((rel && r.scope == 3) || w.sysRel &&& act != 0) = (x, .ok ())
def marksAt (u s : State) (who : Issuer) (w : Warp) : RingMarks := u.marks (u.ringKey (s.agentOf who w) (w.group 2 384 0))

/-- The state after reading the ring. -/
def rdRing (r : Ring) : State := ((sr r).ringAt ((sr r).agentOf who0 w0) 0).1

/-- A descriptor whose COMMIT stands past its CLAIM fails R201. -/
theorem ringBad_of (act : Mask) (n : Nat) (ha : act = BitVec.allOnes 32) (hn : (rg 0 1 0 0).fault n ≠ none) :
    ringBad (sr (rg 0 1 0 0)) who0 w0 act n := by
  subst ha
  exact ⟨rdRing (rg 0 1 0 0), rg 0 1 0 0, 0, 0, b0, seedJob 1, ⟨by decide +kernel, by decide +kernel, by decide +kernel, by decide +kernel, rfl⟩,
        hn, rfl, by decide +kernel, by decide +kernel, by decide +kernel⟩

theorem witness_RingFormsMoveTheCounters :
    (let i := Instr.qclaim ⟨hn, 2, 4, 384, .imm 4⟩
     Met i hn .shared [384, 385] [4, 5] none (fun s who w _ act => ∃ u r y, ringPre s u who w act (w.srcB32 (.imm 4) 0) r ∧
       r.claim + w.srcB32 (.imm 4) 0 - r.retire ≤ r.cap ∧ wrote u y s who w act false { r with claim := r.claim + w.srcB32 (.imm 4) 0 }) ∧
     Met i hn .shared [384, 385] [4, 5] none (fun s who w _ act => ∃ u r, ringPre s u who w act (w.srcB32 (.imm 4) 0) r ∧
       r.cap < r.claim + w.srcB32 (.imm 4) 0 - r.retire) ∧
     Met i hn .shared [384, 385] [4, 5] none (fun s who w _ act => ringBad s who w act (w.srcB32 (.imm 4) 0))) ∧
    (let i := Instr.qawait ⟨hn, 4, 384, .imm 2⟩
     Met i hn .shared [384, 385] [4, 5] none (fun s who w _ act => ∃ u r y, ringPre s u who w act (w.srcB32 (.imm 2) 0) r ∧
       w.srcB32 (.imm 2) 0 ≠ 0 ∧ w.srcB32 (.imm 2) 0 ≤ r.commit - r.head ∧ (marksAt u s who w).waiters.headD who = who ∧
       wrote u y s who w act false { r with head := r.head + w.srcB32 (.imm 2) 0 }) ∧
     Met i hn .shared [384, 385] [4, 5] none (fun s who w _ act => ∃ u r, ringPre s u who w act (w.srcB32 (.imm 2) 0) r ∧
       w.srcB32 (.imm 2) 0 ≠ 0 ∧ r.commit - r.head < w.srcB32 (.imm 2) 0) ∧
     Met i hn .shared [384, 385] [4, 5] none (fun s who w _ act => ringBad s who w act (w.srcB32 (.imm 2) 0))) ∧
    (let bad := fun (s : State) (who : Issuer) (w : Warp) (_ : PathEntry) (act : Mask) =>
       s.quiet who act = true ∧ w.srcB32 (.imm 2) 0 ≠ 0 ∧ ringBad s who w act (w.srcB32 (.imm 2) 0)
     Met (.qcommit ⟨hn, 384, .imm 2, 386⟩) hn .shared [384, 385, 386, 387] [] none bad ∧
     Met (.qretire ⟨hn, 384, .imm 2, 386⟩) hn .shared [384, 385, 386, 387] [] none bad) ∧
    Met (.qcommit ⟨hn, 384, .imm 2, 386⟩) hn .shared [384, 385, 386, 387] [] none (fun s who w _ act => s.quiet who act = true ∧
      ∃ u r y, ringPre s u who w act (w.srcB32 (.imm 2) 0) r ∧ w.srcB32 (.imm 2) 0 ≠ 0 ∧ r.commit ≤ w.group 2 386 0 ∧
        w.group 2 386 0 + w.srcB32 (.imm 2) 0 ≤ r.claim ∧
        (∀ p ∈ (marksAt u s who w).commits, p < w.group 2 386 0 ∨ w.group 2 386 0 + w.srcB32 (.imm 2) 0 ≤ p) ∧
        wrote u y s who w act true (commitMarks r (marksAt u s who w) (rangeFrom (w.group 2 386 0) (w.srcB32 (.imm 2) 0))).1) ∧
    Met (.qretire ⟨hn, 384, .imm 2, 386⟩) hn .shared [384, 385, 386, 387] [] none (fun s who w _ act => s.quiet who act = true ∧
      ∃ u r y, ringPre s u who w act (w.srcB32 (.imm 2) 0) r ∧ w.srcB32 (.imm 2) 0 ≠ 0 ∧ r.retire ≤ w.group 2 386 0 ∧
        w.group 2 386 0 + w.srcB32 (.imm 2) 0 ≤ r.head ∧
        (∀ p ∈ (marksAt u s who w).retires, p < w.group 2 386 0 ∨ w.group 2 386 0 + w.srcB32 (.imm 2) 0 ≤ p) ∧
        wrote u y s who w act true (retireMarks r (marksAt u s who w) (rangeFrom (w.group 2 386 0) (w.srcB32 (.imm 2) 0))).1) :=
  ⟨⟨met (sr (rg 0 0 0 0)) who0 w0 p0 (by decide +kernel)
      ⟨rdRing (rg 0 0 0 0), rg 0 0 0 0, _, ⟨by decide +kernel, by decide +kernel, by decide +kernel, by decide +kernel, rfl, by decide +kernel⟩, by decide +kernel, rfl⟩,
    met (sr (rg 1 0 0 0)) who0 w0 p0 (by decide +kernel)
      ⟨rdRing (rg 1 0 0 0), rg 1 0 0 0, ⟨by decide +kernel, by decide +kernel, by decide +kernel, by decide +kernel, rfl, by decide +kernel⟩, by decide +kernel⟩,
    met (sr (rg 0 1 0 0)) who0 w0 p0 (by decide +kernel) (ringBad_of _ _ (by decide +kernel) (by decide +kernel))⟩,
   ⟨met (sr (rg 2 2 0 0)) who0 w0 p0 (by decide +kernel)
      ⟨rdRing (rg 2 2 0 0), rg 2 2 0 0, _, ⟨by decide +kernel, by decide +kernel, by decide +kernel, by decide +kernel, rfl, by decide +kernel⟩, by decide +kernel,
        by decide +kernel, by decide +kernel, rfl⟩,
    met (sr (rg 2 1 0 0)) who0 w0 p0 (by decide +kernel)
      ⟨rdRing (rg 2 1 0 0), rg 2 1 0 0, ⟨by decide +kernel, by decide +kernel, by decide +kernel, by decide +kernel, rfl, by decide +kernel⟩, by decide +kernel,
        by decide +kernel⟩,
    met (sr (rg 0 1 0 0)) who0 w0 p0 (by decide +kernel) (ringBad_of _ _ (by decide +kernel) (by decide +kernel))⟩,
   ⟨met (sr (rg 0 1 0 0)) who0 w0 p0 (by decide +kernel)
      ⟨by decide +kernel, by decide +kernel, ringBad_of _ _ (by decide +kernel) (by decide +kernel)⟩,
    met (sr (rg 0 1 0 0)) who0 w0 p0 (by decide +kernel)
      ⟨by decide +kernel, by decide +kernel, ringBad_of _ _ (by decide +kernel) (by decide +kernel)⟩⟩,
   met (sr (rg 2 0 0 0)) who0 w0 p0 (by decide +kernel) ⟨by decide +kernel,
      rdRing (rg 2 0 0 0), rg 2 0 0 0, _, ⟨by decide +kernel, by decide +kernel, by decide +kernel, by decide +kernel, rfl, by decide +kernel⟩, by decide +kernel,
        by decide +kernel, by decide +kernel, by decide +kernel, rfl⟩,
   met (sr (rg 2 2 2 0)) who0 w0 p0 (by decide +kernel) ⟨by decide +kernel,
      rdRing (rg 2 2 2 0), rg 2 2 2 0, _, ⟨by decide +kernel, by decide +kernel, by decide +kernel, by decide +kernel, rfl, by decide +kernel⟩, by decide +kernel,
        by decide +kernel, by decide +kernel, by decide +kernel, rfl⟩⟩
/-- The lanes that a PUSH to the ring accepts. -/
def taken (r : Ring) : List Nat := (lanesOf (BitVec.allOnes 32)).take (r.cap - (r.claim - r.retire))

/-- Sequencer 0 of die A, silent for 1 ms. -/
def qs : SeqId := ⟨false, false, 0⟩
def silent : State :=
  { s0 with cur := some (.seq qs), warps := [(.seq qs, w0)], seqs := [(qs, SeqRec.reset)], dieA := { s0.dieA with dtime := 1000000 } }

theorem witness_PushAndEvsigAct :
    (let onBlock := fun (s : State) (who : Issuer) => ∃ h wid b, who = .warp h wid ∧ s.block? h = some b
     Met (.push ⟨hn, 1, 3, 0, 16⟩) hn .shared (rangeFrom 16 16) [] (some .cp) (fun s who _ _ act =>
       act ≠ 0 ∧ s.quiet who (BitVec.allOnes 32) = true ∧ onBlock s who) ∧
     Met (.push ⟨hn, 2, 7, 0, 368⟩) hn .shared (rangeFrom 368 16) [] (some .cp) (fun s who _ _ act =>
       act ≠ 0 ∧ s.quiet who (BitVec.allOnes 32) = true ∧ onBlock s who)) ∧
    (∀ k, k = 2 ∨ k = 4 → Met (.push ⟨hn, 0, 3, 384, 16⟩) hn .shared ([384, 385] ++ rangeFrom 16 16) [] (some .cp) (fun s who w _ act =>
      act ≠ 0 ∧ s.cutOff who = false ∧ s.quiet who act = true ∧
      s.issueCheck (s.agentOf who w) act 64 false false (fun _ => w.group 2 384 0) = none ∧
      (s.gate (s.agentOf who w) (w.group 2 384 0) true).2 = false ∧ ∃ u r, s.ringAt (s.agentOf who w) (w.group 2 384 0) = (u, .ok r) ∧ r.fault 0 = none ∧
        (taken r).length = 4 - k ∧ (u.gateSlots (s.agentOf who w) r (rangeFrom r.claim (taken r).length)).2 = false ∧
        (taken r ≠ [] → ∃ y z, u.putRecords (s.agentOf who w) w 16 r ((taken r).zipIdx.map fun q => (q.1, r.claim + q.2)) = (y, .ok ()) ∧
          y.putRing (s.agentOf who w) (w.group 2 384 0)
            (commitMarks { r with claim := r.claim + (taken r).length } (y.marks (y.ringKey (s.agentOf who w) (w.group 2 384 0)))
              (rangeFrom r.claim (taken r).length)).1 (r.scope == 3 || w.sysRel &&& act != 0) = (z, .ok ())))) ∧
    Met (.evsig ⟨hn, false, 0, 5, 0⟩) hn .shared [] [] none (fun s who _ _ act => act ≠ 0 ∧ s.quiet who act = true ∧ s.cutOff who = true) ∧
    (∀ ea, Met (.evsig ⟨hn, ea, if ea then 384 else 0, if ea then 0 else 5, 0xFFFF⟩) hn .shared (if ea then [384] else []) [] none
      (fun s who w _ act => act ≠ 0 ∧ s.quiet who act = true ∧ s.cutOff who = false ∧
        let e : BitVec 16 := if ea then (w.word 384 0).setWidth 16 else 5
        ((s.die (s.evHome e)).event? e).isSome = true ∨ (s.die (s.evHome e)).events.length < 8192)) := by
  refine ⟨⟨?_, ?_⟩, fun k hk => ?_, met silent (.seq qs) w0 p0 (by decide +kernel) (by decide +kernel), fun ea => ?_⟩
  · exact met s0 who0 w0 p0 (by decide +kernel) ⟨by decide +kernel, by decide +kernel, 0, 0, b0, rfl, by decide +kernel⟩
  · exact met s0 who0 w0 p0 (by decide +kernel) ⟨by decide +kernel, by decide +kernel, 0, 0, b0, rfl, by decide +kernel⟩
  · obtain rfl | rfl := hk
    · exact met (sr (rg 2 2 0 0)) who0 w0 p0 (by decide +kernel) (join5 (by decide +kernel)
      ⟨rdRing (rg 2 2 0 0), rg 2 2 0 0, rfl, by decide +kernel, by decide +kernel, by decide +kernel, fun _ => ⟨_, _, rfl, rfl⟩⟩)
    · exact met (sr (rg 4 4 0 0)) who0 w0 p0 (by decide +kernel) (join5 (by decide +kernel)
      ⟨rdRing (rg 4 4 0 0), rg 4 4 0 0, rfl, by decide +kernel, by decide +kernel, by decide +kernel, fun h => absurd (by decide +kernel) h⟩)
  · cases ea
    · exact met s0 who0 w0 p0 (by decide +kernel) (by decide +kernel)
    · exact met s0 who0 w0 p0 (by decide +kernel) (by decide +kernel)

/-- A request of the warp for a chunk, and one to switch window 0. -/
def tk0 : TakeReq := ⟨7, who0, 1, 0, false, 1, 8, false⟩
def pb0 : PubReq := ⟨7, who0, 1, 0, []⟩
def win0 : Window := ⟨0, 0x100000, 65536, 0x200000, 0x300000, false, []⟩
/-- The job with records left to deal and a window. -/
def jt : Job := { seedJob 1 with insts := [{ seedInst with remaining := 5 }], windows := [win0] }

theorem witness_TakeAndPublishAreServed :
    Met (.take ⟨hn, 380⟩) hn .compute [] [380, 381, 382, 383] none (fun _ _ _ _ act => act ≠ 0) ∧
    (∀ j, j = jt ∨ j = seedJob 1 → let s : State := { s0 with takes := [tk0], jobs := [j] }
      s.takes.find? (fun q => q.id == tk0.id) = some tk0 ∧ s.warp? tk0.who = some w0 ∧ s.job? tk0.job = some j ∧
      j.batch = none ∧ (j.inst? tk0.inst).isSome = true ∧ tk0.dreg + 4 ≤ 384) ∧
    Met (.publish ⟨hn, .die, 0⟩) hn .shared [] [] (some .cp) (fun s who _ _ act =>
      act ≠ 0 ∧ ∃ h wid b j, who = .warp h wid ∧ s.block? h = some b ∧ s.job? b.job = some j ∧ (0#8).toNat < j.windows.length) ∧
    (let s : State := { s0 with pubs := [pb0], jobs := [jt] }
     s.pubs.find? (fun r => r.id == pb0.id) = some pb0 ∧ pb0.before = [] ∧ s.job? pb0.job = some jt) := by
  refine ⟨?_, fun j h => ?_, ?_, by decide +kernel⟩
  · exact met s0 who0 w0 p0 (by decide +kernel) (by decide +kernel)
  · obtain rfl | rfl := h <;> decide +kernel
  · exact met { s0 with jobs := [jt] } who0 w0 p0 (by decide +kernel)
      ⟨by decide +kernel, 0, 0, b0, jt, rfl, by decide +kernel, by decide +kernel, by decide +kernel⟩
/-! ### Groups 0xB_ and 0xC_ -/

/-- On a block whose tiles and FIFOs pass. -/
def tilePre (tiles fifos : List Nat) (s : State) (who : Issuer) (_ : Warp) (_ : PathEntry) (act : Mask) : Prop :=
  act ≠ 0 ∧ ∃ blk wid b, who = .warp blk wid ∧ s.block? blk = some b ∧
    (∀ k ∈ tiles, k < kdTiles b.kd) ∧ ∀ k ∈ fifos, k < kdFifos b.kd
def tileBad (tiles fifos : List Nat) (s : State) (who : Issuer) (_ : Warp) (_ : PathEntry) (act : Mask) : Prop :=
  act ≠ 0 ∧ ∃ blk wid b, who = .warp blk wid ∧ s.block? blk = some b ∧
    ((∃ k ∈ tiles, kdTiles b.kd ≤ k) ∨ ∃ k ∈ fifos, kdFifos b.kd ≤ k)

theorem witness_TileFormsEnterTheirStream :
    Met (.mmaM32N32K64 ⟨hn, .s8p4, none, false, none, 0, 0, 0, 7⟩) hn .compute [] [] (some .tl) (tilePre [7] [0, 0]) ∧
    Met (.mmaM32N32K64 ⟨hn, .s8p4, none, false, none, 0, 0, 1, 7⟩) hn .compute [] [] (some .tl) (tileBad [7] [1, 0]) ∧
    Met (.mscale ⟨hn, some 3, false, 4, 0, 0, 0, 0, 7⟩) hn .compute [4] [] (some .tl) (tilePre [7, 0] [0]) ∧
    Met (.mzero ⟨hn, none, 8⟩) hn .compute [] [] (some .tl) (tileBad [8] []) ∧
    Met (.mld ⟨hn, none, 4, 16, 0, 48⟩) hn .compute [] (rangeFrom 48 16) (some .tl) (tilePre [0] []) ∧
    Met (.mst ⟨hn, none, 4, 16, 0, 48⟩) hn .compute (rangeFrom 48 16) [] (some .tl) (tilePre [0] []) ∧
    Met (.mmode ⟨hn, none, .upward⟩) hn .compute [] [] (some .tl) (tilePre [] []) ∧
    Met (.mepi ⟨hn, none, true, true, true, 388, 389, 0, 0, 0, 0⟩) hn .compute [388, 389] [] (some .tl) (tilePre [0] [0]) ∧
    Met (.mzero ⟨hz, none, 8⟩) hz .compute [] [] (some .tl) (fun _ _ _ _ act => act = 0) :=
  ⟨met s0 who0 w0 p0 (by decide +kernel) ⟨by decide +kernel, 0, 0, b0, rfl, by decide +kernel, by decide +kernel, by decide +kernel⟩,
    met s0 who0 w0 p0 (by decide +kernel) ⟨by decide +kernel, 0, 0, b0, rfl, by decide +kernel, .inr ⟨1, by decide, by decide +kernel⟩⟩,
    met s0 who0 w0 p0 (by decide +kernel) ⟨by decide +kernel, 0, 0, b0, rfl, by decide +kernel, by decide +kernel, by decide +kernel⟩,
    met s0 who0 w0 p0 (by decide +kernel) ⟨by decide +kernel, 0, 0, b0, rfl, by decide +kernel, .inl ⟨8, by decide, by decide +kernel⟩⟩,
    met s0 who0 w0 p0 (by decide +kernel) ⟨by decide +kernel, 0, 0, b0, rfl, by decide +kernel, by decide +kernel, by decide +kernel⟩,
    met s0 who0 w0 p0 (by decide +kernel) ⟨by decide +kernel, 0, 0, b0, rfl, by decide +kernel, by decide +kernel, by decide +kernel⟩,
    met s0 who0 w0 p0 (by decide +kernel) ⟨by decide +kernel, 0, 0, b0, rfl, by decide +kernel, by decide +kernel, by decide +kernel⟩,
    met s0 who0 w0 p0 (by decide +kernel) ⟨by decide +kernel, 0, 0, b0, rfl, by decide +kernel, by decide +kernel, by decide +kernel⟩,
    met s0 who0 w0 p0 (by decide +kernel) (by decide +kernel)⟩

/-- A block with a run of the warp at the port of FIFO 0, of which all bytes or half of them find room. -/
def run0 : FifoRun := ⟨false, 9, who0, List.replicate 128 7, true⟩
def bf (n : Nat) : Block := { b0 with fifos := [(fifoKey 0 0, ⟨0, List.replicate n none ++ [some 1], 0, [run0]⟩)] }

theorem witness_FpushRunsEnterTheFifo :
    Met (.fpush ⟨hn, .s8p4, 2, true, false, .nearestEven, 4, 0⟩) hn .compute (rangeFrom 4 4) [] (some .tl) (tilePre [] [0]) ∧
    Met (.fpush ⟨hn, .s8p4, 2, true, false, .nearestEven, 4, 1⟩) hn .compute (rangeFrom 4 4) [] (some .tl) (tileBad [] [1]) ∧
    ((sb (bf 3)).block? 0 = some (bf 3) ∧ (bf 3).halted = false ∧ ((bf 3).fifo (fifoKey 0 0)).runs = [run0] ∧ run0.feed = false ∧
      (sb (bf 3)).warp? run0.who = some w0) :=
  ⟨met s0 who0 w0 p0 (by decide +kernel) ⟨by decide +kernel, 0, 0, b0, rfl, by decide +kernel, by decide +kernel, by decide +kernel⟩,
    met s0 who0 w0 p0 (by decide +kernel) ⟨by decide +kernel, 0, 0, b0, rfl, by decide +kernel, .inr ⟨1, by decide, by decide +kernel⟩⟩,
    by decide +kernel⟩

/-- One operation of the warp at the head of unit 1's stream, its sources, and the block's FIFO 0 with `n` bytes. -/
def op1 (i : Instr) (lanes : Mask) (src : List Word) (resA resB : Option Nat) : StreamOp :=
  ⟨9, who0, i, lanes, (lanesOf lanes).map fun L => (L, src), resA, resB, [], false⟩
def bo (o : StreamOp) (n : Nat) : Block :=
  { b0 with streams := [(unitKey 0 1, [o])], fifos := [(fifoKey 0 0, ⟨0, List.replicate n (some 0), n, []⟩)] }

theorem witness_StreamOperationsPerformTheHead :
    (let head := fun (o : StreamOp) (n : Nat) => (sb (bo o n)).block? 0 = some (bo o n) ∧
       (sb (bo o n)).arrived (bo o n) 0 = bo o n ∧ (bo o n).stream (unitKey 0 1) = [o] ∧ (sb (bo o n)).bad = []
     let mma := op1 (.mmaM32N32K8 ⟨hn, .fp32, some 1, false, none, 0, 0, 0, 7⟩) 1 [] (some 0) (some 1024)
     (head mma 64 ∧ (bo mma 64).bytesReady 0 mma = false) ∧
     (head (op1 (.mzero ⟨hn, some 1, 7⟩) 5 [] none none) 0) ∧
     (head (op1 (.mst ⟨hn, some 1, 2, 60, 7, 48⟩) 5 [1, 2, 3, 4] none none) 0 ∧
       ∀ L, L < 32 → (5 : Mask).getLsbD L = true → ((op1 (.mst ⟨hn, some 1, 2, 60, 7, 48⟩) 5 [1, 2, 3, 4] none none).srcOf L).length = 4) ∧
     head (op1 (.mmode ⟨hn, some 1, .upward⟩) 5 [] none none) 0 ∧
     (head (op1 (.mld ⟨hn, some 1, 2, 60, 7, 380⟩) 5 [] none none) 0 ∧
       (sb (bo (op1 (.mld ⟨hn, some 1, 2, 60, 7, 380⟩) 5 [] none none) 0)).warp? who0 = some w0) ∧
     (let o := op1 (.mscale ⟨hn, some 1, true, 4, 3, 0, 0, 0, 7⟩) 5 [0x3F800000] (some 0) none
      head o 64 ∧ (bo o 64).bytesReady 0 o = true ∧ ((bo o 64).takeBytes 0 o).2 = [List.replicate 64 0]) ∧
     (∀ be, let o := op1 (.mepi ⟨hn, some 1, true, be, true, 388, 389, 2, 0, 0, 7⟩) 5 [0, 9] (if be then some 0 else none) none
      head o 64 ∧ (bo o 64).bytesReady 0 o = true ∧
        ((bo o 64).takeBytes 0 o).2 = (if be then [List.replicate 64 0] else []) ∧ lowLane o.lanes = some 0 ∧ o.srcOf 0 = [0, 9]) ∧
     (head mma 2048 ∧ (bo mma 2048).bytesReady 0 mma = true ∧ (sb (bo mma 2048)).upsets = [] ∧
       ((bo mma 2048).takeBytes 0 mma).2 = [List.replicate 1024 0, List.replicate 1024 0] ∧
       let zero := (elemsOf .fp32 (List.replicate 32 0)).take 8
       rowMismatch .fp32 .fp32 8 32 (List.replicate 32 0)
         ((List.range 32).map fun j => mmaElem .fp32 .fp32 .nearestEven ((bo mma 2048).elem (unitKey 0 1) 7 0 j) zero zero)
         zero (List.replicate 32 zero) = false)) := by
  refine ⟨⟨?_, ?_⟩, ?_, ⟨?_, ?_⟩, ?_, ⟨?_, ?_⟩, ⟨?_, ?_, ?_⟩, ?_, ?_, ?_, ?_, ?_, ?_⟩ <;> decide +kernel
/-- On a block that holds the slots of `active`, which stand in register 4. -/
def slotPre (s : State) (who : Issuer) (w : Warp) (_ : PathEntry) (act : Mask) : Prop :=
  act ≠ 0 ∧ ∃ blk wid b, who = .warp blk wid ∧ s.block? blk = some b ∧ ∀ L, act.getLsbD L = true → (w.word 4 L).toNat < kdSlots b.kd
/-- A warp with slot 63 in every lane but lane 31, which holds `n`, and LOGBASE `base` and LCAP `cap`. -/
def wc (n : Nat) (base cap : Word) : Warp := { w0 with
  vregs := (List.range 32).map fun L => (32 * 4 + L, BitVec.ofNat 32 (if L = 31 then n else 63)), gregs := [(10, base), (12, cap)] }

theorem witness_SlotFormsEnterTheirStreams :
    Met (.cinit ⟨hn, true, 4, none⟩) hn .compute [4] [] (some .tl) slotPre ∧
    Met (.cflush ⟨hn, 4⟩) hn .compute [4] [] (some .tl) (fun s who w _ act => ∃ blk wid b L, who = .warp blk wid ∧
      s.block? blk = some b ∧ act.getLsbD L = true ∧ kdSlots b.kd ≤ (w.word 4 L).toNat) ∧
    (let i := Instr.cinit ⟨hn, true, 4, some ⟨.imm 0x3E800000, 394, 396⟩⟩
     Met i hn .compute [4, 394, 395, 396] [] (some .tl) (fun s who w p act => slotPre s who w p act ∧
       w.group 2 394 0 % 32 = 0 ∧ (w.word 396 0).toNat < 2 ^ 24) ∧
     Met i hn .compute [4, 394, 395, 396] [] (some .tl) (fun s who w p act => slotPre s who w p act ∧
       (w.group 2 394 0 % 32 ≠ 0 ∨ 2 ^ 24 ≤ (w.word 396 0).toNat))) ∧
    Met (.cmps ⟨hn, 4, 8⟩) hn .compute ([4] ++ rangeFrom 8 4) [] (some .tl) slotPre ∧
    Met (.cread ⟨hn, 48, 4⟩) hn .compute [4] (rangeFrom 48 8) (some .tl) slotPre ∧
    Met (.cretire ⟨hn, true, 4⟩) hn .compute [4] [] (some .tl) slotPre ∧
    Met (.creplay ⟨hn, 48, 4, 36, 40, 44⟩) hn .compute (([4] ++ rangeFrom 36 4) ++ rangeFrom 40 4 ++ [44])
      ((rangeFrom 48 8 ++ rangeFrom 40 4) ++ [44]) (some .tl) slotPre ∧
    Met (.cread ⟨hz, 48, 4⟩) hz .compute [4] (rangeFrom 48 8) (some .tl) (fun _ _ _ _ act => act = 0) := by
  have ok : ∀ w, w = wc 63 32 0xFFFFFF ∨ w = wc 63 33 0 → slotPre (sw w) who0 w p0 (w.activeLanes p0 hn) := by
    rintro w (rfl | rfl) <;>
      exact ⟨by decide +kernel, 0, 0, b0, rfl, by decide +kernel, lanes_all _ (by decide +kernel)⟩
  exact ⟨met (sw (wc 63 32 0xFFFFFF)) who0 (wc 63 32 0xFFFFFF) p0 (by decide +kernel) (ok _ (.inl rfl)),
    met (sw (wc 64 32 0)) who0 (wc 64 32 0) p0 (by decide +kernel)
      ⟨0, 0, b0, 31, rfl, by decide +kernel, by decide +kernel, by decide +kernel⟩,
    ⟨met (sw (wc 63 32 0xFFFFFF)) who0 (wc 63 32 0xFFFFFF) p0 (by decide +kernel)
        ⟨ok _ (.inl rfl), by decide +kernel, by decide +kernel⟩,
      met (sw (wc 63 33 0)) who0 (wc 63 33 0) p0 (by decide +kernel) ⟨ok _ (.inr rfl), .inl (by decide +kernel)⟩⟩,
    met (sw (wc 63 32 0xFFFFFF)) who0 (wc 63 32 0xFFFFFF) p0 (by decide +kernel) (ok _ (.inl rfl)),
    met (sw (wc 63 32 0xFFFFFF)) who0 (wc 63 32 0xFFFFFF) p0 (by decide +kernel) (ok _ (.inl rfl)),
    met (sw (wc 63 32 0xFFFFFF)) who0 (wc 63 32 0xFFFFFF) p0 (by decide +kernel) (ok _ (.inl rfl)),
    met (sw (wc 63 32 0xFFFFFF)) who0 (wc 63 32 0xFFFFFF) p0 (by decide +kernel) (ok _ (.inl rfl)),
    met s0 who0 w0 p0 (by decide +kernel) (by decide +kernel)⟩

/-- A slot with `n` buffered entries of depth keys 2, 4, 6, …, in which no term has been committed. -/
def sl (ret : Bool) (front n : Nat) : Slot :=
  ⟨ret, false, false, 0, 0, 0, 0, front, 0x3F800000, [0, 0, 0, 0], (List.range n).map fun k => BitVec.ofNat 128 (2 * k + 2 + 0x3800 * 2 ^ 32)⟩

/-- The block with an operation of lane 31 on slot 5 and that slot. -/
def bs (o : StreamOp) (x : Slot) : Block := { b0 with streams := [(unitKey 0 1, [o])], slots := [(slotKey 0 5, x.toBits)] }
def slotOp (i : Instr) (d : Word) : StreamOp := op1 i (1#32 <<< 31) [5, d, 0x3800, 0, 0] none none

/-- What the statement of slot operations asks of an operation and its slot. -/
def slotMet (i : Instr) (d : Word) (x : Slot) (pre : StreamOp → Slot → Prop) : Prop :=
  let o := slotOp i d
  let b := bs o x
  (sb b).block? 0 = some b ∧ (sb b).arrived b 0 = b ∧ b.stream (unitKey 0 1) = [o] ∧ (sb b).bad = [] ∧ o.lanes = 1#32 <<< 31 ∧ o.begun = false ∧ alook 32 o.src = none ∧
  (sb b).parks = [] ∧ slotKey 0 ((o.srcOf 31).headD 0).toNat = 5 ∧ Slot.ofBits (b.slot 5) = x ∧ pre o x

theorem witness_SlotOperationsAct :
    (let s := sl true 0xFFFFFFFF 6
     s.lp < 2 ^ 24 ∧ s.nc < 2 ^ 16 ∧ s.nl < 2 ^ 8 ∧ s.nd < 2 ^ 8 ∧ s.front < 2 ^ 32 ∧ s.ch.length = 4 ∧ s.ents.length ≤ 6) ∧
    (let term := fun (o : StreamOp) => termOf ((o.srcOf ((lowLane o.lanes).getD 0)).drop 1)
     let cmps := Instr.cmps ⟨hn, 4, 8⟩
     slotMet (.cinit ⟨hn, true, 4, none⟩) 0 (sl true 0 0) (fun o _ => o.instr = .cinit ⟨hn, true, 4, none⟩) ∧
     slotMet cmps 7 (sl true 0 0) (fun o old => o.instr = cmps ∧ (old.ret = true ∨ term o = none)) ∧
     slotMet cmps 0x80000001 (sl false 0 0) (fun o old => o.instr = cmps ∧ (old.ret = true ∨ term o = none)) ∧
     slotMet cmps 4 (sl false 4 5) (fun o old => o.instr = cmps ∧ old.ret = false ∧ old.ents.length < 6 ∧
       ∃ e, term o = some e ∧ old.front ≤ entKey e) ∧
     slotMet cmps 3 (sl false 4 0) (fun o old => o.instr = cmps ∧ old.ret = false ∧ old.loge = false ∧
       ∃ e, term o = some e ∧ (entKey e < old.front ∨ old.ents.length = 6)) ∧
     slotMet cmps 9 (sl false 4 6) (fun o old => o.instr = cmps ∧ old.ret = false ∧ old.loge = false ∧
       ∃ e, term o = some e ∧ (entKey e < old.front ∨ old.ents.length = 6)) ∧
     slotMet (.cflush ⟨hn, 4⟩) 0 (sl false 0 0) (fun o old => o.instr = .cflush ⟨hn, 4⟩ ∧ (old.ret = true ∨ old.ents = [])) ∧
     slotMet (.cflush ⟨hn, 4⟩) 0 (sl false 1 6) (fun o old => o.instr = .cflush ⟨hn, 4⟩ ∧ old.ret = false ∧ old.loge = false) ∧
     slotMet (.cretire ⟨hn, true, 4⟩) 0 (sl false 1 3) (fun o old => o.instr = .cretire ⟨hn, true, 4⟩ ∧ old.ret = false ∧ old.loge = false) ∧
     slotMet (.cretire ⟨hn, true, 4⟩) 0 (sl true 0 0) (fun o old => o.instr = .cretire ⟨hn, true, 4⟩ ∧ old.ret = true) ∧
     slotMet (.cretire ⟨hn, false, 4⟩) 0 (sl false 0 3) (fun o old => o.instr = .cretire ⟨hn, false, 4⟩ ∧ old.ret = false)) := by
  refine ⟨by decide +kernel, ?_, ?_, ?_, ?_, ?_, ?_, ?_, ?_, ?_, ?_, ?_⟩
  case refine_4 =>
    exact ⟨by decide +kernel, by decide +kernel, by decide +kernel, rfl, rfl, rfl, by decide +kernel, rfl, by decide +kernel, by decide +kernel, rfl,
      rfl, by decide +kernel, _, rfl, by decide +kernel⟩
  case refine_5 =>
    exact ⟨by decide +kernel, by decide +kernel, by decide +kernel, rfl, rfl, rfl, by decide +kernel, rfl, by decide +kernel, by decide +kernel, rfl,
      rfl, rfl, _, rfl, .inl (by decide +kernel)⟩
  case refine_6 =>
    exact ⟨by decide +kernel, by decide +kernel, by decide +kernel, rfl, rfl, rfl, by decide +kernel, rfl, by decide +kernel, by decide +kernel, rfl,
      rfl, rfl, _, rfl, .inr (by decide +kernel)⟩
  all_goals
    exact ⟨by decide +kernel, by decide +kernel, by decide +kernel, rfl, rfl, rfl, by decide +kernel, rfl, by decide +kernel, by decide +kernel, by decide +kernel⟩

/-- A CREPLAY of lane 2 on slot 5 with cursor `n`, in a unit whose log lies at 0x100 with LCAP 3, and memory whose
second log entry names slot `k`. -/
def rop (n : Word) : StreamOp := op1 (.creplay ⟨hn, 48, 4, 36, 40, 44⟩) (1#32 <<< 2) [5, n, 0, 0, 0, 0, 0, 0, 0, 0] none none
def rb (n : Word) : Block := { b0 with streams := [(unitKey 0 1, [rop n])], units := [(unitKey 0 1, ⟨.nearestEven, 0, 0x100, 3⟩)] }
def rs (n : Word) (k : Nat) : State := ({ s0 with blocks := [rb n] } : State).store (0x20000 + 0x100 + 32 * 16) (toBytes 32 (k * 2 ^ 192))

theorem witness_CreadAndCreplayWriteTheirLanes :
    (let o := op1 (.cread ⟨hn, 376, 4⟩) (1#32 <<< 2) [5] none none
     let b := bo o 0
     (sb b).block? 0 = some b ∧ (sb b).arrived b 0 = b ∧ b.stream (unitKey 0 1) = [o] ∧ (sb b).bad = [] ∧ (sb b).parks = [] ∧ (sb b).warp? o.who = some w0 ∧ o.begun = false ∧ alook 32 o.src = none) ∧
    (∀ n : Word, n = 0 ∨ n = 4 ∨ n = 2 → (rs n 0).block? 0 = some (rb n) ∧ (rs n 0).arrived (rb n) 0 = rb n ∧ (rs n 0).bad = [] ∧ (rb n).stream (unitKey 0 1) = [rop n] ∧
      (rs n 0).warp? (rop n).who = some w0 ∧ (rop n).srcOf 2 = [5, n, 0, 0, 0, 0, 0, 0, 0, 0] ∧ (rs n 0).parks = []) ∧
    (∀ k, k = 5 ∨ k = 6 → let s := rs 2 k
      let va := 0x100 + 32 * (5 * 3 + 2 - 1)
      let q := s.setBlock (rb 2)
      let ag := q.compAgent (rb 2) 0
      let acc := q.replayAcc (rb 2) (unitKey 0 1) (rop 2)
      acc.lanes.all (fun l => q.mayPerformAt (fun _ => false) acc l ((q.pieces acc l).map Piece.asRc)) = true ∧
      q.gatePa ag.tenant (q.asks ag va false ⟨true, false, false⟩) = (q, false) ∧
      q.lacks ag va ⟨true, false, false⟩ = false ∧ va < 2 ^ 52 ∧ ∃ s' e, q.loadNat ag va 32 = (s', .ok e) ∧
        s'.warp? who0 = some w0 ∧ s'.block? 0 = some (rb 2) ∧ bits e 223 192 = k ∧ bits e 191 177 = 0) := by
  refine ⟨by decide +kernel, ?_, ?_⟩
  · rintro n (rfl | rfl | rfl) <;> decide +kernel
  · rintro k (rfl | rfl) <;>
      exact ⟨by decide +kernel, by decide +kernel, by decide +kernel, by decide +kernel, _, _, rfl, by decide +kernel, by decide +kernel, by decide +kernel, by decide +kernel⟩
/-! ### Group 0xD_ and the control registers -/

/-- A state whose two clocks show `t`. -/
def late (s : State) (t : Nat) : State := { s with dieA := { s.dieA with dtime := t }, dieB := { s.dieB with dtime := t } }

/-- A warp held by a WAITT until 100. -/
def ww : Warp := { w0 with hold := .waitt 100 hn }

/-- A kernel with one switch table for every level, of two entries at `t`. -/
def bw (t : Nat) : Block := { b0 with kd := seedKd ||| BitVec.ofNat 2048 (2 * 2 ^ 312 + t * 2 ^ 384 + 64 * 2 ^ 224) }

theorem witness_TimePowerAndCheckpointForms :
    (MetLane (.time ⟨hn, 510⟩) [] [510, 511] ∧
      (let form := fun pre => Met (.waitt ⟨hn, true, 384⟩) hn .shared [384, 385] [] none pre
       let now := fun (s : State) (who : Issuer) => (s.die (s.dieOf who)).dtime
       let target := fun (s : State) (who : Issuer) (w : Warp) => (now s who + w.group 2 384 0) % 2 ^ 64
       form (fun s who w _ act => act ≠ 0 ∧ w.hold = .none ∧ target s who w ≤ now s who) ∧
       form (fun s who w _ act => act ≠ 0 ∧ ∃ t h, w.hold = .waitt t h ∧ t ≤ now s who) ∧
       form (fun s who w _ act => act ≠ 0 ∧ w.hold = .none ∧ now s who < target s who w) ∧
       form (fun s who w _ act => act ≠ 0 ∧ ∃ n h, w.hold = .waitt n h ∧ now s who < n)) ∧
      ∀ t, t = 99 ∨ t = 100 → let s := late (sw ww) t
        s.warp? who0 = some ww ∧ ww.hold = .waitt 100 hn ∧ ww.active = some p0 ∧ (s.die (s.dieOf who0)).dtime = t ∧
        s.barred who0 ww = false ∧ ww.stepping = false) ∧
    (let on := fun (s : State) (who : Issuer) (b : Block) => ∃ h wid, who = .warp h wid ∧ s.block? h = some b
     Met (.pcls ⟨hn, .imm 3⟩) hn .compute [] [] none (fun s who _ _ act => act ≠ 0 ∧ ∃ b, on s who b) ∧
     Met (.pcls ⟨hz, .imm 3⟩) hz .compute [] [] none (fun _ _ _ _ act => act = 0) ∧
     Met (.ckpt ⟨hn, 388, 389, 2⟩) hn .compute [388, 389] [] none
       (fun s who _ _ act => act ≠ 0 ∧ ∃ b j i, on s who b ∧ s.job? b.job = some j ∧ j.inst? b.inst = some i) ∧
     (let va := fun (s : State) (b : Block) => kdSwt b.kd (kdVmap b.kd (s.posted b.die b.cluster)) + 4 * 1
      let tgt := fun (b : Block) (n : Nat) => (kdCode b.kd + n + 16) % 2 ^ 64
      let form := Met (.swpt ⟨hn, 1⟩) hn .compute [] [] none
      form (fun s who _ _ act => act ≠ 0 ∧ ∃ b, on s who b ∧ kdSwcount b.kd ≤ 1) ∧
      form (fun s who w _ act => act ≠ 0 ∧ ∃ b u n, on s who b ∧ 1 < kdSwcount b.kd ∧ isLocal (va s b) = false ∧
         (s.gate (s.agentOf who w) (va s b) false).2 = false ∧ s.loadNat (s.agentOf who w) (va s b) 4 = (u, .ok n) ∧ (tgt b n % 16 ≠ 0 ∨ 2 ^ 52 ≤ tgt b n)) ∧
      form (fun s who w p act => act ≠ 0 ∧ ∃ b u n, on s who b ∧ 1 < kdSwcount b.kd ∧ isLocal (va s b) = false ∧
         (s.gate (s.agentOf who w) (va s b) false).2 = false ∧ s.loadNat (s.agentOf who w) (va s b) 4 = (u, .ok n) ∧ tgt b n % 16 = 0 ∧ tgt b n < 2 ^ 52 ∧
         (u.deep who = true ∨ (w.paths.filter fun q => !q.spilled).length + (if p.mask &&& ~~~act = 0 then 0 else 1) ≤ 16)))) := by
  refine ⟨⟨met_lane _ _ _ (by decide +kernel), ⟨?_, ?_, ?_, ?_⟩, ?_⟩, ?_, ?_, ?_, ?_, ?_, ?_⟩
  · exact met s0 who0 w0 p0 (by decide +kernel) (by decide +kernel)
  · exact met (late (sw ww) 100) who0 ww p0 (by decide +kernel) ⟨by decide +kernel, 100, hn, rfl, by decide +kernel⟩
  · exact met (sw { w0 with gregs := [(0, 1)] }) who0 { w0 with gregs := [(0, 1)] } p0 (by decide +kernel) (by decide +kernel)
  · exact met (late (sw ww) 99) who0 ww p0 (by decide +kernel) ⟨by decide +kernel, 100, hn, rfl, by decide +kernel⟩
  · rintro t (rfl | rfl) <;> decide +kernel
  · exact met s0 who0 w0 p0 (by decide +kernel) ⟨by decide +kernel, b0, 0, 0, rfl, by decide +kernel⟩
  · exact met s0 who0 w0 p0 (by decide +kernel) (by decide +kernel)
  · exact met s0 who0 w0 p0 (by decide +kernel)
      ⟨by decide +kernel, b0, seedJob 1, seedInst, ⟨0, 0, rfl, by decide +kernel⟩, by decide +kernel, by decide +kernel⟩
  · exact met s0 who0 w0 p0 (by decide +kernel) ⟨by decide +kernel, b0, ⟨0, 0, rfl, by decide +kernel⟩, by decide +kernel⟩
  · exact met ((sb (bw 0x200)).store 0x20204 [4]) who0 w0 p0 (by decide +kernel) ⟨by decide +kernel, bw 0x200, _, _,
      ⟨0, 0, rfl, by decide +kernel⟩, by decide +kernel, by decide +kernel, by decide +kernel, rfl, .inl (by decide +kernel)⟩
  · exact met ((sb (bw 0x200)).store 0x20204 [48]) who0 w0 p0 (by decide +kernel) ⟨by decide +kernel, bw 0x200, _, _,
      ⟨0, 0, rfl, by decide +kernel⟩, by decide +kernel, by decide +kernel, by decide +kernel, rfl, by decide +kernel, by decide +kernel,
      .inr (by decide +kernel)⟩

theorem witness_CsrFormsReadAndWrite :
    Met (.csrRd ⟨hn, 4, 0xFFF⟩) hn .privileged [] [4] none (fun _ who _ _ _ =>
      ∃ q, who = .seq q ∧ (csrAccess q.trivet 0xFFF).reads = false) ∧
    (∀ n : BitVec 12, n = 0 ∨ n = 1 ∨ n = 2 ∨ n = 0x10 ∨ n = 0x11 → Met (.csrRd ⟨hn, 4, n⟩) hn .privileged [] [4] none
      (fun _ who _ _ act => act.getLsbD 0 = true ∧ n.toNat ∈ [0x000, 0x001, 0x002, 0x010, 0x011] ∧ ∃ q, who = .seq q)) ∧
    Met (.csrRd ⟨hz, 400, 0⟩) hz .privileged [] [400] none (fun _ who _ _ act => act.getLsbD 0 = false ∧
      ∃ q, who = .seq q ∧ (csrAccess q.trivet 0).reads = true) ∧
    Met (.csrRd ⟨hn, 4, 0x1F8⟩) hn .privileged [] [4] none (fun _ who _ _ act => act.getLsbD 0 = true ∧ ∃ q, who = .seq q ∧ q.trivet = false) ∧
    Met (.csrRd ⟨hn, 4, 0x300⟩) hn .privileged [] [4] none (fun _ who _ _ act => act.getLsbD 0 = true ∧
      ∃ q, who = .seq q ∧ q.trivet = false ∧ percAccess 0x300 = .both) ∧
    Met (.csrRd ⟨hn, 4, 0x100⟩) hn .privileged [] [4] none (fun s who _ _ act => act.getLsbD 0 = true ∧
      ∃ q, who = .seq q ∧ q.trivet = true ∧ trivAccess 0x100 = .both ∧ (s.die q.die).pwrPending = none) ∧
    Met (.csrWr ⟨hn, 4, 0⟩) hn .privileged [4] [] none (fun _ who _ _ _ => ∃ q, who = .seq q ∧ (csrAccess q.trivet 0).writes = false) ∧
    Met (.csrWr ⟨hz, 4, 0x11⟩) hz .privileged [4] [] none (fun _ who _ _ act => act.getLsbD 0 = false ∧
      ∃ q, who = .seq q ∧ (csrAccess q.trivet 0x11).writes = true) ∧
    (∀ n : BitVec 12, n = 0x11 ∨ n = 0x12 → Met (.csrWr ⟨hn, 4, n⟩) hn .privileged [4] [] none
      (fun s who _ _ act => s.cutOff who = false ∧ act.getLsbD 0 = true ∧ ∃ q, who = .seq q)) ∧
    (∀ n : BitVec 12, n = 0x11 ∨ n = 0x12 ∨ n = 0x200 → Met (.csrWr ⟨hn, 4, n⟩) hn .privileged [4] [] none
      (fun s who _ _ act => s.cutOff who = true ∧ act.getLsbD 0 = true ∧ ∃ q, who = .seq q)) ∧
    ∀ n : BitVec 12, n = 0x200 ∨ n = 0x2FD ∨ n = 0x32F ∨ n = 0x380 ∨ n = 0x360 ∨ n = 0x1F7 → Met (.csrWr ⟨hn, 4, n⟩) hn .privileged [4] [] none
      (fun s who w _ act => s.cutOff who = false ∧ act.getLsbD 0 = true ∧ percValid n.toNat (w.word 4 0).toNat = true ∧ ∃ q, who = .seq q ∧ q.trivet = false) := by
  have m : ∀ (q : SeqId) i (h : Hdr) rd wr pre, may i .privileged rd wr none (sq q wq) (.seq q) wq pq = true →
      pre (sq q wq) (.seq q) wq pq (wq.activeLanes pq h) → Met i h .privileged rd wr none pre :=
    fun q _ _ _ _ _ h1 h2 => met (sq q wq) (.seq q) wq pq h1 h2
  refine ⟨m q0 _ _ _ _ _ (by decide +kernel) ⟨q0, rfl, by decide +kernel⟩, ?_,
    m q0 _ _ _ _ _ (by decide +kernel) ⟨by decide +kernel, q0, rfl, by decide +kernel⟩,
    m q0 _ _ _ _ _ (by decide +kernel) ⟨by decide +kernel, q0, rfl, rfl⟩,
    m q0 _ _ _ _ _ (by decide +kernel) ⟨by decide +kernel, q0, rfl, rfl, by decide +kernel⟩,
    m q1 _ _ _ _ _ (by decide +kernel) ⟨by decide +kernel, q1, rfl, rfl, by decide +kernel, by decide +kernel⟩,
    m q0 _ _ _ _ _ (by decide +kernel) ⟨q0, rfl, by decide +kernel⟩,
    m q0 _ _ _ _ _ (by decide +kernel) ⟨by decide +kernel, q0, rfl, by decide +kernel⟩, ?_, ?_, ?_⟩
  · rintro n (rfl | rfl | rfl | rfl | rfl) <;>
      exact m q0 _ _ _ _ _ (by decide +kernel) ⟨by decide +kernel, by decide +kernel, q0, rfl⟩
  · rintro n (rfl | rfl) <;> exact m q0 _ _ _ _ _ (by decide +kernel) ⟨by decide +kernel, by decide +kernel, q0, rfl⟩
  · rintro n (rfl | rfl | rfl) <;> exact met silent (.seq qs) w0 p0 (by decide +kernel) ⟨by decide +kernel, by decide +kernel, qs, rfl⟩
  · rintro n (rfl | rfl | rfl | rfl | rfl | rfl) <;>
      exact m q0 _ _ _ _ _ (by decide +kernel) ⟨by decide +kernel, by decide +kernel, by decide +kernel, q0, rfl, rfl⟩
/-! ### Events -/

/-- Read an outcome as an option, to name what it holds. -/
def percGot : PercRead → Option (List Byte)
  | .ok b => some b
  | _ => none

theorem perc_ok (x : State × PercRead) (h : (percGot x.2).isSome = true) : x = (x.1, .ok ((percGot x.2).getD [])) := by
  rcases x with ⟨s, _ | _ | _⟩ <;> simp_all [percGot]

def gotOf {α : Type} : Got α → Option α
  | .ok a => some a
  | _ => none

theorem got_ok {α : Type} (y : α) (x : State × Got α) (h : (gotOf x.2).isSome = true) :
    x = (x.1, .ok ((gotOf x.2).getD y)) := by
  rcases x with ⟨s, _ | _ | _⟩ <;> simp_all [gotOf]

def postedDone : Posted → Bool
  | .done => true
  | _ => false

theorem post_done (x : State × Posted) (h : postedDone x.2 = true) : x = (x.1, .done) := by
  rcases x with ⟨s, _ | _ | _⟩ <;> simp_all [postedDone]

/-- One die with a change; die A's registers; the state after reset with both dies up and serving. -/
def onA (s : State) (f : Die → Die) : State := { s with dieA := f s.dieA }
def both (s : State) (f : Die → Die) : State := { s with dieA := f s.dieA, dieB := f s.dieB }
def up0 : State := both State.reset fun x => { x with up := true, serving := true }
def regs (s : State) (l : List (Nat × Word)) : State := onA s fun x => { x with pcsr := l }

/-- A live event of name 0 on die A. -/
def ev0 : EvEntry := ⟨0, 5, [], []⟩

theorem witness_RegisterEventsActOnTheirRegisters :
    (∀ n, n ∈ [0x200, 0x2FD, 0x300, 0x32F, 0x360, 0x380, 0x3FF, 0x101, 0x1F7] → percValid n 0 = true) ∧
    ((percAccess 0x300).writes = true ∧ percValid 0x300 17 = false ∧ percValid 0x300 16 = true) ∧ (percAccess 0xFFF).writes = false ∧
    (∀ n, n ∈ [0x104, 0x105, 0x106, 0x110, 0x111, 0x112] → trivValid n (if n = 0x104 then 16 else 1) = true) ∧
    (120 ≤ (120#32).toNat ∧ (450#32).toNat ≤ 450 ∧ (119#32).toNat < 120 ∧ 450 < (451#32).toNat ∧ (31#32).toNat < 32) ∧
    (let s := onA s0 fun x => { x with tlbBusy := [(15, true, 0)] }
     (s.die false).tlbBusy = (15, true, 0) :: [] ∧ (s.die false).percQ = []) ∧
    (let s := onA s0 fun x => { x with twaysQ := [(15, 0xFFFF)], events := [ev0] }
     (s.die false).twaysQ = (15, 0xFFFF) :: [] ∧ (s.die (s.evHome 0)).event? 0 = some ev0 ∧ (0xFFFF#32).extractLsb' 16 16 = 0) ∧
    (let s := onA s0 fun x => { x with events := [ev0] }
     (s.die (s.evHome (s.evsel false))).event? (s.evsel false) = some ev0 ∧ ev0.waits = [] ∧ ev0.chained = []) ∧
    (let s := onA s0 fun x => { x with events := [{ ev0 with waits := [(1, 0, 9)] }] }
     (s.die (s.evHome (s.evsel false))).event? (s.evsel false) = some { ev0 with waits := [(1, 0, 9)] }) := by
  decide +kernel

/-- Die A's submission ring 63 and node ring 31, and the error ring of tenant 1, with descriptors at 0x40 and kernel at
0x100: the descriptor of `r`, and a kernel at its NODEKD. -/
def cells (a : Nat) (l : List Byte) : List Host.Cell := (l.zipIdx.filter fun x => x.1 != 0).map fun x => (a + x.2, x.1)
def kdCells : List Host.Cell :=
  [(0x20100, 75), (0x20101, 68), (0x20102, 1), (0x20104, 1), (0x20105, 8), (0x20106, 1), (0x20108, 64), (0x2010A, 8), (0x2010C, 64),
   (0x20126, 1), (0x20184, 48), (0x20185, 1), (0x20186, 2), (0x20187, 4)]
def sring (ctl : Word) (r : Ring) : State :=
  regs { s0 with mem := s0.mem ++ cells 0x20040 (toBytes 8 r.base ++ toBytes 8 (r.log2cap + r.scope * 256) ++ r.counters ++
      toBytes 8 0 ++ toBytes 8 r.nodekd) ++ kdCells } [(0x110, 1), (0x114, 0x40), (0x2FC, 0x40), (0x2FE, ctl), (0x3FC, 0x40), (0x3FE, ctl)]
def rs4 (c : Nat) (scope : Nat) : Ring := ⟨0x1000, 2, scope, c, c, 0, 0, 0x100, false⟩
def held0 : Held := ⟨1, List.replicate 8 0, 0, 0⟩

/-- Reading a descriptor through tenant 1's tables answers its bytes. -/
theorem witness_RingControlAndRecords :
    (∀ sc, sc = 1 ∨ sc = 2 → let s := sring 1 (rs4 0 sc)
      (63 < 64 ∧ (0x11#32).toNat < 64 ∧ (s.die false).percQ = [] ∧ (sget 0 (s.die false).pcsr 0x2FE : Word).getLsbD 4 = false) ∧
      ∃ u b, s.percLoad (percAgent false 1) (s.srd false 63) 64 = (u, .ok b) ∧ (Ring.ofBytes b).scope = sc ∧ 2 ≤ (Ring.ofBytes b).log2cap ∧
        (Ring.ofBytes b).wellShaped = true) ∧
    (let s := sring 0x11 (rs4 0 2)
     (sget 0 (s.die false).pcsr 0x2FE : Word).getLsbD 4 = true ∧ (sget 0 (s.die false).pcsr 0x3FE : Word).getLsbD 4 = true) ∧
    (let s := sring 1 (rs4 0 2)
     percValid 0x3FE 0x111 = true ∧ (sget 0 (s.die false).pcsr 0x3FE : Word).getLsbD 4 = false ∧
     (s.die false).percQ = [] ∧ ∃ u b u' k, s.percStep (percAgent false 1) 131 (s.qmd false 31) 64 = (u, .ok b) ∧ (Ring.ofBytes b).nodekd ≠ 0 ∧
       (Ring.ofBytes b).scope ≠ 0 ∧ (Ring.ofBytes b).wellShaped = true ∧
       u.percStep (percAgent false 1) 131 (Ring.ofBytes b).nodekd 256 = (u', .ok k) ∧ kdOk (word2048 k) = true ∧ kdBarriersOk (word2048 k) = true) ∧
    (actsFor (.host 2) 1 = false ∧ actsFor (.host 1) 1 = true) ∧
    (∀ v : Nat, v = 4 ∨ v = 5 → let s := sring 0x11 (rs4 0 2)
      bitAt (s.srctl false 63) 5 = false ∧ (s.die false).percQ = [] ∧ (s.gate (percAgent false 1) (s.srd false 63) true).2 = false ∧
      ∃ u b, s.percLoad (percAgent false 1) (s.srd false 63) 64 = (u, .ok b) ∧
        let x := Ring.ofBytes b
        let inc := (v + 2 ^ 32 - x.commit % 2 ^ 32) % 2 ^ 32
        inc = v ∧ x.wellShaped = true ∧ (v = 4 → inc ≤ x.cap - (x.commit - x.retire) ∧
          ∃ y, u.putRing (percAgent false 1) (s.srd false 63) { x with commit := x.commit + inc } x.system = (y, .ok ()))) ∧
    (let s := onA (sring 0x11 (rs4 0 2)) fun x => { x with held := [held0] }
     (s.die false).held.filter (fun k => k.tenant == 1) = [held0] ∧ s.terr false 1 ≠ 0 ∧ s.percParked false 201 = false ∧
     (s.gate (percAgent false 1) (s.terr false 1) false).2 = false ∧
     ∃ u r y, s.ringAt (percAgent false 1) (s.terr false 1) = (u, .ok r) ∧ r.wellShaped = true ∧ 2 ≤ r.scope ∧
       (u.gate (percAgent false 1) (r.slot r.claim) true).2 = false ∧
       u.appendGranule (percAgent false 1) (s.terr false 1) (u.heldBytes false held0) = (y, .done) ∧
       (y.die false).held = (s.die false).held ∧ (y.die false).percQ = []) := by
  refine ⟨?_, by decide +kernel, ⟨by decide +kernel, by decide +kernel, ?_⟩, by decide +kernel, ?_, ?_⟩
  · rintro sc (rfl | rfl)
    · exact ⟨by decide +kernel, _, _, perc_ok _ (by decide +kernel), by decide +kernel, by decide +kernel, by decide +kernel⟩
    · exact ⟨by decide +kernel, _, _, perc_ok _ (by decide +kernel), by decide +kernel, by decide +kernel, by decide +kernel⟩
  · exact ⟨by decide +kernel, _, _, _, _, perc_ok _ (by decide +kernel), by decide +kernel, by decide +kernel, by decide +kernel, perc_ok _ (by decide +kernel), by decide +kernel,
      by decide +kernel⟩
  · rintro v (rfl | rfl)
    · exact ⟨by decide +kernel, by decide +kernel, by decide +kernel, _, _, perc_ok _ (by decide +kernel), by decide +kernel, by decide +kernel,
        fun _ => ⟨by decide +kernel, _, got_ok () _ (by decide +kernel)⟩⟩
    · exact ⟨by decide +kernel, by decide +kernel, by decide +kernel, _, _, perc_ok _ (by decide +kernel), by decide +kernel, by decide +kernel, fun h => absurd h (by decide)⟩
  · exact ⟨by decide +kernel, by decide +kernel, by decide +kernel, by decide +kernel, _, _, _, got_ok (rs4 0 2) _ (by decide +kernel), by decide +kernel,
      by decide +kernel, by decide +kernel, post_done _ (by decide +kernel), by decide +kernel, by decide +kernel⟩

/-- Die A with one change, both dies serving. -/
def dA (f : Die → Die) : State := onA up0 f
/-- Sequencer 1 of die A with this record, device time and hangs. -/
def hung (at_ : Nat) (l : List Nat) (busy : Bool) : State :=
  { dA fun x => { x with dtime := at_, hangs := l, busy := busy } with seqs := [(⟨false, false, 1⟩, { SeqRec.reset with lastBeat := 100 })] }
def swap (at_ : Nat) (ph : FwPhase) : State := onA s0 fun x => { x with dtime := at_, fw := ph, fwImage := true }

theorem witness_SupervisionEvents :
    (∀ q, q ∈ [(⟨false, false, 3⟩ : SeqId), ⟨true, true, 9⟩] → (q.trivet = true ∨ q.num < 4) ∧ (s0.seq q).halted = false ∧
      (s0.seq q).isolated = false ∧ s0.cutOff (.seq q) = false ∧ (s0.die q.die).fw ≠ .quiescing ∧ ∀ e ∈ (s0.die q.die).events, e.chained = []) ∧
    ((onA s0 fun x => { x with pwrPending := some 150 }).die false).pwrPending = some 150 ∧
    ((s0.seq ⟨false, false, 3⟩).halted = false ∧ silent.cutOff (.seq qs) = true) ∧
    ((swap 1000001 .quiescing).die false).powerBeat + 1000000 < ((swap 1000001 .quiescing).die false).dtime ∧
    ((s0.die false).fw ≠ .running ∧ ((swap 0 .running).die false).fw = .running ∧ ((swap 0 .running).die false).fwImage = true ∧
      ((swap 0 .running).die false).fwImage ≠ false) ∧
    (((swap 1000000 .quiescing).die false).fw = .quiescing ∧ ((swap 1000000 .quiescing).die false).fwImage = true ∧
      ((swap 1000000 .quiescing).die false).dtime = ((swap 1000000 .quiescing).die false).powerBeat + 1000000) ∧
    ((swap 999999 .quiescing).die false).dtime < ((swap 999999 .quiescing).die false).powerBeat + 1000000 ∧
    (∀ k, k ∈ [(1000099, []), (1000100, []), (11000101, [1000100]), (11000100, [1000100])] →
      let s := hung k.1 k.2 true
      (alook ⟨false, false, 1⟩ s.seqs).isSome = true ∧ (s.die false).serving = true ∧ (s.die false).halted = false ∧
      (s.die false).fw ≠ .quiescing ∧ s.dieA.busy = true ∧ (s.seq ⟨false, false, 1⟩).halted = false ∧ (s.seq ⟨false, false, 1⟩).isolated = false ∧
      ((s.die false).dtime < 1000100 ↔ k.1 = 1000099) ∧
      ((∃ t ∈ (s.die false).hangs, (s.die false).dtime ≤ t + 10000000) ↔ k.1 = 11000100)) ∧
    ((hung 999999 [] false).die false).powerBeat + 1000000 > ((hung 999999 [] false).die false).dtime ∧
    ((hung 1000000 [] false).die false).powerBeat + 1000000 ≤ ((hung 1000000 [] false).die false).dtime ∧
    (alook ⟨false, false, 1⟩ (hung 0 [] false).seqs).isSome = true := by
  decide +kernel

def hold (p : CorePower) (at_ : Nat) (l : List Nat) : State := dA fun x => { x with power := [(47, p)], dtime := at_, wakes := l }
/-- The limit of the module, the one last acted on, and whether die B serves. -/
def limit (v : Word) (seen : Nat) (b : Bool) : State :=
  { up0 with dieA := { up0.dieA with tcsr := [(0x100, v)], limitSeen := seen }, dieB := { up0.dieB with serving := b } }
def rung (l r q : List (Nat × Nat)) : State := dA fun x => { x with levels := l, rails := r, ratios := q }

theorem witness_PowerEvents :
    ((s0.die false).serving = false ∧ (up0.die false).serving = true ∧ (up0.die false).dtime / 20000 ≤ (up0.die false).powerAt) ∧
    (let s := { dA fun x => { x with dtime := 20000 } with blocks := [seedBlock 0 1] }
     (s.die false).serving = true ∧ (s.die false).powerAt < (s.die false).dtime / 20000 ∧ (s.die false).frozen = false ∧
     (∀ b ∈ s.blocks, ¬ (b.die = false ∧ b.cluster = 11)) ∧
     (∃ b ∈ s.blocks, b.die = false ∧ b.cluster = 0 ∧ min b.cls (bits (s.csr false (0x100 + 16 * b.tenant)) 7 6) = 0) ∧
     ∀ b ∈ s.blocks, min b.cls (bits (s.csr false (0x100 + 16 * b.tenant)) 7 6) ≤ 0) ∧
    ((dA fun x => { x with frozenGrants := true }).die false).frozen = true ∧
    (let s := hold (.holding 5) 20005 []
     (s.die false).corePower 47 = .holding 5 ∧ (s.die false).dtime = 5 + 20000 ∧ ∀ p ∈ s.warps, s.placeOf p ≠ some (false, 47)) ∧
    ((hold (.holding 5) 20004 []).die false).dtime < 5 + 20000 ∧
    (∀ l, l ∈ [[100, 101, 102, 103], [100, 101, 102]] → let s := hold (.waking 5) 499 l
      (s.die false).corePower 47 = .waking 5 ∧ (4 ≤ ((s.die false).wakes.filter fun t => decide ((s.die false).dtime < t + 400)).length ↔
        l.length = 4)) ∧
    (∀ l, l ∈ [([(11, 7)], [], []), ([(11, 7)], [(11, 850)], []), ([], [], [])] → let x := (rung l.1 l.2.1 l.2.2).die false
      let r := [600, 620, 640, 660, 700, 740, 780, 850].getD (sget 0 x.levels 11) 850
      let q := [6, 8, 9, 10, 12, 13, 14, 16].getD (sget 0 x.levels 11) 16
      if l.1 = [] then r ≤ sget 600 x.rails 11 ∧ sget 6 x.ratios 11 = q
      else if l.2.1 = [] then sget 600 x.rails 11 < r else r ≤ sget 600 x.rails 11 ∧ sget 6 x.ratios 11 ≠ q) ∧
    (let s := limit 159 160 true
     (s.die false).limitSeen = 160 ∧ s.jobs = [] ∧ s.blocks = [] ∧ s.dieA.halted = false ∧
     ∀ x, (s.die x).lost = false ∧ (s.die x).withdrawing = false ∧ ∀ q, q < 32 → bitAt (s.qmctl x q) 4 = false) ∧
    (let s := { limit 200 199 false with dieB := { up0.dieB with serving := false, lost := true, withdrawing := true } }
     (s.die false).limitSeen = 199 ∧ (s.die true).withdrawing = true ∧ (s.die true).serving = false ∧
     (s.die false).withdrawing = false ∧ (s.die false).serving = true ∧ s.apart = [] ∧ s.poison = []) ∧
    (∀ v, v ∈ [((159 : Nat), (160 : Nat), true), (200, 199, false), (160, 160, true), (199, 120, false)] →
      let s := limit (.ofNat 32 v.1) v.2.1 v.2.2
      let l := (sget (tcsrDefault 0x100) (s.die false).tcsr 0x100 : Word).toNat
      (s.die false).frozen = false ∧ (s.die false).serving = true ∧ s.dieA.busy = false ∧ s.dieB.busy = false ∧
      ((l < 160 ∧ 160 ≤ (s.die false).limitSeen ∧ s.dieA.serving = true ∧ s.dieB.serving = true) ↔ v.1 = 159) ∧
      ((200 ≤ l ∧ (s.die false).limitSeen < 200 ∧ (s.dieA.serving = false ∨ s.dieB.serving = false)) ↔ v.1 = 200)) := by
  decide +kernel

theorem witness_DieTransitions :
    (dA fun x => { x with busy := true }).dieA.busy = true ∧
    (up0.dieA.busy = false ∧ up0.dieB.busy = false ∧ up0.jobs = [] ∧ up0.blocks = [] ∧
      (∀ x, (up0.die x).serving = true ∧ (up0.die x).lost = false ∧ (up0.die x).withdrawing = false ∧
        (∀ q, q < 32 → bitAt (up0.qmctl x q) 4 = false) ∧ ∀ e ∈ (up0.die x).events, e.chained = [])) ∧
    (let s := dA fun x => { x with withdrawing := true, serving := false, lost := true }
     s.dieA.busy = false ∧ s.dieB.busy = false ∧ (s.die false).withdrawing = true ∧ (s.die false).serving = false ∧
     (s.die true).withdrawing = false ∧ s.apart = [] ∧ s.poison = []) ∧
    ((dA fun x => { x with lost := true }).die false).lost = true ∧ (up0.die (!false)).lost = false ∧
    (((dA fun x => { x with retries := 7 }).die false).retries < 8 ∧ ¬ ((dA fun x => { x with retries := 8 }).die false).retries < 8) ∧
    (∀ k, k ∈ [(299999, none), (300000, none), (299999, some 250000), (299999, some 249999), (299999, some 249998)] →
      let x := (dA fun x => { x with dtime := k.1, retrainAt := k.2 }).die false
      x.lost = false ∧ (up0.die true).lost = false ∧
      ((x.dtime < x.trivetBeat + 300000 ∧ (∀ t, t ∈ x.retrainAt → x.dtime < t + 50000)) ↔ (k = (299999, none) ∨ k = (299999, some 250000))) ∧
      (x.trivetBeat + 300000 ≤ x.dtime ↔ k = (300000, none))) := by
  decide +kernel

theorem witness_BootTimeAndAttestation :
    (up0.dieA.up = true ∧ State.reset.dieA.up = false ∧ State.reset.dieB.up = false) ∧
    ((dA fun x => { x with admitted := true }).dieA.admitted = true ∧ up0.dieA.admitted = false ∧ up0.dieB.admitted = false ∧
      (0 : Int) < 1) ∧ ((up0.die true).up = true ∧ (s0.die true).up = false) ∧
    (∀ t, t ∈ [9, 10] → let x := (dA fun x => { x with gates := [(1, 255)], gateSince := [(1, 4)], gateList := [(511, 6 * 256 + 0xFF)], dtime := t }).die false
      (sget 0 x.gateSince 1 + sget 0 x.gateList (256 * 1 + sget 0 x.gates 1) / 256 ≤ x.dtime ↔ t = 10)) := by
  decide +kernel

/-- Ingest stream 23 of die A, tenant 1: its ring of two granules' room, its buffers and granules in the page of tenant 1. -/
def ringI (claim : Nat) : Ring := ⟨0x1000, 1, 2, claim, claim, 0, 0, 0, false⟩
def stream0 : BitVec 256 := BitVec.ofNat 256 (0x40 + 0x2000 * 2 ^ 64 + 128 * 2 ^ 128 + 2 ^ 176 + 1 * 2 ^ 180)
def sin (claim : Nat) : State :=
  { (dA fun x => { x with ingest := [(23, ⟨stream0, 0, false⟩)] }) with
    jobs := s0.jobs, blocks := s0.blocks
    mem := s0.mem ++ cells 0x20040 (toBytes 8 0x1000 ++ toBytes 8 (1 + 2 * 256) ++ (ringI claim).counters) }
def gI : Agent := ingestAgent false 1
def frame0 : List Byte := [1, 2, 3]

theorem witness_HostAndIngest :
    (∀ h : Bool, ∃ pa, frame0 ≠ [] ∧ homeOf pa = some h ∧ homeOf (pa + frame0.length - 1) = some h ∧ (up0.die h).lost = false) ∧
    ((dA fun x => { x with lost := true }).die false).lost = true ∧ homeOf (2 ^ 45) = none ∧ up0.poison = [] ∧
      (match FrameSource.csi 3 3 .raw12 with
        | .csi m c ty => m < 4 ∧ c < 4 ∧ ∀ x, ty ≠ .other x
        | .ethernet _ c => c < 8) ∧
    (let s := sin 2
     ingestOk stream0 = true ∧ s.frames = [] ∧ (s.gate gI (ingestRing stream0) true).2 = false ∧ sget ⟨0, 0, false⟩ (s.die false).ingest 23 = (⟨stream0, 0, false⟩ : Ingest) ∧ (s.die false).serving = true ∧
     ∃ u r, s.ringAt gI (ingestRing stream0) = (u, .ok r) ∧ r.wellShaped = true ∧ r.orderOk = true ∧ r.cap ≤ r.claim - r.retire) ∧
    (let s := sin 0
     (s.die false).serving = true ∧ s.frames = [] ∧ (s.gate gI (ingestRing stream0) true).2 = false ∧
     ∃ u r v x y, s.ringAt gI (ingestRing stream0) = (u, .ok r) ∧ r.wellShaped = true ∧ r.orderOk = true ∧ r.claim - r.retire < r.cap ∧
       (u.gateAll gI (ingestBuf stream0 + r.claim % r.cap * 128) (min frame0.length 128) true).2 = false ∧
       (u.gate gI (r.base + 64 * (r.claim % r.cap)) true).2 = false ∧
       u.save gI (ingestBuf stream0 + r.claim % r.cap * 128) (frame0.take 128) = (v, .ok ()) ∧
       v.save gI (r.base + 64 * (r.claim % r.cap)) (frameGranule frame0.length (decide (128 < frame0.length)) (v.die false).dtime)
         = (x, .ok ()) ∧
       x.putRing gI (ingestRing stream0) (commitMarks { r with claim := r.claim + 1 }
         (x.marks (x.ringKey gI (ingestRing stream0))) [r.claim]).1 r.system = (y, .ok ())) := by
  refine ⟨?_, by decide +kernel, by decide +kernel, by decide +kernel, ⟨by decide, by decide, fun _ h => nomatch h⟩, ?_, ?_⟩
  · rintro (_ | _)
    · exact ⟨0x20000, by decide +kernel⟩
    · exact ⟨2 ^ 36 + 0x20000, by decide +kernel⟩
  · exact (join5 (by decide +kernel) ⟨_, _,
      got_ok (rs4 0 2) _ (by decide +kernel), by decide +kernel⟩)
  · exact ⟨by decide +kernel, by decide +kernel, by decide +kernel, _, _, _, _, _, got_ok (rs4 0 2) _ (by decide +kernel),
      join5 (by decide +kernel) ⟨got_ok () _ (by decide +kernel),
      got_ok () _ (by decide +kernel), got_ok () _ (by decide +kernel)⟩⟩

def copy0 : CopyCmd := ⟨7, false, 2, 0, 0, who0, 5, 0, true, 0, 0, [], none, []⟩
def hung2 (t : Nat) (l : List (Nat × Nat)) : State :=
  onA { s0 with copies := [copy0] } fun x => { x with dtime := t, worked := [(2, 5)], tcsr := [(0x112, 2)], restarts := l }
def killable : State := { s0 with jobs := [{ seedJob 1 with card := seedCard ||| (1#2048 <<< 33) }] }

theorem witness_ErrorsAndSpares :
    (homeOf (2 ^ 36) = some true ∧ (up0.die true).lost = false) ∧
    (let s := killable
     let j := s.jobs.headD (seedJob 1)
     s.blocks = [b0] ∧ b0.job = 1 ∧ b0.halted = false ∧ b0.cluster * 4 + b0.base ≤ 0 ∧ 0 < b0.cluster * 4 + b0.base + kdSpan b0.kd ∧
     s.job? 1 = some j ∧ j.gone = false ∧ j.inst? b0.inst = some seedInst ∧ j.batch = none ∧ j.mayKill = true ∧
     seedInst.switched = false ∧ seedInst.rollbacks < 3 ∧ j.windows = [] ∧ s.terr j.die j.tenant = 0 ∧ s.terr j.die 0 = 0) ∧
    ((∀ c ∈ s0.copies, c.die = false → c.core = 2 → c.started = false) ∧ (∃ c ∈ [copy0], c.die = false ∧ c.core = 2 ∧ c.started = true ∧ ({ s0 with copies := [copy0] } : State).copyHeld c = false)) ∧
    ((hung2 1000004 []).die false).dtime < 5 + 1000000 ∧
    (∀ l, l ∈ [[], [(2, 3)]] → let s := hung2 1000005 l
      (∃ c ∈ s.copies, c.die = false ∧ c.core = 2 ∧ c.started = true ∧ s.copyHeld c = false) ∧
      (alook 2 (s.die false).worked).getD 0 + 1000000 ≤ (s.die false).dtime ∧ (s.die false).tcsrAt 0x112 ≠ 0 ∧
      ((s.die false).tcsrAt 0x112 ≤ inDay ((s.die false).restarts ++ [(2, (s.die false).dtime)]) 2 (s.die false).dtime ↔ l = [(2, 3)])) ∧
    (∀ n, n ∈ [0, 1] → let s := dA fun x => { x with
        tcsr := [(0x110, 2)], rowsSpared := [(47, n * 10 ^ 9)], rowErrs := [(47, 9, 0), (47, 8, 0), (47, 9, 0)] }
      (s.die false).rowDue 47 9 = true ∧ (s.die false).rowDue 47 8 = false ∧ s.bad = []) ∧
    (∀ l, l ∈ [[], [(1, 0), (2, 1), (3, 2), (4, 3)]] → let s := dA fun x => { x with marked := [47], spares := l }
      (s.die false).marked.contains 47 = true ∧ (s.die false).marked.contains 46 = false ∧ (∀ b ∈ s.blocks, b.spans false 47 = false) ∧
      ((s.die false).spares.length < 4 ↔ l = [])) ∧ (∃ b ∈ s0.blocks, b.spans false 0 = true) := by
  decide +kernel

/-- A command of the seeded block with these word, start and bytes moved, pushed as PUSH 5 of its warp. -/
def cmd (w : Nat) (started : Bool) (moved : Nat) : CopyCmd := ⟨7, false, 0, 0, 0, who0, 5, BitVec.ofNat 512 w, started, moved, 0, [], none, []⟩
def cw (opc x : Nat) : Nat := x + opc * 2 ^ 44 + 0xF000000000100 * 2 ^ 64
def toLocal : Nat := 0xF000000000200 * 2 ^ 128
def sc (c : CopyCmd) : State := { s0 with copies := [c] }
/-- The seeded state with the command and the barrier object 7. -/
def scb (c : CopyCmd) (o : Barrier) : State := { sc c with mem := putBytes s0.mem (barrierKey 0 0 7) (toBytes 16 o.toNat) }
def window1 : Window := ⟨0x40, 0x2000, 0x1000, 0x30000, 0x40000, false, []⟩
def sigAt (opc : Nat) : Nat := cw opc 16 + 2 ^ 43 + 7 * 2 ^ 48
def oneAlone (s : State) (c : CopyCmd) : Prop := s.block? c.block = some b0 ∧ s.copiesOf c.die c.core c.block = [c]

theorem witness_CopyEngineEvents :
    (let c := cmd (0xFFFFFF + 2 * 2 ^ 240 + 3 * 2 ^ 224) true 0
     0xFFFFFE < c.xlen ∧ 2 < c.rows ∧ 3 < c.planes ∧ c.opc ≠ 4 ∧ (cmd (4 * 2 ^ 44) true 0).opc = 4) ∧
    (let c := cmd (cw 0 16 + toLocal + 2 ^ 56) false 0
     oneAlone (sc c) c ∧ c.started = false ∧ (sc c).job? b0.job = some (seedJob 1) ∧
     (sc { c with block := 9 }).mayStart { b0 with halted := true } c = false ∧ (sc c).mayStart b0 c = true) ∧
    (∀ w, w ∈ [(cw 0 0 + toLocal, 0), (cw 1 16 + toLocal + 2 ^ 39, 384), (cw 0 16 + toLocal, 999)] →
      let c := cmd (w.1 + if w.2 = 384 then 2 ^ 511 else 0) false 0
      (sc c).mayStart b0 c = true ∧ (sc c).copyError b0 (seedJob 1) c = if w.2 = 999 then none else some w.2) ∧
    (∀ w, w ∈ [cw 0 16 + toLocal, cw 1 16 + toLocal + 2 ^ 39, cw 3 16 + 0x2000 * 2 ^ 128] →
      let c := cmd w true 0
      let s := sc c
      oneAlone s c ∧ c.started = true ∧ c.opc < 4 ∧ c.opc ≠ 2 ∧ c.moved < c.total ∧ s.copyHeld c = false ∧ c.snap = [] ∧
      c.pieceAt c.moved = c.total - c.moved ∧ s.copyRemote c = none ∧ s.gate (s.copyAgent c c.spos) (c.srcAt c.moved) false = (s, false) ∧
      (c.opc = 1 ∨ s.gate (s.copyAgent c c.spos) (c.dstAt c.moved) true = (s, false)) ∧
      ∃ u bs y, s.load (s.copyAgent c c.spos) (c.srcAt c.moved) (c.total - c.moved) = (u, .ok bs) ∧
        u.copyPut c (c.dstAt c.moved) bs (if c.opc = 1 then c.targets else [c.spos]) = (y, .ok ())) ∧
    (let c := cmd (cw 2 16) true 0
     let s := sc c
     oneAlone s c ∧ c.started = true ∧ c.opc = 2 ∧ c.moved < c.total ∧ s.copyHeld c = false ∧ c.snap = [] ∧
     c.pieceAt c.moved = c.total - c.moved ∧ s.gate (s.copyAgent c c.spos) (c.srcAt c.moved) false = (s, false) ∧
     (∀ r ∈ (b0.fifo (fifoKey c.spos c.fifo)).runs, ¬ (r.feed = true ∧ r.id = c.id)) ∧
     ∃ u bs, s.load (s.copyAgent c c.spos) (c.srcAt c.moved) (c.total - c.moved) = (u, .ok bs) ∧ u.block? c.block = some b0) ∧
    (let c := cmd (4 * 2 ^ 44 + (1 * 2 ^ 8) * 2 ^ 64) false 0
     let j := { seedJob 1 with windows := [window1] }
     let s := { sc c with jobs := [j] }
     oneAlone s c ∧ c.started = false ∧ c.opc = 4 ∧ s.job? b0.job = some j ∧ s.mayStart b0 c = true ∧
     s.copyError b0 j c = none ∧ s.warp? c.who = some w0) ∧
    (∀ o, o ∈ [(⟨true, false, 2, 2, 0, 0, 0⟩ : Barrier), ⟨false, false, 2, 2, 0, 0, 0⟩] →
      let c := cmd (sigAt 0 + toLocal) true 16
      let s := scb c o
      s.copies.find? (fun d => d.id == 7) = some c ∧ s.block? c.block = some b0 ∧ c.started = true ∧ c.sigv = true ∧ 0 ∈ c.targets ∧
      c.creditedAt 0 < s.delivered c ∧ c.stuck = none ∧ b0.halted = false ∧ s.badIn (barrierKey b0.handle 0 c.sig) 16 = false ∧
      s.barrier b0.handle 0 c.sig = o ∧ o.arrb + 16 < 2 ^ 32 ∧ s.early = [] ∧ b0.overflow = []) ∧
    (∀ m, m ∈ [15, 16] → let c := cmd (cw 0 16 + toLocal) true m
      (sc c).copies.find? (fun d => d.id == 7) = some c ∧ (sc c).warp? c.who = some w0 ∧ c.sigv = false ∧
      (sc c).remotes = [] ∧ ((sc c).delivered c = c.total ↔ m = 16)) := by
  refine ⟨by decide +kernel, ?_, by decide +kernel, ?_, ?_, ?_, by decide +kernel, by decide +kernel⟩
  · exact ⟨⟨by decide +kernel, by decide +kernel⟩, by decide +kernel⟩
  · simp only [List.mem_cons, List.not_mem_nil, or_false]
    rintro w (rfl | rfl | rfl)
    all_goals exact ⟨⟨by decide +kernel, by decide +kernel⟩, join5 (by decide +kernel) (join5 (by decide +kernel)
      ⟨_, _, _,
      got_ok [] _ (by decide +kernel), got_ok () _ (by decide +kernel)⟩)⟩
  · exact ⟨⟨by decide +kernel, by decide +kernel⟩, join5 (by decide +kernel) (join3 (by decide +kernel) ⟨_, _, got_ok [] _ (by decide +kernel), by decide +kernel⟩)⟩
  · exact ⟨⟨by decide +kernel, by decide +kernel⟩, by decide +kernel⟩

/-- A context with map at 0x4000 and ring descriptor at 0x40; the block that holds it; a RAY with direction (1, 0, 0). -/
def cx : BitVec 512 := BitVec.ofNat 512 (0x4000 * 2 ^ 64 + 0xC0000000 * 2 ^ 128 + 0x40 * 2 ^ 256)
def bq : Block := { b0 with ctxs := [(0, cx)] }
def rayWord : BitVec 512 := BitVec.ofNat 512 (2 ^ 44 + 0x3F800000 * 2 ^ 160 + 0x3F800000 * 2 ^ 288)
def tcmd (w : BitVec 512) : TravCmd := ⟨false, 0, 0, 0, who0, 5, w⟩
def st (w : BitVec 512) (b : Block) : State := { s0 with travQ := [tcmd w], blocks := [b] }

def beam0 : Shape := .beam [0, 0, 0] [0x3F800000, 0, 0] [0, 0, 0] [0, 0, 0] 0 0x3F800000 0 0 0 0
def pathQ (i : Option Item) (out : List (BitVec 512)) : TravPath := ⟨0, i, [], [], out, [], []⟩
def item0 (r : Word) : Item := ⟨r, beam0, [0x80000000], 0, 1⟩
def query0 (ps : List TravPath) : Query :=
  ⟨9, false, 0, 0, 0, who0, 5, rayWord, cx, ps, false, false, false, false, false, false, 1, 0, 1, false⟩
/-- The query's state: its record ring, a user leaf at map unit 0, an instance of map unit 2. -/
def sq9 (q : Query) : State :=
  { s0 with
    blocks := [bq]
    queries := [q]
    mem := s0.mem ++ cells 0x20040 (toBytes 8 0x1000 ++ toBytes 8 (2 + 2 * 256) ++ (rs4 0 2).counters) ++
      [(0x24000, 2), (0x24070, 1), (0x24073, 0xC0), (0x242C3, 0xC0)] }

/-- The path that stands at a reference, its query, and what reading the node gives. -/
def pathAt (r : Word) : TravPath := pathQ (some (item0 r)) []
def queryAt (r : Word) : Query := query0 [pathAt r]
def nodeOf (r : Word) : State × Option TravPath :=
  ((sq9 (queryAt r)).setQuery ((queryAt r).setPath (pathAt r))).readNode (queryAt r) (pathAt r) (item0 r) 64

/-- The hypotheses on a visited node: the state and path that result are those of `nodeOf`. -/
def seesAt (r : Word) (u : State) (p : TravPath) : Prop :=
  ((sq9 (queryAt r)).setQuery ((queryAt r).setPath (pathAt r))).readNode (queryAt r) (pathAt r) (item0 r) 64 = (u, some p) ∧
    (u.query? (queryAt r).id).isSome = true ∧ ∀ x ∈ (item0 r).needs p, (alook x.1 p.seen).isSome = true

theorem some_ok {α β : Type} (z : β) (x : α × Option β) (h : x.2.isSome = true) : x = (x.1, some (x.2.getD z)) := by
  rcases x with ⟨s, _ | _⟩ <;> simp_all

theorem seesAt_of (r : Word) (h1 : (nodeOf r).2.isSome = true) (h2 : ((nodeOf r).1.query? (queryAt r).id).isSome = true)
    (h3 : ((item0 r).needs ((nodeOf r).2.getD (pathAt r))).all fun x => (alook x.1 ((nodeOf r).2.getD (pathAt r)).seen).isSome) :
    seesAt r (nodeOf r).1 ((nodeOf r).2.getD (pathAt r)) :=
  ⟨some_ok _ _ h1, h2, fun x hx => List.all_eq_true.1 h3 x hx⟩

theorem witness_TraversalEvents :
    (∀ x : Bool, let w := if x then rayWord else cx
      let s := st w bq
      s.block? 0 = some bq ∧ s.nextTrav false 0 = some (tcmd w) ∧ s.travReady (tcmd w) = true ∧ travError bq w = none ∧
      s.warp? who0 = some w0 ∧ ((TravWord.ofBits w).opc = 0 ↔ x = false) ∧ (startShape rayWord).isSome = true ∧
      ∀ c, s.nextTrav false 0 = some c → c.block ≠ 7) ∧
    (let s := st rayWord { b0 with ctxs := [] }
     s.block? 0 = some { b0 with ctxs := [] } ∧ s.nextTrav false 0 = some (tcmd rayWord) ∧ travError b0 rayWord = some 40) ∧
    (∀ n, n ∈ [0, 0x3FFFFFFF, 0x40000001, 0x80000001, 0xC0000000, 0x80000002, 0x40000008] →
      let r := BitVec.ofNat 32 n
      let p := pathAt r
      let q := queryAt r
      let s := sq9 q
      s.query? q.id = some q ∧ q.path? p.id = some p ∧ q.closed = false ∧ s.parks = [] ∧ p.out = [] ∧ p.spill = [] ∧ p.waiting = [] ∧
      p.cur = some (item0 r) ∧ ((item0 r).ref.toNat < 2 ^ 30 ↔ n ∈ [0, 0x3FFFFFFF]) ∧
      ((item0 r).ref.toNat / 2 ^ 30 = 1 ∧ (item0 r).ref.toNat % 8 ≠ 0 ∨ (item0 r).ref.toNat / 2 ^ 30 = 2 ∧ (item0 r).ref.toNat % 2 ≠ 0 ↔
        n ∈ [0x40000001, 0x80000001]) ∧ ((item0 r).ref.toNat / 2 ^ 30 = 3 ↔ n = 0xC0000000) ∧ (item0 r).chain.length < 4) ∧
    (let q := queryAt 0xC0000000
     let va := (ctxMap q.ctx + 32 * ((item0 0xC0000000).ref.toNat % 2 ^ 30)) % 2 ^ 64
     (sq9 q).gate ((sq9 q).travAgent q) va false = (sq9 q, false) ∧
     ∃ v bs, (sq9 q).load ((sq9 q).travAgent q) va 8 = (v, .ok bs)) ∧
    (∃ u r, seesAt 0x40000008 u r ∧ (survivors (queryAt 0x40000008).grid beam0 (r.node 256)).1 = []) ∧
    (∃ u r, seesAt 0x40000010 u r ∧ ∃ c, (survivors (queryAt 0x40000010).grid beam0 (r.node 256)).1 = c :: [] ∧
      beam0.splittable = false) ∧
    (∃ u r, seesAt 0xC0000000 u r ∧ ofBytes ((r.node 8).take 1) = 2 ∧ (queryAt 0xC0000000).w.culle = false) ∧
    (∃ u r, seesAt 0x80000002 u r ∧ refType (BitVec.ofNat 32 (ofBytes (((r.node 64).drop 48).take 4))) ≠ 0 ∧
      refBroken (BitVec.ofNat 32 (ofBytes (((r.node 64).drop 48).take 4))) = false) ∧
    (let p := pathQ none [5]
     let q := query0 [p]
     (sq9 q).query? q.id = some q ∧ q.path? p.id = some p ∧ p.out = 5 :: [] ∧ (sq9 q).parks = [] ∧
     ∃ u, (sq9 q).commitRecord q 5 = (u, .done) ∧ u.query? q.id = some q) ∧
    (let q := query0 [pathQ none []]
     (sq9 q).query? q.id = some q ∧ q.closed = false ∧ (sq9 q).parks = [] ∧ (sq9 q).conts = [] ∧
     (∀ p ∈ q.paths, p.cur = none ∧ p.stack = [] ∧ p.spill = [] ∧ p.out = [] ∧ p.waiting = []) ∧ q.w.sigv = false ∧
     ∃ u, (sq9 q).commitRecord q q.doneRecord = (u, .done) ∧ u.warp? q.who = some w0 ∧ (u.block? q.block).isSome = true) ∧
    (let q := query0 []
     let c : Cont := ⟨9, item0 0xC0000000⟩
     let s := { sq9 q with conts := [c] }
     s.unitConts false 0 = c :: [] ∧ s.contextsUsed false 0 < 256 ∧ s.query? c.query = some q) := by
  have sees : ∀ n, n ∈ [(0x40000008 : Nat), 0x40000010, 0xC0000000, 0x80000002] →
      let r := BitVec.ofNat 32 n
      seesAt r (nodeOf r).1 ((nodeOf r).2.getD (pathAt r)) := by
    simp only [List.mem_cons, List.not_mem_nil, or_false]
    rintro n (rfl | rfl | rfl | rfl) <;>
      exact seesAt_of _ (by decide +kernel) (by decide +kernel) (by decide +kernel)
  refine ⟨?_, by decide +kernel, by decide +kernel, ?_, ⟨_, _, sees _ (by simp), by decide +kernel⟩,
    ⟨_, _, sees 0x40000010 (by simp), ⟨0, 0, 0xC0000000, .all⟩, by decide +kernel, by decide +kernel⟩,
    ⟨_, _, sees _ (by simp), by decide +kernel, by decide +kernel⟩, ⟨_, _, sees 0x80000002 (by simp), by decide +kernel, by decide +kernel⟩,
    ?_, ?_, by decide +kernel⟩
  · rintro (_ | _)
    · refine (join5 (by decide +kernel) (join2 (by decide +kernel) (fun c h => ?_)))
      have : c = tcmd cx := Option.some.inj (h.symm.trans (by decide +kernel))
      subst this; decide
    · refine (join5 (by decide +kernel) (join2 (by decide +kernel) (fun c h => ?_)))
      have : c = tcmd rayWord := Option.some.inj (h.symm.trans (by decide +kernel))
      subst this; decide
  · exact ⟨by decide +kernel, _, _, got_ok [] _ (by decide +kernel)⟩
  · exact ⟨by decide +kernel, by decide +kernel, by decide +kernel, by decide +kernel, _, post_done _ (by decide +kernel), by decide +kernel⟩
  · exact (join5 (by decide +kernel) ⟨by decide +kernel, _,
      post_done _ (by decide +kernel), by decide +kernel⟩)


/-- A job of tenant 1 whose instance 0 has its one block to place; a state that waits for it; its context record. -/
def instP : Inst := { seedInst with first := false, nextBlock := 0 }
def jobP : Job := { seedJob 1 with insts := [instP] }
def sp : State := { regs up0 [(0x110, 1)] with nextId := 5, jobs := [jobP] }
def spot0 : Spot := ⟨0, 0, [0]⟩
def ctx0 : CtxRec := ⟨1, 0, b0, [(who0, w0)], [], [], [], [], [], List.replicate 64 0, false, 0x1000⟩
/-- With a record of its block in the arena of die A, which tenant 0's page of virtual address 0 holds, if `mapped`. -/
def spr (mapped : Bool) : State :=
  { regs sp [(0x100, 1), (0x110, 1)] with
    jobs := [{ jobP with insts := [{ instP with first := true, nextBlock := 1 }] }], ctxRecs := [ctx0], mem := if mapped then s0.mem else [] }

/-- The premises of a placement by die A of the instance `i` of `j`. -/
def dueP (s : State) (j : Job) (i : Inst) : Prop := s.paused false = false ∧ s.serves false = true ∧ s.queue = [(j, i)] ∧
    s.heldBack j i = false ∧ j.coop = false ∧ s.job? j.id = some j ∧ j.inst? i.no = some i ∧ ∀ b ∈ s.blocks, b.order < s.nextId
def awakeP (s : State) (x : Spot) (span : Nat) : Prop := ∀ c, x.cluster * 4 + x.base ≤ c → c < x.cluster * 4 + x.base + span →
    (s.die false).corePower c ≠ .gated ∧ ∀ at_, (s.die false).corePower c ≠ .waking at_

theorem awake_of (s : State) (h : (s.die false).corePower 0 = .awake) : awakeP s spot0 1 := by
  rintro c - hc
  obtain rfl : c = 0 := by simp [spot0] at hc; omega
  simp [h]

theorem witness_BlocksComeAndGo :
    (dueP sp jobP instP ∧ sp.ctxRecs = [] ∧
      sp.chooseDie (fun _ => false) (sp.launchDies jobP 0) seedKd (kdSeats seedKd) = some (false, spot0) ∧ awakeP sp spot0 (kdSpan seedKd)) ∧
    (let j := { jobP with insts := [{ instP with first := true, nextBlock := 1 }] }
     let i : Inst := { instP with first := true, nextBlock := 1 }
     (∀ m, dueP (spr m) j i ∧ (spr m).ctxRecs = [ctx0] ∧ (spr m).recParked false j.id i.no = false) ∧ ctx0.job = j.id ∧ ctx0.inst = i.no ∧
      ctx0.credits = [] ∧ ctx0.block.kd = j.kd ∧
      (spr true).chooseDie (fun _ => false) ((spr true).launchDies j 0) j.kd ctx0.seats = some (false, spot0) ∧
      (let r := (spr true).readRecords false j [ctx0]
       r.2 = true ∧ dueP r.1 j i ∧ r.1.ctxRecs = [ctx0] ∧
         r.1.chooseDie (fun _ => false) (r.1.launchDies j 0) j.kd ctx0.seats = some (false, spot0) ∧ awakeP r.1 spot0 (kdSpan j.kd)) ∧
      ((spr false).planFor j i).isSome = true ∧ (((spr false).planFor j i).bind fun p => p.1.head?) = some false ∧
      ((spr false).readRecords false j [ctx0]).2 = false) ∧
    up0.nextPlacement false = none ∧ (s0.block? 0 = some b0 ∧ s0.blockBusy b0 = true) ∧
    (let s := { s0 with warps := [] }
     s.block? 0 = some b0 ∧ s.blockBusy b0 = false) := by
  refine ⟨⟨by unfold dueP; decide +kernel, by decide +kernel, by decide +kernel, awake_of _ (by decide +kernel)⟩,
    ⟨fun m => ⟨by unfold dueP; cases m <;> decide +kernel, by cases m <;> decide +kernel, by cases m <;> decide +kernel⟩, join5 (by decide +kernel)
      ⟨⟨by decide +kernel, by unfold dueP; decide +kernel, by decide +kernel, by decide +kernel, awake_of _ (by decide +kernel)⟩,
      by decide +kernel, by decide +kernel, by decide +kernel⟩⟩, by decide +kernel, by decide +kernel, by decide +kernel⟩

def checkGot : CardCheck → Option (BitVec 2048 × List Window)
  | .ok k w => some (k, w)
  | _ => none

theorem check_ok (x : State × CardCheck) (h : (checkGot x.2).isSome = true) :
    x = (x.1, .ok ((checkGot x.2).getD (0, [])).1 ((checkGot x.2).getD (0, [])).2) := by
  rcases x with ⟨s, _ | _ | _⟩ <;> simp_all [checkGot]

/-- Submission ring 63 and node ring 31 of die A, enabled for tenant 1, with four committed positions: a card in the first. -/
def cardCells : List Host.Cell := [(0x21000, 74), (0x21001, 67), (0x21002, 1), (0x21004, 40), (0x21009, 1), (0x21018, 4), (0x21024, 1)]
def sj : State :=
  let s := sring 0x111 (rs4 4 2)
  onA { s with mem := s.mem ++ cardCells } fun x => { x with up := true, serving := true, dtime := 2000, stamps := [(31, 4, 0)], lastRing := 62 }

/-- The job of the seeded state as it is released: with a period of 5 ns, at device time 5. -/
def jobR (n : Nat) (card : BitVec 2048) : Job := { seedJob 1 with nextInst := n, insts := [], card := card }
def sr5 (j : Job) (t : Nat) : State := { onA s0 fun x => { x with dtime := t } with jobs := [j] }
def card5 : BitVec 2048 := seedCard ||| (5#2048 <<< 320)

theorem witness_JobsComeAndGo :
    (s0.die false).serving = false ∧
    (let turn := (rangeFrom ((sj.die false).lastRing + 1) 64).map (· % 64)
     let g := percAgent false (sj.srctl false 63 % 16)
     sj.paused false = false ∧ (sj.die false).serving = true ∧ turn.find? (sj.ringDue false) = some 63 ∧
     ∃ u1 u2 u3 y b cb kd ws, sj.percStep g 63 (sj.srd false 63) 64 = (u1, .ok b) ∧ (Ring.ofBytes b).wellShaped = true ∧
       u1.refused g (sj.srd false 63) ⟨true, true, false⟩ = false ∧ (Ring.ofBytes b).head + 4 ≤ (Ring.ofBytes b).commit ∧
       u1.percSteps g 63 ((List.range 4).map fun k => (Ring.ofBytes b).slot ((Ring.ofBytes b).head + k)) = (u2, .ok cb) ∧
       u2.checkCard g 63 (word2048 cb) = (u3, .ok kd ws) ∧ (u3.gate g (sj.srd false 63) true).2 = false ∧
       u3.putRing g (sj.srd false 63) { Ring.ofBytes b with head := (Ring.ofBytes b).head + 4, retire := (Ring.ofBytes b).retire + 4 }
         (Ring.ofBytes b).system = (y, .ok ()) ∧
       (word2048 cb).getLsbD 32 = false ∧ ∀ k, k < 4 → (word2048 cb).getLsbD (528 + 64 * k) = false) ∧
    ({ seedJob 1 with rel := none } : Job).rel = none ∧
    (∀ n, n ∈ [0, 1] → let j := jobR n card5
      (sr5 j 5).job? 1 = some j ∧ j.rel = some 0 ∧ j.gone = false ∧ j.cancelled = false ∧ j.coop = false ∧ j.batch = none ∧ j.period ≠ 0 ∧
      0 + n * j.period ≤ ((sr5 j 5).die j.die).dtime ∧ (n = 1 → ((sr5 j 4).die j.die).dtime < 0 + n * j.period)) ∧
    (s0.serves false = true ∨ (s0.die false).serving = false) ∧
    (sj.serves false = true ∧ sj.unreadableRing false = none ∧ sj.pickRing false = some (31, rs4 4 2) ∧
      (sj.gate (percAgent false (sj.qmctl false 31 % 16)) (sj.qmd false 31) true).2 = false ∧ (rs4 4 2).wellShaped = true ∧
      ∃ u y b, sj.percLoad (percAgent false (sj.qmctl false 31 % 16)) (rs4 4 2).nodekd 256 = (u, .ok b) ∧ kdOk (word2048 b) = true ∧
        kdBarriersOk (word2048 b) = true ∧
        u.putRing (percAgent false (sj.qmctl false 31 % 16)) (sj.qmd false 31) { rs4 4 2 with head := 4 } (rs4 4 2).system = (y, .ok ())) ∧
    (s0.job? 1 = some (seedJob 1) ∧ (∀ i ∈ (seedJob 1).insts, s0.isComplete (seedJob 1) i = false)) ∧
    (let s := { s0 with blocks := [] }
     s.job? 1 = some (seedJob 1) ∧ (seedJob 1).insts = [seedInst] ∧ s.isComplete (seedJob 1) seedInst = true ∧ (seedJob 1).gone = false ∧
     (seedJob 1).period = 0 ∧ ∀ b ∈ s.blocks, b.job ≠ 1) := by
  refine ⟨by decide +kernel, ⟨by decide +kernel, by decide +kernel, by decide +kernel, ?_⟩, by decide +kernel,
    by decide +kernel, by decide +kernel, (join5 (by decide +kernel) ?_), by decide +kernel, by decide +kernel⟩
  · exact ⟨_, _, _, _, _, _, _, _, perc_ok _ (by decide +kernel), by decide +kernel, by decide +kernel, by decide +kernel, perc_ok _ (by decide +kernel),
      check_ok _ (by decide +kernel), by decide +kernel, got_ok () _ (by decide +kernel), by decide +kernel, by decide +kernel⟩
  · exact ⟨_, _, _, perc_ok _ (by decide +kernel), by decide +kernel, by decide +kernel, got_ok () _ (by decide +kernel)⟩

/-- A kernel of one warp of eight registers with 1 KiB of scratchpad; its block being cut since 0, of which a record of a few
kibibytes is written to virtual address 0 of tenant 0, on a page that is duplex if `dup`. -/
def kdS : BitVec 2048 := BitVec.ofNat 2048 (0x444B + 1 * 2 ^ 16 + 1 * 2 ^ 32 + 1 * 2 ^ 96 + 1 * 2 ^ 304 + (1 * 2 ^ 32 + 1 * 2 ^ 40 + 1 * 2 ^ 49 + 32 * 2 ^ 53) * 2 ^ 1024)
def cut0 : Cut := ⟨0, 0, 0, false⟩
def bCut (k : Cut) : Block := { b0 with kd := kdS, lmask := 0, cut := some k }
/-- At device time `t`, with or without a started command, and with a remote write under the next tag of die A if `dup`. -/
def cutB (t : Nat) (k : Cut) (busy dup : Bool) (i : Inst) : State :=
  { onA s0 fun x => { x with dtime := t } with
    blocks := [bCut k], warps := [(who0, { w0 with budget := 8 })], jobs := [{ seedJob 1 with kd := kdS, card := seedCard ||| (100#2048 <<< 384), insts := [i] }]
    copies := if busy then [copy0] else [], remotes := if dup then [{ rem0 with tag := 1 }] else []
    mem := if dup then s0.mem.take 5 ++ [(65537, 4), (65538, 2)] else s0.mem }

/-- The state with the operations that had arrived, and the record: in the drain's last nanosecond, or long after while the
record is being written. -/
def cutAt (dup wr : Bool) : State × CtxRec :=
  let k : Cut := { cut0 with writing := wr }
  let s := cutB (if wr then 9999 else 2000) k false dup seedInst
  let b := s.arriveAll (bCut k)
  let u := s.setBlock b
  (u, u.recordOf b k (s.jobs.headD (seedJob 1)))

theorem saves_of (s : State) (g : Agent) (va : Nat) (l : List Byte) (h : (gotOf (s.save g va l).2).isSome = true) :
    ∃ y, s.save g va l = (y, .ok ()) := ⟨_, got_ok () _ h⟩

theorem witness_CutsEndInARecord :
    (∀ n, n ∈ [(0, false), (1999, true), (2000, false), (2000, true), (2001, false)] → let s := cutB n.1 cut0 n.2 false seedInst
      let b := bCut cut0
      s.block? 0 = some b ∧ (s.job? b.job).isSome = true ∧ (s.die b.die).dtime = n.1 ∧ s.drained b = !n.2 ∧
      (s.setBlock (s.arriveAll b)).drained (s.arriveAll b) = !n.2 ∧
      (s.jobs.any fun j => j.insts.any fun i => decide (s.budgetOf j ≤ s.budgetCount j i)) = false) ∧
    (let s := cutB 100 cut0 false false { seedInst with resSince := some 0 }
     (s.jobs.all fun j => j.insts.all fun i => decide (s.budgetOf j ≤ s.budgetCount j i)) = true) ∧
    (∀ dup wr, let r := cutAt dup wr
      r.1.drained r.2.block = true ∧ r.1.parks = [] ∧ (∀ j ∈ r.1.jobs, j.gone = false ∧ j.cancelled = false) ∧
      (r.1.gateAll (percAgent false 0) r.2.place r.2.bytes.length true).2 = dup) ∧
    (let r := cutAt false false
     ∃ y, r.1.save (percAgent false 0) r.2.place r.2.bytes = (y, .ok ())) ∧
    (seedJob 1).mayKill = false ∧ (killable.jobs.headD (seedJob 1)).mayKill = true := by
  refine ⟨by decide +kernel, by decide +kernel, by decide +kernel, saves_of _ _ _ _ (by decide +kernel), by decide +kernel⟩

/-- A job that waits for a place that no core has, with a deadline, first in the queue since 0; the running job may checkpoint. -/
def jobW : Job :=
  { seedJob 2 with kd := seedKd ||| (255#2048 <<< 40), insts := [{ instP with deadline := some 10 }], firstSince := some 0 }
def jobV : Job := { seedJob 1 with card := seedCard ||| (1#2048 <<< 34) }
def pre (t : Nat) : State :=
  { onA (regs up0 [(0x110, 1)]) fun x => { x with dtime := t } with
    nextId := 5, jobs := [jobW, jobV], blocks := [b0], warps := [(who0, w0)] }

/-- The running job with one instance, budget 100 and a bandwidth. -/
def jobT (i : Inst) (bw : Nat) : Job := { seedJob 1 with insts := [i], card := seedCard ||| (100#2048 <<< 384) ||| (BitVec.ofNat 2048 bw <<< 416) }
def timed (t : Nat) (j : Job) (b : Block) (w : List (Nat × Nat × Nat)) : State :=
  { onA s0 fun x => { x with dtime := t, waitsWin := w } with jobs := [j], blocks := [b] }
def bck : Block := { b0 with kd := seedKd ||| (50#2048 <<< 224) }
def iBud : Inst := { seedInst with resSince := some 0 }

theorem witness_TimingExceptions :
    (s0.queue = [] ∧ ∃ x l, (pre 999).queue = x :: l ∧ x.1.id = 2 ∧ x.1.firstSince = some 0 ∧ ((pre 999).die x.1.die).dtime < 0 + 1000) ∧
    (let s := pre 1000
     let i : Inst := { instP with deadline := some 10 }
     s.queue = (jobW, i) :: [] ∧ jobW.firstSince = some 0 ∧ 0 + 1000 ≤ (s.die jobW.die).dtime ∧ s.job? 2 = some jobW ∧
     jobW.inst? 0 = some i ∧ s.victims jobW i = [(jobV, seedInst)] ∧ s.wouldFit jobW i s.promised = false ∧ jobV.batch = none ∧
     jobV.drain ≤ seedInst.estimate ∧ jobV.mayCkpt = true ∧ (∀ b ∈ s.blocks, b.passed = false) ∧
     s.blocks = [b0] ∧ b0.job = jobV.id ∧ b0.inst = seedInst.no ∧ b0.halted = false ∧ b0.cut = none ∧ b0.stopReq = none) ∧
    (∀ t, t ∈ [10, 11] → let j := jobT { seedInst with deadline := some 10 } 0
      let s := timed t j b0 []
      s.job? 1 = some j ∧ j.insts = [{ seedInst with deadline := some 10 }] ∧ j.gone = false ∧
      (s.missed j { seedInst with deadline := some 10 } = true ↔ t = 11)) ∧
    (∀ t, t ∈ [99, 100] → let j := jobT iBud 0
      let s := timed t j b0 []
      s.job? 1 = some j ∧ j.insts = [iBud] ∧ iBud.stopped = false ∧ iBud.resSince.isSome = true ∧ j.gone = false ∧
      s.missed j iBud = false ∧ s.allExited j iBud = false ∧ (∀ b ∈ s.blocks, s.overdue b = false) ∧ (s.budgetOf j ≤ s.budgetCount j iBud ↔ t = 100)) ∧
    (∀ d c, (timed 100 (jobT iBud 0) b0 []).throttledIn (jobT iBud 0) d c = none) ∧
    (∀ t, t ∈ [49, 50] → let j := jobT seedInst 0
      let s := timed t j bck []
      s.block? 0 = some bck ∧ s.job? bck.job = some j ∧ (∀ i ∈ j.insts, s.missed j i = false) ∧ bck.stopReq = none ∧
      (s.overdue bck = true ↔ t = 50)) ∧
    (∀ k, k ∈ [none, some 3, some 4] → let j := { jobT seedInst 7 with bwWin := k, bwAt := k }
      let s := timed 5 j b0 [(4, 1, 2)]
      s.job? 1 = some j ∧ j.gone = false ∧ (∀ i ∈ j.insts, s.missed j i = false) ∧ (∀ b ∈ s.blocks, s.overdue b = false) ∧
      s.throttledIn j false 2 = if k = some 4 then none else some 4) := by
  refine ⟨⟨by decide +kernel, (jobW, { instP with deadline := some 10 }), [], by decide +kernel⟩, by decide +kernel, by decide +kernel,
    by decide +kernel, fun d c => ?_, by decide +kernel, by decide +kernel⟩
  have h : ((jobT iBud 0).bw == 0) = true := by decide +kernel
  simp [State.throttledIn, h]

/-! ### Words, steps and the machine as a whole -/

theorem witness_StepRunsTheDecodedInstruction :
    (({ up0 with agenda := [.event (.patrol true true [(3, 5)])] } : State).agenda = .event (.patrol true true [(3, 5)]) :: [] ∧
      encode (.patrol true true [(3, 5)]) = none) ∧
    (let s : State := { s0 with blocks := [{ b0 with halted := true }] }
     s.agenda = [] ∧ s.cur = some who0 ∧ s.warp? who0 = some w0 ∧ w0.active = some p0 ∧ w0.stepDue = none ∧ s.barred who0 w0 = true) ∧
    (let w := { w0 with notBefore := 1 }
     (sw w).agenda = [] ∧ (sw w).cur = some who0 ∧ (sw w).warp? who0 = some w ∧ w.active = some p0 ∧ w.stepDue = none ∧
     (sw w).cycle < w.notBefore ∧ s0.cycle = w0.notBefore ∧ w0.heldAt = none) ∧
    (∀ k, k = 0 ∨ k = 1 → alook (s0.clockKey who0 * 32 + w0.part * 2 + k) s0.ports = none ∧
      alook (s0.clockKey who0 * 32 + w0.part * 2 + k)
        ({ s0 with ports := [(s0.clockKey who0 * 32 + w0.part * 2 + k, s0.cycle)] } : State).ports = some s0.cycle) ∧
    (s0.agenda = [] ∧ s0.cur = some who0 ∧ s0.warp? who0 = some w0 ∧ s0.barred who0 w0 = false ∧ isLocal (p0.pc.toNat * 16) = false ∧
      s0.poison = [] ∧
      ∃ u x, s0.translate (s0.agentOf who0 w0) (p0.pc.toNat * 16) ⟨false, false, true⟩ = (u, some x) ∧ s0.homeGone x = none ∧
        s0.gatePa (s0.agentOf who0 w0).tenant (s0.asks (s0.agentOf who0 w0) (p0.pc.toNat * 16) false ⟨false, false, true⟩) = (s0, false) ∧
        decode (wordOfBytes ((List.range 16).map fun k => s0.byte (s0.readCopy (s0.agentOf who0 w0).die x + k))) = none) ∧
    (let s := sm (bytesOfWord 0xFFFFFF000000000EE000000000000078)
     ∃ u x, s.translate (s.agentOf who0 w0) (p0.pc.toNat * 16) ⟨false, false, true⟩ = (u, some x) ∧ s.homeGone x = none ∧
       (decode (wordOfBytes ((List.range 16).map fun k => s.byte (s.readCopy (s.agentOf who0 w0).die x + k)))).isSome = true) := by
  have some_of : ∀ x : State × Option Xl, x.2.isSome = true → ∃ u y, x = (u, some y) ∧ u = x.1 ∧ x.2 = some y := by
    rintro ⟨u, _ | y⟩ h
    · simp at h
    · exact ⟨u, y, rfl, rfl, rfl⟩
  refine ⟨by decide +kernel, by decide +kernel, by decide +kernel, by rintro k (rfl | rfl) <;> decide +kernel,
    (join5 (by decide +kernel)
      ⟨by decide +kernel, ?_⟩), ?_⟩
  · obtain ⟨u, y, h, -, hy⟩ := some_of (s0.translate (s0.agentOf who0 w0) (p0.pc.toNat * 16) ⟨false, false, true⟩) (by decide +kernel)
    have e : y = ⟨0x20000, 0x20073, none⟩ := Option.some.inj (hy.symm.trans (by decide +kernel))
    subst e
    exact ⟨u, _, h, by decide +kernel, by decide +kernel, by decide +kernel⟩
  · let s := sm (bytesOfWord 0xFFFFFF000000000EE000000000000078)
    obtain ⟨u, y, h, -, hy⟩ := some_of (s.translate (s.agentOf who0 w0) (p0.pc.toNat * 16) ⟨false, false, true⟩) (by decide +kernel)
    have e : y = ⟨0x20000, 0x20073, none⟩ := Option.some.inj (hy.symm.trans (by decide +kernel))
    subst e
    exact ⟨u, _, h, by decide +kernel, by decide +kernel⟩

theorem witness_FormsThatMayNotIssueTrapOrHold :
    (let who : Issuer := .seq ⟨true, true, 0⟩
     let s : State := { s0 with cur := some who, warps := [(who, w0)] }
     s.cur = some who ∧ s.warp? who = some w0 ∧ w0.active = some p0 ∧ s.barred who w0 = false ∧ w0.notBefore ≤ s.cycle ∧ w0.pend = [] ∧
     (∃ f, encodeFields (.take ⟨hn, 380⟩) = some f ∧ f.op = 0xA7) ∧
     ∃ f, encodeFields (.ckpt ⟨hn, 388, 389, 2⟩) = some f ∧ f.op = 0xD4) ∧
    (s0.cur = some who0 ∧ s0.warp? who0 = some w0 ∧ w0.active = some p0 ∧ s0.barred who0 w0 = false ∧ w0.pend = [] ∧
      (∃ f, encodeFields (.csrRd ⟨hn, 5, 0x350⟩) = some f ∧ f.op = 0xE3) ∧
      ¬ (Instr.intAdd ⟨hn, .s64, false, true, 3, 2, .imm 1⟩).WellFormed ∧
      (encodeFields (.intAdd ⟨hn, .s64, false, true, 3, 2, .imm 1⟩)).isSome = true) ∧
    (let w := { w0 with budget := 8 }
     (sw w).warp? who0 = some w ∧ (sw w).barred who0 w = false ∧ w.pend = [] ∧ (8 : Reg).toNat < 384 ∧ w.budget ≤ (8 : Reg).toNat) ∧
    (let q : Pend := ⟨3, 1, [4], false⟩
     let w := { w0 with pend := [q] }
     (sw w).warp? who0 = some w ∧ (sw w).barred who0 w = false ∧ q ∈ w.pend ∧ 4 ∈ q.regs ∧ 4 ∈ span 1 4) ∧
    (let q : Pend := ⟨3, 1, rangeFrom 48 8, true⟩
     let w := { w0 with pend := [q] }
     (sw w).warp? who0 = some w ∧ (sw w).barred who0 w = false ∧ q ∈ w.pend ∧ 48 ∈ q.regs ∧ q.locked = true ∧ 48 ∈ rangeFrom 48 16) ∧
    (let w := { w0 with notBefore := 1 }
     (sw w).cur = some who0 ∧ (sw w).warp? who0 = some w ∧ w.active = some p0 ∧ (sw w).cycle < w.notBefore) ∧
    (let w := (List.range 63).foldl (fun (v : Warp) k => { v with ops := ⟨.st, k, 1⟩ :: v.ops }) w0
     w.counter .st = 63) ∧
    (∀ c, w0.counter c < 63) := by
  refine ⟨(join5 (by decide +kernel)
      ⟨by decide +kernel, ⟨_, rfl, by decide +kernel⟩, ⟨_, rfl, by decide +kernel⟩⟩), (join5 (by decide +kernel) ⟨⟨_, rfl, by decide +kernel⟩, by decide +kernel, by decide +kernel⟩), join5 (by decide +kernel) (fun c => by cases c <;> decide +kernel)⟩

theorem witness_SingleStepTraps :
    (let w := { w0 with step := true }
     let b := { b0 with kd := seedKd ||| (1#2048 <<< 36) }
     let s : State := { sw w with blocks := [b] }
     s.cur = some who0 ∧ s.warp? who0 = some w ∧ w.active = some p0 ∧ s.barred who0 w = false ∧ s.block? 0 = some b ∧ w.frozen = none ∧
     w.notBefore ≤ s.cycle ∧ kdTrapv b.kd = true ∧ w.step = true ∧ w.pend = [] ∧ (Instr.nop ⟨hg⟩).WellFormed ∧ (Instr.mov ⟨hn, .b64, 4, .reg 6⟩).WellFormed ∧
     ∀ r ∈ spanB 2 (.reg 6) ++ span 2 4, 384 ≤ r ∨ r < w.budget) ∧
    (let w := { w0 with step := true, stepDue := some (1, 5), stepOf := 7 }
     let s := sw w
     let a := ac 7 .ld 0x10000 0
     s.agenda = [] ∧ s.cur = some who0 ∧ s.warp? who0 = some w ∧ w.active = some p0 ∧ s.barred who0 w = false ∧ s.block? 0 = some b0 ∧
     w.stepDue = some (1, 5) ∧
     (∀ q ∈ w.pend, q.locked = false) ∧ (∀ x ∈ s.accs, x.who ≠ who0) ∧
     (∃ q ∈ ({ w with pend := [⟨7, 1, [48], true⟩] } : Warp).pend, q.id = w.stepOf ∧ q.locked = true) ∧
     (∃ l ∈ a.lanes, a.who = who0 ∧ a.id = w.stepOf ∧ ({ s with accs := [a] } : State).wouldPark a l = true)) := by
  refine (join5 (by decide +kernel) (join5 (by decide +kernel)
      ⟨by decide +kernel, ⟨3, 0x10000, 0, 0, false⟩, by decide +kernel,
    by decide +kernel, by decide +kernel, by decide +kernel⟩))

theorem witness_DatapathCheckTrapsBeforeTheWrite :
    ∀ flip, flip ∈ [0, 1, 0x3F800000] → let x : Flt2 := ⟨hn, .f32, .nearestEven, false, 4, 5, .reg 6⟩
      let s : State := { s0 with upsets := [.lane who0 31 flip] }
      may (.farithAdd x) .shared [5, 6] [4] none { s with upsets := [] } who0 w0 p0 = true ∧ s.upsets = [.lane who0 31 flip] ∧
      s.cur = some who0 ∧ s.warp? who0 = some w0 ∧ (w0.activeLanes p0 x.h).getLsbD 31 = true ∧ x.ty.isPacked = false ∧
      (passesFlt x.ty.ffmt 0 (0 ^^^ flip % 2 ^ x.ty.ffmt.bits) = true ↔ flip ≠ 0x3F800000) := by
  decide +kernel

/-- The canonical form holds of a memory that lists bytes. -/
theorem witness_EveryStepKeepsTheMemoryCanonical : (so ⟨true, false, 2, 2, 0, 0, 0⟩).MemOk ∧ State.reset.MemOk ∧
    (so ⟨true, false, 2, 2, 0, 0, 0⟩).mem.length = 8 := by
  decide +kernel

/-! ## One step of an instruction, on the numbers of the spec's tables and examples -/

/-- Lane registers with one word in every lane, and with one word for each lane. -/
def vr (l : List (Nat × Word)) : List (Nat × Word) := l.flatMap fun p => (List.range 32).map fun L => (32 * p.1 + L, p.2)
def vl (r : Nat) (f : Nat → Nat) : List (Nat × Word) := (List.range 32).map fun L => (32 * r + L, BitVec.ofNat 32 (f L))
/-- Run `i` on warp `w` of the placed program, and read the warp after it. -/
def after (i : Instr) (w : Warp) : Option Warp :=
  match exec i (sw w) with
  | .next t => t.warp? who0
  | _ => none
/-- Register `r` of lane `L` after `i` with these lane registers. -/
def lane (i : Instr) (l : List (Nat × Word)) (r L : Nat) : Option Word := (after i { w0 with vregs := l }).map fun v => v.word r L
def codes (i : Instr) (l : List (Nat × Word)) : Option CC := (after i { w0 with vregs := l }).map fun v => v.cc 0
def preds (i : Instr) (w : Warp) (p : Nat) : Option Mask := (after i w).map fun v => v.pred p

-- R116, R117: the sum wraps, C is the carry out and V the signed overflow
theorem test_int_add_wraps : lane (.intAdd ⟨hn, .s32, false, true, 4, 2, .imm 1⟩) (vr [(2, 0x7FFFFFFF)]) 4 31 = some 0x80000000 ∧
    codes (.intAdd ⟨hn, .s32, false, true, 4, 2, .imm 1⟩) (vr [(2, 0x7FFFFFFF)]) = some ⟨false, false, true, true⟩ := by decide +kernel
theorem test_int_add_saturates : lane (.intAdd ⟨hn, .s32, true, false, 4, 2, .imm 1⟩) (vr [(2, 0x7FFFFFFF)]) 4 0 = some 0x7FFFFFFF := by decide +kernel
theorem test_int_sub_64 : lane (.intSub ⟨hn, .n64, false, false, 4, 2, .reg 6⟩) (vr [(2, 0), (3, 1), (6, 1), (7, 0)]) 5 7 = some 0 := by decide +kernel
-- R118, R119: a source that is also the destination; the high half of a signed product
theorem test_imul_hi : lane (.imulHi ⟨hn, .s32, 4, 4, .reg 4⟩) (vr [(4, 0xFFFFFFFF)]) 4 0 = some 0 := by decide +kernel
theorem test_idiv_zero : lane (.idivDiv ⟨hn, .n32, 4, 2, .imm 0⟩) (vr [(2, 9)]) 4 0 = some 0xFFFFFFFF ∧
    lane (.idivRem ⟨hn, .n32, 4, 2, .imm 0⟩) (vr [(2, 9)]) 4 0 = some 9 := by decide +kernel
-- R121: the tables 0xAC, 0xE8 and 0x22
theorem test_truth_tables :
    lane (.logicTruth ⟨hn, .b32, false, 0xAC, 1, 2, .reg 3, 4⟩) (vr [(2, 0xF0F0F0F0), (3, 0x0000FFFF), (4, 0xFF00FF00)]) 1 5 = some 0xF000F0FF ∧
    lane (.logicTruth ⟨hn, .b32, false, 0xE8, 1, 2, .reg 3, 4⟩) (vr [(2, 0xFF00FF00), (3, 0xF0F0F0F0), (4, 0xCCCCCCCC)]) 1 5 = some 0xFCC0FCC0 := by decide +kernel
-- R122: a shift by the width, the bit that C keeps, and both ends of the funnel
theorem test_shl_width : lane (.shiftShl ⟨hn, .b32, true, 4, 2, .imm 32⟩) (vr [(2, 1)]) 4 0 = some 0 ∧
    codes (.shiftShl ⟨hn, .b32, true, 4, 2, .imm 32⟩) (vr [(2, 1)]) = some ⟨true, true, false, false⟩ := by decide +kernel
theorem test_sar_far : lane (.shiftSar ⟨hn, .s32, false, 4, 2, .imm 0xFFFFFFFF⟩) (vr [(2, 0x80000000)]) 4 0 = some 0xFFFFFFFF := by decide +kernel
theorem test_funnel : lane (.shiftFshl ⟨hn, .b32, 4, 2, .imm 40, 3⟩) (vr [(2, 1), (3, 7)]) 4 0 = some 7 ∧
    lane (.shiftFshr ⟨hn, .b32, 4, 2, .imm 4, 3⟩) (vr [(2, 0xABCDEF01), (3, 0x12345678)]) 4 0 = some 0x11234567 := by decide +kernel
-- R123: 64-bit counts land in a single register; a field that runs past the top is cut and sign-extended
theorem test_clz_64 : lane (.bitClz ⟨hn, .b64, 4, 2⟩) (vr [(2, 0), (3, 0)]) 4 3 = some 64 := by decide +kernel
theorem test_bfe_cut : lane (.bitBfe ⟨hn, .s32, 4, 2, .imm 0x081C⟩) (vr [(2, 0xF0000000)]) 4 0 = some 0xFFFFFFFF := by decide +kernel
theorem test_bfi : lane (.bitBfi ⟨hn, .b32, 4, 2, .imm 0x0408, 3⟩) (vr [(2, 0xFFFFFFFF), (3, 0x5)]) 4 0 = some 0xFFFFF5FF := by decide +kernel
-- R9, R54: a lane whose guard is false keeps its register
theorem test_guarded_mov :
    (after (.mov ⟨⟨⟨false, 1⟩, ⟨false, 7⟩, 0, false⟩, .b32, 4, .imm 9⟩) { w0 with preds := [(1, 2)] }).map
      (fun v => (v.word 4 0, v.word 4 1)) = some (0, 9) := by decide +kernel
-- R146: a uniform register takes the value of the lowest active lane
theorem test_umov_first :
    (after (.umovFirst ⟨⟨⟨false, 1⟩, ⟨false, 7⟩, 0, false⟩, .b32, 390, 2⟩) { w0 with preds := [(1, 0x30)], vregs := vl 2 fun L => 100 + L }).map
      (fun v => v.word 390 0) = some 104 := by decide +kernel
-- R126: an unordered comparison of a NaN; R130: the table is indexed PA + 2 PB + 4 PC
theorem test_pcomb : preds (.pcomb ⟨hn, 1, 2, 3, 4, 0x08⟩) { w0 with preds := [(1, 0xFF), (2, 0x0F), (3, 0x03)] } 4 = some 0x0C := by decide +kernel
-- R98, R131: ties to even and to away; an infinity less itself
theorem test_fadd_ties :
    lane (.farithAdd ⟨hn, .f32, .nearestEven, false, 4, 2, .imm 0x33800000⟩) (vr [(2, 0x3F800000)]) 4 0 = some 0x3F800000 ∧
    lane (.farithAdd ⟨hn, .f32, .nearestAway, false, 4, 2, .imm 0x33800000⟩) (vr [(2, 0x3F800000)]) 4 0 = some 0x3F800001 := by decide +kernel
theorem test_fsub_inf : lane (.farithSub ⟨hn, .f32, .nearestEven, false, 4, 2, .reg 2⟩) (vr [(2, 0x7F800000)]) 4 0 = some 0x7FC00000 := by decide +kernel
-- R104: a subnormal product is delivered
theorem test_fmul_subnormal : lane (.farithMul ⟨hn, .f32, .nearestEven, false, 4, 2, .imm 0x3F000000⟩) (vr [(2, 0x00800000)]) 4 0 = some 0x00400000 := by decide +kernel
-- The worked example of the chapter on formats: 250.0 and 5.375 × 2^−10 into s8p4 and s8p4f
theorem test_pack_250 :
    let run := fun (f : Fmt) (sat : Bool) (rm : Rm) (x : Word) => lane (.cvtPack ⟨hn, f, .f32, sat, rm, 4, 8⟩) (vr [(8, x)]) 4 0
    run .s8p4 false .nearestEven 0x437A0000 = some 0x7F ∧ run .s8p4 true .nearestEven 0x437A0000 = some 0x7E ∧
    run .s8p4 false .towardZero 0x437A0000 = some 0x7E ∧ run .s8p4f false .nearestEven 0x437A0000 = some 0x80 ∧
    run .s8p4f true .nearestEven 0x437A0000 = some 0x7F ∧ run .s8p4f false .towardZero 0x437A0000 = some 0x7F ∧
    run .s8p4 false .nearestEven 0x3BAC0000 = some 0x05 ∧ run .s8p4 false .upward 0x3BAC0000 = some 0x06 := by decide +kernel
-- R100, R102, R103: 300 into s8 from an integer and from a float; saturation and NaN
theorem test_convert_300 :
    lane (.cvtI2i ⟨hn, .s8, .s32, false, .nearestEven, 4, 2⟩) (vr [(2, 300)]) 4 0 = some 44 ∧
    lane (.cvtF2i ⟨hn, .s8, .f32, false, .towardZero, 4, 2⟩) (vr [(2, 0x43960000)]) 4 0 = some 0xFFFFFF80 ∧
    lane (.cvtF2i ⟨hn, .s8, .f32, true, .towardZero, 4, 2⟩) (vr [(2, 0x43960000)]) 4 0 = some 127 ∧
    lane (.cvtF2i ⟨hn, .s32, .f32, true, .towardZero, 4, 2⟩) (vr [(2, 0x7FC00000)]) 4 0 = some 0 := by decide +kernel
-- The worked example of VPERM.DOWN: segments of eight, lane 3 guarded off, lane 5 exited
theorem test_vperm_down :
    let w := { w0 with
      exited := 0x20, paths := [⟨0xFFFFFFDF, 0, 0, false, false⟩], preds := [(1, 0xFFFFFFF7)]
      vregs := vl 8 (100 + ·) ++ vr [(9, 0xFFFFFFFF)] }
    (after (.vpermDown ⟨⟨⟨false, 1⟩, ⟨false, 7⟩, 0, false⟩, .b32, true, 2, 2, 10, 8, .imm 1, 9⟩) w).map
      (fun v => ((List.range 8).map fun L => v.word 10 L, (v.pred 2).toNat % 256)) =
      some ([101, 102, 103, 0, 0xFFFFFFFF, 0, 107, 0xFFFFFFFF], 0x90) := by decide +kernel
-- The worked example of if and else: JSET registers record 1, BRA ?!p1 splits the path
theorem test_jset_bra :
    let w := { w0 with preds := [(1, 0x0000FFFF)] }
    (after (.jset ⟨hn, 0x50⟩) w).map (fun v => (v.paths, v.joins)) =
      some ([⟨0xFFFFFFFF, 1, 1, false, false⟩], [⟨1, 5, 0xFFFFFFFF, 0, 0⟩]) ∧
    (after (.bra ⟨⟨⟨true, 1⟩, ⟨false, 7⟩, 0, false⟩, 0x30⟩) { w with paths := [⟨0xFFFFFFFF, 1, 1, false, false⟩] }).map (·.paths) =
      some [⟨0xFFFF0000, 4, 1, false, false⟩, ⟨0x0000FFFF, 2, 1, false, false⟩] := by decide +kernel
-- R157: the last lanes exit; R161: WAITC holds while LD is above its limit
theorem test_exit : (after (.exit ⟨⟨⟨false, 1⟩, ⟨false, 7⟩, 0, false⟩⟩) { w0 with preds := [(1, 0x0000FFFF)] }).map
    (fun v => (v.exited, v.paths)) = some (0x0000FFFF, [⟨0xFFFF0000, 1, 0, false, false⟩]) := by decide +kernel
theorem test_waitc_holds : (after (.waitc ⟨hn, 0xFF, 0xFF, 0xFF, 0⟩) { w0 with ops := [⟨.ld, 1, 1⟩] }).map (·.paths) = some [p0] := by decide +kernel
-- The worked example of a trap: the aperture check of lane 12 comes before the alignment checks of lanes 4 and 9
theorem test_trap_entry :
    let w := { w0 with
      paths := [⟨BitVec.allOnes 32, 0x800000123, 0, false, false⟩]
      vregs := vl 2 (fun L => if L = 4 ∨ L = 9 then 0x2002 else if L = 12 then 0 else 0x2000) ++
        vl 3 fun L => if L = 4 ∨ L = 9 then 0x80 else if L = 12 then 0x00100000 else 0x80 }
    let s : State := { sw w with blocks := [{ b0 with kd := seedKd ||| (1#2048 <<< 36) }] }
    (match exec (.ld ⟨hn, .b32, ⟨.none, 0, false, .default, 2, 0⟩, false, 8⟩) s with
      | .next t => (t.warp? who0).map fun v => (List.range 7).map fun k => v.word (384 + k) 0
      | _ => none) = some [0x1000, 4, 0, 0x00100000, 0x10, 0x1230, 0x80] := by decide +kernel
-- The worked example of chunks: 200 records, a minimum of 4, four resident blocks
theorem test_chunks : chunk 200 4 4 200 = (0, 25, 175) ∧ chunk 200 4 4 153 = (47, 20, 133) ∧ chunk 200 4 4 37 = (163, 5, 32) ∧
    chunk 200 4 4 32 = (168, 4, 28) ∧ chunk 200 4 4 4 = (196, 4, 0) := by decide
-- The worked example of the group boundary: the third pair at k = 2 and at k = 17
theorem test_mma_groups :
    let a := fun k => (List.range 64).map fun i => if i = 0 then 0x74 else if i = 1 then 0x34 else if i = k then 0xF4 else 0
    let b := fun k => (List.range 64).map fun i => if i = 0 then 0x74 else if i = 1 then 0x34 else if i = k then 0x74 else 0
    mmaElem .s8p3 .s8p3 .nearestEven 0 (a 2) (b 2) = 0x3C800000 ∧ mmaElem .s8p3 .s8p3 .nearestEven 0 (a 17) (b 17) = 0 := by decide +kernel
-- The worked example of a late term: eight arrivals of opacity 0.5, then CFLUSH
theorem test_late_term :
    let start : SlotRun := ⟨⟨false, false, false, 0, 0, 0, 0, 0, 0x3F800000, [0, 0, 0, 0], []⟩, 5, { UnitState.fresh with thr := 0x3C23D70A }, [], 0, 0, none⟩
    let go := fun (l : List (Word × Nat)) => l.zipIdx.foldl (fun (r : SlotRun) p =>
      r.arrive (termOf [p.1.1, BitVec.ofNat 32 (0x3800 + (p.2 + 1) * 2 ^ 16), BitVec.ofNat 32 p.1.2, 0])) start
    let r := go [(0x40A00000, 0x4500), (0x40400000, 0x4200), (0x41000000, 0x4800), (0x3F800000, 0x3C00), (0x40E00000, 0x4700),
      (0x40000000, 0x4000), (0x40C00000, 0x4600), (0x3F000000, 0x4400)]
    let f := (r.flush 7).slot
    (r.slot.t, r.slot.ch.headD 0, r.slot.front, r.slot.nl, r.slot.ents.length) = (0x3E800000, 0x3FC00000, 0x3F800000, 1, 6) ∧
    (f.ch.headD 0, f.t, f.front, wordAt f.header 6, wordAt f.header 7) = (0x400F8000, 0x3C000000, 0x40E00000, 0x00070101, 0x80000000) := by decide +kernel
-- The barrier words of the copy engine's example
theorem test_barrier_words :
    Barrier.ofNat 0x00000100000001000000000000000003 = ⟨true, true, 0, 0, 0, 64, 64⟩ ∧
    Barrier.ofNat 0x00000000000000000000000000200001 = ⟨true, false, 0, 8, 0, 0, 0⟩ ∧
    (⟨true, true, 0, 0, 0, 8192, 8192⟩ : Barrier).toNat = 0x00008000000080000000000000000003 := by decide +kernel

end Sys2Proof.Tests
end

/-! The INT forms and IDOT.DP4 (R117, R120): each form's function in the words of the pseudo-code, the completion of the
two shared shapes of INT, and the obligation assembled from them. -/

section
namespace Sys2Proof.Machine

/-! ## The parts of the pseudo-code -/

/-- The result is the exact value, saturated where SAT = 1, reduced modulo 2^n (R7, R117). -/
theorem intResult_eq (ty : LTy) (sat : Bool) (v : Int) :
    intResult ty sat v =
      ((if sat then (if v < LTy.lo ty then LTy.lo ty else if LTy.hi ty < v then LTy.hi ty else v) else v) %
        2 ^ ty.width).toNat := rfl

theorem overflows_eq (n : Nat) (v : Int) :
    overflows n v = decide (v < -(2 ^ (n - 1)) ∨ (2 ^ (n - 1) : Int) - 1 < v) := by
  simp only [overflows, Bool.decide_or]

/-- A sign reads only the low n bits. -/
theorem signedOf_mod (n x : Nat) : signedOf n (x % 2 ^ n) = signedOf n x := by
  simp only [signedOf, Nat.mod_mod]

/-! ## Well-formed operands -/

theorem IntBin.dest_of_ok {mm : Bool} {x : IntBin} (h : x.ok mm = true) :
    x.d.toNat + x.ty.regs ≤ 384 ∨ 384 ≤ x.d.toNat := by
  simp only [IntBin.ok, Bool.and_eq_true] at h
  obtain ⟨⟨⟨_, hd⟩, _⟩, _⟩ := h
  exact .inl (laneGroup_regs hd)

theorem IntUn.dest_of_ok {x : IntUn} (h : x.ok = true) : x.d.toNat + x.ty.regs ≤ 384 ∨ 384 ≤ x.d.toNat := by
  simp only [IntUn.ok, Bool.and_eq_true] at h
  obtain ⟨⟨_, hd⟩, _⟩ := h
  exact .inl (laneGroup_regs hd)

theorem Dot4.isWord_of_ok {x : Dot4} (h : x.ok = true) : x.ty.isWord = true := by
  simp only [Dot4.ok, Bool.and_eq_true] at h
  obtain ⟨⟨hty, _⟩, _⟩ := h
  exact hty

theorem Dot4.dest_of_ok {x : Dot4} (h : x.ok = true) : x.d.toNat + 1 ≤ 384 ∨ 384 ≤ x.d.toNat := by
  simp only [Dot4.ok, Bool.and_eq_true] at h
  obtain ⟨⟨_, hd⟩, _⟩ := h
  exact .inl (laneGroup_le rfl hd)

theorem LTy.width_of_isWord {ty : LTy} (h : ty.isWord = true) : ty.width = 32 :=
  match ty, h with
  | .s32, _ | .n32, _ => rfl

/-! ## The shared shapes of INT -/

/-- An INT form with two sources completes with the exact result `v`, its C `c` and its V `o`, where these are the
form's function of the operands and the incoming C. -/
theorem intBin_completes {i : Instr} {x : IntBin} {f : LTy → Nat → Nat → Nat → Int × Bool × Bool}
    {v : Warp → Nat → Int} {c o : Warp → Nat → Bool} (he : ∀ s, exec i s = intBin s i.legal x f)
    (hd : i.WellFormed → x.d.toNat + x.ty.regs ≤ 384 ∨ 384 ≤ x.d.toNat)
    (hf : ∀ w L, f x.ty (w.src x.ty x.a L) (w.srcB x.ty x.b L) (if w.ccC.getLsbD L then 1 else 0) =
      (v w L, c w L, o w L)) :
    LaneCompletes i x.h (span x.ty.regs x.a ++ spanB x.ty.regs x.b) (span x.ty.regs x.d) fun _ _ w _ act u =>
      w.ResultCC u x.ty.regs x.d x.cc act (fun L => intResult x.ty x.sat (v w L))
        fun L => ccOf x.ty.width (intResult x.ty x.sat (v w L)) (c w L) (o w L) :=
  resultForm_completes he hd (LTy.regs_ne_zero x.ty) fun _ _ w _ _ _ _ h => by simpa only [hf] using h

/-- An INT form with one source completes with the exact result `v`, its C `c` and its V `o`, where these are the form's
function of the operand. -/
theorem intUn_completes {i : Instr} {x : IntUn} {f : LTy → Nat → Int × Bool × Bool}
    {v : Warp → Nat → Int} {c o : Warp → Nat → Bool} (he : ∀ s, exec i s = intUn s i.legal x f)
    (hd : i.WellFormed → x.d.toNat + x.ty.regs ≤ 384 ∨ 384 ≤ x.d.toNat)
    (hf : ∀ w L, f x.ty (w.src x.ty x.a L) = (v w L, c w L, o w L)) :
    LaneCompletes i x.h (span x.ty.regs x.a) (span x.ty.regs x.d) fun _ _ w _ act u =>
      w.ResultCC u x.ty.regs x.d x.cc act (fun L => intResult x.ty x.sat (v w L))
        fun L => ccOf x.ty.width (intResult x.ty x.sat (v w L)) (c w L) (o w L) :=
  resultForm_completes he hd (LTy.regs_ne_zero x.ty) fun _ _ w _ _ _ _ h => by simpa only [hf] using h

/-! ## What the forms compute -/

/-- ADD and ADDC: the exact sum, C from the unsigned readings and V from the signed ones (R117). -/
theorem addWith_eq (ty : LTy) (a b ci : Nat) :
    addWith ty a b ci = (LTy.int ty a + LTy.int ty b + ci,
      decide (2 ^ ty.width ≤ a % 2 ^ ty.width + b % 2 ^ ty.width + ci),
      decide (signedOf ty.width a + signedOf ty.width b + ci < -(2 ^ (ty.width - 1)) ∨
        (2 ^ (ty.width - 1) : Int) - 1 < signedOf ty.width a + signedOf ty.width b + ci)) := by
  rw [← overflows_eq]; rfl

/-- SUB and SUBB: the exact difference, C as the borrow and V from the signed readings (R117). -/
theorem subWith_eq (ty : LTy) (a b ci : Nat) :
    subWith ty a b ci = (LTy.int ty a - LTy.int ty b - ci,
      decide (a % 2 ^ ty.width < b % 2 ^ ty.width + ci),
      decide (signedOf ty.width a - signedOf ty.width b - ci < -(2 ^ (ty.width - 1)) ∨
        (2 ^ (ty.width - 1) : Int) - 1 < signedOf ty.width a - signedOf ty.width b - ci)) := by
  rw [← overflows_eq]; rfl

theorem min_eq_ite (a b : Int) : min a b = if a ≤ b then a else b := by
  split <;> omega

theorem max_eq_ite (a b : Int) : max a b = if b ≤ a then a else b := by
  split <;> omega

theorem bne_zero_eq_decide (u : Nat) : (u != 0) = decide (u ≠ 0) := decide_not.symm

theorem int_beq_eq_decide (a b : Int) : (a == b) = decide (a = b) := rfl

theorem natAbs_eq_ite (v : Int) : (v.natAbs : Int) = if 0 ≤ v then v else -v := by
  split <;> omega

/-- A register value, or a byte of it, read at `n` bits by the sign of the type (R117, R120). -/
def readAs (ty : LTy) (n u : Nat) : Int := if ty.isSigned then signedOf n u else (u % 2 ^ n : Nat)

theorem LTy.int_eq_readAs (ty : LTy) (u : Nat) : LTy.int ty u = readAs ty ty.width u := rfl

/-- Byte `k` of an operand of IDOT, as the model reads it. -/
theorem readAs_byte (ty : LTy) (u k : Nat) :
    readAs ty 8 (u / 256 ^ k % 256) =
      if ty.isSigned then signedOf 8 (u / 256 ^ k) else ((u / 256 ^ k % 256 : Nat) : Int) := by
  unfold readAs
  split
  · exact signedOf_mod 8 _
  · exact congrArg Nat.cast (Nat.mod_mod ..)

/-- C plus the sum of the four byte products (R120). -/
theorem dot4_eq {ty : LTy} (hty : ty.isWord = true) (a b c : Nat) :
    dot4 ty a b c = readAs ty 32 c +
      ((List.range 4).map fun k => readAs ty 8 (a / 256 ^ k % 256) * readAs ty 8 (b / 256 ^ k % 256)).sum := by
  have hrange : List.range 4 = [0, 1, 2, 3] := rfl
  simp only [dot4, LTy.int_eq_readAs, LTy.width_of_isWord hty, ← readAs_byte, hrange, List.map_cons, List.map_nil,
    List.sum_cons, List.sum_nil, Int.add_zero, Int.add_assoc]

/-- The result of a 32-bit type, with the two cases of SAT apart. -/
theorem intResult_of_isWord {ty : LTy} (hty : ty.isWord = true) (sat : Bool) (y : Int) :
    intResult ty sat y =
      if sat then ((if y < LTy.lo ty then LTy.lo ty else if LTy.hi ty < y then LTy.hi ty else y) % 2 ^ 32).toNat
      else (y % 2 ^ 32).toNat := by
  rw [intResult_eq, LTy.width_of_isWord hty]
  cases sat <;> rfl

/-- IDOT.DP4 completes with C plus the four byte products, saturated where SAT = 1 (R120). -/
theorem idotDp4_completes (x : Dot4) :
    LaneCompletes (.idotDp4 x) x.h (span 1 x.a ++ spanB 1 x.b ++ span 1 x.c) (span 1 x.d) fun _ _ w _ act v =>
      w.Result v 1 x.d act fun L =>
        let y := readAs x.ty 32 (w.src x.ty x.c L) + ((List.range 4).map fun k =>
          readAs x.ty 8 (w.src x.ty x.a L / 256 ^ k % 256) * readAs x.ty 8 (w.srcB x.ty x.b L / 256 ^ k % 256)).sum
        if x.sat then ((if y < LTy.lo x.ty then LTy.lo x.ty else if LTy.hi x.ty < y then LTy.hi x.ty else y) % 2 ^ 32).toNat
        else (y % 2 ^ 32).toNat :=
  valueForm_completes (i := .idotDp4 x) (fun _ => rfl) Dot4.dest_of_ok Nat.one_ne_zero fun _ _ w _ _ _ hwf h => by
    have hty : x.ty.isWord = true := Dot4.isWord_of_ok hwf
    simpa only [intResult_of_isWord hty, dot4_eq hty] using h

/-! ## The dispatch of the eight INT forms -/

section
variable (x : IntBin) (y : IntUn) (s : State)

theorem exec_intAdd : exec (.intAdd x) s = intBin s (Instr.intAdd x).legal x fun ty a b _ => addWith ty a b 0 := rfl
theorem exec_intAddc : exec (.intAddc x) s = intBin s (Instr.intAddc x).legal x addWith := rfl
theorem exec_intSub : exec (.intSub x) s = intBin s (Instr.intSub x).legal x fun ty a b _ => subWith ty a b 0 := rfl
theorem exec_intSubb : exec (.intSubb x) s = intBin s (Instr.intSubb x).legal x subWith := rfl

theorem exec_intMin : exec (.intMin x) s = intBin s (Instr.intMin x).legal x fun ty a b _ =>
    (min (LTy.int ty a) (LTy.int ty b), false, false) := rfl

theorem exec_intMax : exec (.intMax x) s = intBin s (Instr.intMax x).legal x fun ty a b _ =>
    (max (LTy.int ty a) (LTy.int ty b), false, false) := rfl

theorem exec_intNeg : exec (.intNeg y) s = intUn s (Instr.intNeg y).legal y fun ty a =>
    (-signedOf ty.width a, a % 2 ^ ty.width != 0, signedOf ty.width a == -(2 ^ (ty.width - 1))) := rfl

theorem exec_intAbs : exec (.intAbs y) s = intUn s (Instr.intAbs y).legal y fun ty a =>
    ((signedOf ty.width a).natAbs, false, signedOf ty.width a == -(2 ^ (ty.width - 1))) := rfl

end

/-- Settles O1: each INT form is one of the two shared shapes with its own function, which is the pseudo-code's. -/
theorem intFormsCompute : Obligations.IntFormsCompute := by
  unfold Obligations.IntFormsCompute
  refine ⟨fun x y => ⟨?add, ?addc, ?sub, ?subb, ?min, ?max, ?neg, ?abs⟩, idotDp4_completes⟩
  case add => exact intBin_completes (exec_intAdd x) IntBin.dest_of_ok fun _ _ => addWith_eq ..
  case addc => exact intBin_completes (exec_intAddc x) IntBin.dest_of_ok fun _ _ => addWith_eq ..
  case sub => exact intBin_completes (exec_intSub x) IntBin.dest_of_ok fun _ _ => subWith_eq ..
  case subb => exact intBin_completes (exec_intSubb x) IntBin.dest_of_ok fun _ _ => subWith_eq ..
  case min => exact intBin_completes (exec_intMin x) IntBin.dest_of_ok fun _ _ => congrArg (·, false, false) (min_eq_ite ..)
  case max => exact intBin_completes (exec_intMax x) IntBin.dest_of_ok fun _ _ => congrArg (·, false, false) (max_eq_ite ..)
  case neg => exact intUn_completes (exec_intNeg y) IntUn.dest_of_ok fun _ _ => by rw [bne_zero_eq_decide, int_beq_eq_decide]
  case abs => exact intUn_completes (exec_intAbs y) IntUn.dest_of_ok fun _ _ => by rw [natAbs_eq_ite, int_beq_eq_decide]

end Sys2Proof.Machine
end

/-! The path and join tables (R147 to R151): where the lanes stand after an operation of the tables, and what such an
operation leaves. Then JSET and JWAIT (R150, R155, R156). -/

section
namespace Sys2Proof.Machine

/-! ## Where the lanes of a path table stand -/

/-- A path holds lane `L` at `pc` under join index `j`, parked or not (R147). -/
def PathEntry.Holds (q : PathEntry) (L : Nat) (pc : Pc) (j : BitVec 4) (parked : Bool) : Prop :=
  q.mask.getLsbD L = true ∧ q.pc = pc ∧ q.jidx = j ∧ q.park = parked

/-- Some path of a table holds the lane there: `Warp.Stands` of a table alone. -/
def StandsIn (l : List PathEntry) (L : Nat) (pc : Pc) (j : BitVec 4) (parked : Bool) : Prop :=
  ∃ q ∈ l, q.Holds L pc j parked

section
variable {L : Nat} {pc : Pc} {j : BitVec 4} {k : Bool}

theorem Warp.stands_iff (w : Warp) : w.Stands L pc j k ↔ StandsIn w.paths L pc j k := Iff.rfl

@[simp] theorem standsIn_nil : ¬ StandsIn [] L pc j k := by simp [StandsIn]

@[simp] theorem standsIn_cons (q : PathEntry) (l : List PathEntry) :
    StandsIn (q :: l) L pc j k ↔ q.Holds L pc j k ∨ StandsIn l L pc j k := by simp [StandsIn]

@[simp] theorem standsIn_append (l m : List PathEntry) :
    StandsIn (l ++ m) L pc j k ↔ StandsIn l L pc j k ∨ StandsIn m L pc j k := by
  simp [StandsIn, or_and_right, exists_or]

theorem standsIn_map (f : PathEntry → PathEntry) (l : List PathEntry) :
    StandsIn (l.map f) L pc j k ↔ ∃ q ∈ l, (f q).Holds L pc j k := by
  constructor
  · rintro ⟨_, hmem, h⟩
    obtain ⟨q, hq, rfl⟩ := List.mem_map.1 hmem
    exact ⟨q, hq, h⟩
  · rintro ⟨q, hq, h⟩
    exact ⟨f q, List.mem_map_of_mem hq, h⟩

/-- The test by which an unparked path finds its equals in a table (R148). -/
theorem mergeTest_iff (p q : PathEntry) :
    (!q.park && q.pc == p.pc && q.jidx == p.jidx) = true ↔ q.park = false ∧ q.pc = p.pc ∧ q.jidx = p.jidx := by
  simp [and_assoc]

/-- Merging a path in places its lanes and moves no other (R148). -/
theorem standsIn_mergeInto (l : List PathEntry) (p : PathEntry) :
    StandsIn (mergeInto l p) L pc j k ↔ StandsIn l L pc j k ∨ p.Holds L pc j k := by
  unfold mergeInto
  split
  next => simp
  next hp =>
    split
    next hany =>
      obtain ⟨q₀, hq₀, h₀⟩ := List.any_eq_true.1 hany
      have hp : p.park = false := by simpa using hp
      rw [standsIn_map]
      constructor
      · rintro ⟨q, hq, h⟩
        split at h
        next he =>
          obtain ⟨hpark, hpc, hj⟩ := (mergeTest_iff p q).1 he
          obtain ⟨hm, rfl, rfl, rfl⟩ := h
          rcases (by simpa using hm : q.mask.getLsbD L = true ∨ p.mask.getLsbD L = true) with hm | hm
          · exact .inl ⟨q, hq, hm, rfl, rfl, rfl⟩
          · exact .inr ⟨hm, hpc.symm, hj.symm, hp.trans hpark.symm⟩
        next => exact .inl ⟨q, hq, h⟩
      · rintro (⟨q, hq, h⟩ | h)
        · refine ⟨q, hq, ?_⟩
          split
          next =>
            obtain ⟨hm, hrest⟩ := h
            exact ⟨by simp [hm], hrest⟩
          next => exact h
        · obtain ⟨hm, rfl, rfl, rfl⟩ := h
          obtain ⟨hpark, hpc, hj⟩ := (mergeTest_iff p q₀).1 h₀
          refine ⟨q₀, hq₀, ?_⟩
          rw [if_pos h₀]
          exact ⟨by simp [hm], hpc, hj, hpark.trans hp.symm⟩
    next => simp

theorem standsIn_foldl_mergeInto (l m : List PathEntry) :
    StandsIn (l.foldl mergeInto m) L pc j k ↔ StandsIn m L pc j k ∨ StandsIn l L pc j k := by
  induction l generalizing m with
  | nil => simp
  | cons p l ih => simp [ih, standsIn_mergeInto, or_assoc]

/-- Merging moves no lane (R148). -/
theorem standsIn_mergePaths (l : List PathEntry) : StandsIn (mergePaths l) L pc j k ↔ StandsIn l L pc j k := by
  simp [mergePaths, standsIn_foldl_mergeInto]

/-- Spilling moves an entry, not a lane (R149). -/
theorem standsIn_setSpill (l : List PathEntry) (m : Mask) (b : Bool) :
    StandsIn (setSpill l m b) L pc j k ↔ StandsIn l L pc j k := by
  rw [setSpill, standsIn_map]
  have hsame : ∀ q : PathEntry,
      (if q.mask == m then { q with spilled := b } else q).Holds L pc j k ↔ q.Holds L pc j k := by
    intro q; split <;> rfl
  simp only [hsame]; rfl

theorem standsIn_makeRoom (js : List JoinRec) (l : List PathEntry) :
    StandsIn (makeRoom js l) L pc j k ↔ StandsIn l L pc j k := by
  unfold makeRoom
  split
  next => rfl
  next =>
    split
    next => exact standsIn_setSpill ..
    next => rfl

theorem standsIn_respill (js : List JoinRec) (n : Nat) (l : List PathEntry) :
    StandsIn (respill js n l) L pc j k ↔ StandsIn l L pc j k := by
  induction n generalizing l with
  | zero => rfl
  | succ n ih =>
    simp only [respill]
    split
    next => rw [ih, standsIn_makeRoom]
    next =>
      split
      next => rfl
      next =>
        split
        next => rw [ih, standsIn_setSpill]
        next =>
          split
          next => rw [standsIn_setSpill, standsIn_makeRoom]
          next => rfl

/-- Settling the table moves no lane. -/
theorem Warp.settle_stands (w : Warp) : w.settle.Stands L pc j k ↔ w.Stands L pc j k := by
  simp only [Warp.stands_iff, Warp.settle]
  split
  next => exact standsIn_mergePaths _
  next => rw [standsIn_respill, standsIn_mergePaths]

end

/-- A table that is merged, within its 16 places and on chip is settled. -/
theorem Warp.settle_paths_of (w : Warp) (hm : mergePaths w.paths = w.paths) (hn : w.paths.length ≤ 16)
    (hs : ∀ q ∈ w.paths, q.spilled = false) : w.settle.paths = w.paths := by
  have hchip : (decide ((mergePaths w.paths).length ≤ 16) && (mergePaths w.paths).all (!·.spilled)) = true := by
    rw [hm, Bool.and_eq_true, List.all_eq_true]
    exact ⟨decide_eq_true hn, fun q hq => by simp [hs q hq]⟩
  simp only [Warp.settle]
  rw [if_pos hchip, hm]

theorem topPath_mem {js : List JoinRec} {l : List PathEntry} {p : PathEntry} (h : topPath js l = some p) : p ∈ l := by
  induction l with
  | nil => cases h
  | cons q l ih =>
    unfold topPath at h
    split at h
    next => cases h; exact List.mem_cons_self
    next r hr =>
      split at h
      next => cases h; exact List.mem_cons_of_mem _ (ih hr)
      next => cases h; exact List.mem_cons_self

/-- The active path is an unparked path of the table (R148). -/
theorem Warp.active_mem {w : Warp} {p : PathEntry} (h : w.active = some p) : p ∈ w.paths ∧ p.park = false := by
  simpa using List.mem_filter.1 (topPath_mem h)

/-! ## What an operation of the tables leaves -/

/-- Of warp `w`, `v` differs at most in its path and join tables, its spill area and its exited lanes. -/
def Warp.TablesOnly (w v : Warp) : Prop :=
  { v with exited := w.exited, paths := w.paths, joins := w.joins, spill := w.spill } = w

section
variable {u v w : Warp}

theorem Warp.TablesOnly.trans (h : u.TablesOnly v) (g : v.TablesOnly w) : u.TablesOnly w := by
  unfold Warp.TablesOnly at *; rw [← h, ← g]

theorem Warp.TablesOnly.word (h : w.TablesOnly v) (r L : Nat) : v.word r L = w.word r L := congrArg (·.word r L) h
theorem Warp.TablesOnly.frozen (h : w.TablesOnly v) : v.frozen = w.frozen := congrArg (·.frozen) h
theorem Warp.TablesOnly.step (h : w.TablesOnly v) : v.step = w.step := congrArg (·.step) h
theorem Warp.TablesOnly.heldAt (h : w.TablesOnly v) : v.heldAt = w.heldAt := congrArg (·.heldAt) h
theorem Warp.TablesOnly.pred (h : w.TablesOnly v) (q : Nat) : v.pred q = w.pred q := congrArg (·.pred q) h
theorem Warp.TablesOnly.cc (h : w.TablesOnly v) (L : Nat) : v.cc L = w.cc L := congrArg (·.cc L) h

/-- Every register, predicate and condition code is as before, after the issue record too. -/
theorem Warp.TablesOnly.issued_same (h : w.TablesOnly v) (c : Nat) (k : Hdr) :
    w.SameRegs (v.issued c k) ∧ w.SamePreds (v.issued c k) ∧ w.SameCC (v.issued c k) :=
  ⟨fun r L _ => h.word r L, fun q L _ => congrArg (·.getLsbD L) (h.pred q), fun L _ => h.cc L⟩

end

theorem Warp.tablesOnly_settle (w : Warp) : w.TablesOnly w.settle := rfl

theorem tablesOnly_completeJoin (w : Warp) (j : JoinRec) : w.TablesOnly (completeJoin w j) := by
  unfold completeJoin
  split <;> rfl

/-! ## Completion of a form through its body -/

theorem aput_eq_self {κ ν : Type} [DecidableEq κ] {k : κ} {v : ν} {l : List (κ × ν)} (h : alook k l = some v) :
    aput k v l = l := by
  induction l with
  | nil => cases h
  | cons e l ih =>
    obtain ⟨i, u⟩ := e
    by_cases hi : i = k
    · have hu : u = v := by simpa [alook, hi] using h
      simp [aput, hi, hu]
    · have hl : alook k l = some v := by simpa [alook, hi] using h
      simp [aput, hi, ih hl]

/-- Storing a warp's own record again changes nothing. -/
theorem State.setWarp_eq_self {s : State} {who : Issuer} {w : Warp} (h : s.warp? who = some w) : s.setWarp who w = s := by
  unfold State.setWarp
  rw [aput_eq_self h]

theorem aput_aput {κ ν : Type} [DecidableEq κ] (k : κ) (u v : ν) (l : List (κ × ν)) :
    aput k v (aput k u l) = aput k v l := by
  induction l with
  | nil => simp [aput]
  | cons e l ih =>
    obtain ⟨i, x⟩ := e
    by_cases hi : i = k
    · simp [aput, hi]
    · simp [aput, hi, ih]

/-- The last record stored for a warp is the one that counts. -/
@[simp] theorem State.setWarp_setWarp (s : State) (who : Issuer) (w v : Warp) :
    (s.setWarp who w).setWarp who v = s.setWarp who v := by
  simp [State.setWarp, aput_aput]

/-- A form completes as its body's outcome says where it may issue. -/
theorem completes_of_body {i : Instr} {h : Hdr} {rd wr : List Nat}
    {body : State → Issuer → Warp → PathEntry → Mask → Eff}
    {pre : State → Issuer → Warp → PathEntry → Mask → Prop}
    {post : State → Issuer → Warp → PathEntry → Mask → State → Prop}
    (he : ∀ s, exec i s = issue s (lane i.legal h rd wr) body)
    (hp : ∀ s who w p act, s.warp? who = some w → w.active = some p → w.stepping = false → pre s who w p act →
      post s who w p act (s.finish who w p (lane i.legal h rd wr) act (body s who w p act))) :
    Completes i h .shared rd wr none pre post := fun s who w p hwf hc hs _ hpre =>
  ⟨_, by rw [he]; exact issue_next hc hwf, hp s who w p _ hc.warp hc.path hs hpre⟩

/-- A form that has moved its warp's paths itself, so that the warp is `v`, retires. -/
theorem finish_moved_retired {s : State} {legal : Bool} {h : Hdr} {rd wr : List Nat} {who : Issuer} {w v : Warp}
    {p : PathEntry} {act : Mask} (hs : w.stepping = false) (hv : v.heldAt = w.heldAt) :
    s.Retired who w h (s.finish who w p (lane legal h rd wr) act (.moved (s.setWarp who v))) (v.issued s.cycle h) := by
  have hfin : s.finish who w p (lane legal h rd wr) act (.moved (s.setWarp who v)) =
      s.setWarp who (v.issued s.cycle h) := by
    simp [State.finish, State.retire, hs, lane]
  rw [hfin]
  refine ⟨⟨State.warp?_setWarp_self .., fun i hi => State.warp?_setWarp_ne s _ hi, fun a => rfl, rfl, ?_⟩, rfl⟩
  rw [← hv]; exact ⟨rfl, rfl, rfl, rfl⟩

/-! ## JSET (R150, R155) -/

/-- With a record free, the chosen index is a nonzero one that no live record uses. -/
theorem freeJoin_free {js : List JoinRec} (h : js.length < 15) : freeJoin js ≠ 0 ∧ ∀ r ∈ js, r.idx ≠ freeJoin js := by
  unfold freeJoin
  split
  next i hi =>
    have hrange : 1 ≤ i ∧ i < 16 := by
      have := List.mem_of_find?_eq_some hi
      simp only [rangeFrom, List.mem_map, List.mem_range] at this
      omega
    have hnat : (BitVec.ofNat 4 i).toNat = i := by
      rw [BitVec.toNat_ofNat]; exact Nat.mod_eq_of_lt hrange.2
    have hfree : ∀ r ∈ js, r.idx.toNat ≠ i := by simpa using List.find?_some hi
    refine ⟨fun h0 => ?_, fun r hr he => hfree r hr (by rw [he, hnat])⟩
    rw [h0] at hnat
    exact absurd hnat (by simp; omega)
  next hnone =>
    -- all 15 indices in use take 15 records
    have hsub : rangeFrom 1 15 ⊆ js.map (·.idx.toNat) := by
      intro i hi
      simpa using List.find?_eq_none.1 hnone i hi
    have hle := List.Nodup.length_le_of_subset (by decide : (rangeFrom 1 15).Nodup) hsub
    rw [List.length_map] at hle
    exact absurd h (Nat.not_lt.2 hle)

theorem Warp.tablesOnly_jset (w : Warp) (p : PathEntry) (disp : Word) : w.TablesOnly (w.jset p disp) := rfl

theorem Warp.jset_joins (w : Warp) (p : PathEntry) (disp : Word) : (w.jset p disp).joins =
    w.joins ++ [⟨freeJoin w.joins, pcOf (dispTarget p.pc disp), p.mask, 0, p.jidx⟩] := rfl

/-- The path's entry after JSET: at the next word, under the new record. -/
theorem Warp.jset_stands_iff (w : Warp) (p : PathEntry) (disp : Word) (L : Nat) (pc : Pc) (j : BitVec 4) (k : Bool) :
    (w.jset p disp).Stands L pc j k ↔ ∃ q ∈ w.paths,
      (if q.mask == p.mask then { q with jidx := freeJoin w.joins, pc := q.pc + 1 } else q).Holds L pc j k := by
  unfold Warp.jset
  rw [Warp.settle_stands, Warp.stands_iff, standsIn_map]

theorem Warp.jset_stands {w : Warp} {p : PathEntry} (hp : w.active = some p) (disp : Word) {L : Nat}
    (hL : p.mask.getLsbD L = true) : (w.jset p disp).Stands L (p.pc + 1) (freeJoin w.joins) false := by
  obtain ⟨hmem, hpark⟩ := Warp.active_mem hp
  rw [Warp.jset_stands_iff]
  refine ⟨p, hmem, ?_⟩
  rw [if_pos (beq_self_eq_true _)]
  exact ⟨hL, rfl, rfl, hpark⟩

/-- JSET moves no lane outside its path. -/
theorem Warp.jset_stands_of_not_mem (w : Warp) {p : PathEntry} (disp : Word) {L : Nat} (hL : p.mask.getLsbD L = false)
    (pc : Pc) (j : BitVec 4) (k : Bool) : (w.jset p disp).Stands L pc j k ↔ w.Stands L pc j k := by
  rw [Warp.jset_stands_iff]
  refine exists_congr fun q => and_congr_right fun _ => ?_
  split
  next he =>
    have hq : q.mask.getLsbD L = false := by rw [eq_of_beq he]; exact hL
    simp [PathEntry.Holds, hq]
  next => rfl

/-! ## JWAIT (R156) -/

/-- A record whose parked group is complete is freed, and its lanes stand past the target under its parent. -/
theorem completeJoin_of_complete {w : Warp} {j : JoinRec} (hp : ∃ q ∈ w.paths, q.park = true ∧ q.jidx = j.idx)
    (hg : j.group &&& ~~~j.arrived = 0) :
    (completeJoin w j).paths =
        (w.paths.filter fun p => p.jidx != j.idx) ++ [⟨j.arrived, j.target + 1, j.parent, false, false⟩] ∧
      (completeJoin w j).joins = w.joins.filter fun k => k.idx != j.idx := by
  have hany : ((w.paths.any fun p => p.park && p.jidx == j.idx) && j.group &&& ~~~j.arrived == 0) = true := by
    simpa [hg] using hp
  unfold completeJoin
  rw [if_pos hany]
  exact ⟨rfl, rfl⟩

theorem completeJoin_of_incomplete (w : Warp) {j : JoinRec} (hg : j.group &&& ~~~j.arrived ≠ 0) :
    completeJoin w j = w := by
  unfold completeJoin
  rw [if_neg fun h => hg (eq_of_beq (Bool.and_eq_true_iff.1 h).2)]

/-- The record with the path's lanes among the arrived ones. -/
def JoinRec.arrive (j : JoinRec) (m : Mask) : JoinRec := { j with arrived := j.arrived ||| m }

/-- The warp of a JWAIT before the test of its group: the path parked, its lanes arrived. -/
def Warp.parkAt (w : Warp) (p : PathEntry) (j : JoinRec) : Warp :=
  { w with
    joins := w.joins.map fun i => if i.idx == j.idx then j.arrive p.mask else i
    paths := w.paths.map fun (q : PathEntry) => if q.mask == p.mask then { q with park := true } else q }

theorem Warp.jwait_eq (w : Warp) (p : PathEntry) (j : JoinRec) :
    w.jwait p j = (completeJoin (w.parkAt p j) (j.arrive p.mask)).settle := rfl

theorem Warp.tablesOnly_jwait (w : Warp) (p : PathEntry) (j : JoinRec) : w.TablesOnly (w.jwait p j) :=
  Warp.TablesOnly.trans (v := w.parkAt p j) rfl ((tablesOnly_completeJoin ..).trans (Warp.tablesOnly_settle _))

/-- The active path's entry is parked. -/
theorem Warp.parkAt_mem {w : Warp} {p : PathEntry} (hp : w.active = some p) (j : JoinRec) :
    { p with park := true } ∈ (w.parkAt p j).paths :=
  List.mem_map.2 ⟨p, (Warp.active_mem hp).1, if_pos (beq_self_eq_true _)⟩

/-- With its group complete, JWAIT frees the record and every arrived lane stands past it under the parent. -/
theorem Warp.jwait_complete {w : Warp} {p : PathEntry} {j : JoinRec} (hp : w.active = some p) (hidx : j.idx = p.jidx)
    (hg : j.group &&& ~~~(j.arrived ||| p.mask) = 0) :
    (∀ k ∈ (w.jwait p j).joins, k.idx ≠ p.jidx) ∧
      ∀ L, (j.arrived ||| p.mask).getLsbD L = true → (w.jwait p j).Stands L (j.target + 1) j.parent false := by
  obtain ⟨hpaths, hjoins⟩ := completeJoin_of_complete (w := w.parkAt p j) (j := j.arrive p.mask)
    ⟨_, Warp.parkAt_mem hp j, rfl, hidx.symm⟩ hg
  rw [Warp.jwait_eq]
  constructor
  · intro k hk
    have hk : k ∈ (completeJoin (w.parkAt p j) (j.arrive p.mask)).joins := hk
    rw [hjoins, List.mem_filter] at hk
    rw [← hidx]
    exact bne_iff_ne.1 hk.2
  · intro L hL
    rw [Warp.settle_stands, Warp.stands_iff, hpaths, standsIn_append]
    exact .inr ⟨_, List.mem_singleton_self _, hL, rfl, rfl, rfl⟩

/-- With lanes of its group missing, JWAIT records the arrival and the path's lanes stand parked. -/
theorem Warp.jwait_incomplete {w : Warp} {p : PathEntry} {j : JoinRec} (hp : w.active = some p) (hj : j ∈ w.joins)
    (hg : j.group &&& ~~~(j.arrived ||| p.mask) ≠ 0) :
    j.arrive p.mask ∈ (w.jwait p j).joins ∧ ∀ L, p.mask.getLsbD L = true → (w.jwait p j).Stands L p.pc p.jidx true := by
  have hstay : completeJoin (w.parkAt p j) (j.arrive p.mask) = w.parkAt p j := completeJoin_of_incomplete _ hg
  rw [Warp.jwait_eq, hstay]
  refine ⟨List.mem_map.2 ⟨j, hj, if_pos (beq_self_eq_true _)⟩, fun L hL => ?_⟩
  rw [Warp.settle_stands]
  exact ⟨_, Warp.parkAt_mem hp j, hL, rfl, rfl, rfl⟩

/-! ## The obligation -/

/-- JSET's outcome: the trap when 15 records live, else the warp with its new record. -/
def jsetBody (x : DispOp) (s : State) (who : Issuer) (w : Warp) (p : PathEntry) (act : Mask) : Eff :=
  if w.joins.length ≥ 15 then .trap 0x06 act 0 else .moved (s.setWarp who (w.jset p x.disp))

theorem exec_jset (x : DispOp) (s : State) :
    exec (.jset x) s = issue s (lane (Instr.jset x).legal x.h [] []) (jsetBody x) := rfl

/-- JWAIT's outcome: the trap without a record or off its target, else the warp with the path at its join. -/
def jwaitBody (s : State) (who : Issuer) (w : Warp) (p : PathEntry) (_ : Mask) : Eff :=
  match w.joins.find? fun j => j.idx == p.jidx with
  | none => .trap 0x07 p.mask 0
  | some j =>
    if p.jidx = 0 then .trap 0x07 p.mask 0
    else if j.target ≠ p.pc then .trap 0x07 p.mask (j.target.toNat * 16)
    else .moved (s.setWarp who (w.jwait p j))

theorem exec_jwait (x : Bare) (s : State) :
    exec (.jwait x) s = issue s (lane (Instr.jwait x).legal x.h [] []) jwaitBody := rfl

theorem jwaitBody_at_target {s : State} {who : Issuer} {w : Warp} {p : PathEntry} {j : JoinRec} (act : Mask)
    (h0 : p.jidx ≠ 0) (hj : w.joins.find? (fun j => j.idx == p.jidx) = some j) (ht : j.target = p.pc) :
    jwaitBody s who w p act = .moved (s.setWarp who (w.jwait p j)) := by
  simp only [jwaitBody, hj]
  rw [if_neg h0, if_neg (not_not_intro ht)]

theorem jwaitBody_mismatch {s : State} {who : Issuer} {w : Warp} {p : PathEntry} (act : Mask)
    (h : p.jidx = 0 ∨ ∀ j, w.joins.find? (fun j => j.idx == p.jidx) = some j → j.target ≠ p.pc) :
    ∃ d, jwaitBody s who w p act = .trap 0x07 p.mask d := by
  unfold jwaitBody
  split
  next => exact ⟨_, rfl⟩
  next j hj =>
    split
    next => exact ⟨_, rfl⟩
    next h0 =>
      have ht := h.resolve_left h0 j hj
      rw [if_pos ht]
      exact ⟨_, rfl⟩

/-- Settles O13, form by form, from where the lanes stand in the new tables. -/
theorem jsetAndJwaitKeepTheJoins : Obligations.JsetAndJwaitKeepTheJoins := by
  unfold Obligations.JsetAndJwaitKeepTheJoins
  refine ⟨fun x => ⟨completes_of_body (exec_jset x) ?registers, completes_of_body (exec_jset x) ?overflow⟩,
    fun x => ⟨completes_of_body (exec_jwait x) ?arrives, completes_of_body (exec_jwait x) ?mismatch⟩⟩
  case registers =>
    intro s who w p act _ hp hs hroom
    rw [jsetBody, if_neg (Nat.not_le.2 hroom)]
    obtain ⟨hj0, hfree⟩ := freeJoin_free hroom
    have hsame := (w.tablesOnly_jset p x.disp).issued_same s.cycle x.h
    exact ⟨_, _, finish_moved_retired hs (w.tablesOnly_jset p x.disp).heldAt, hj0, hfree, w.jset_joins p x.disp,
      fun L hL => Warp.jset_stands hp x.disp hL, fun L pc k b hL => w.jset_stands_of_not_mem x.disp hL pc k b, hsame⟩
  case overflow =>
    intro s who w p act _ _ _ hfull
    rw [jsetBody, if_pos hfull]
    rfl
  case arrives =>
    rintro s who w p act - hp hs ⟨h0, j, hj, ht⟩
    rw [jwaitBody_at_target act h0 hj ht]
    have hidx : j.idx = p.jidx := by simpa using List.find?_some hj
    obtain ⟨hregs, hpreds, hcc⟩ := (w.tablesOnly_jwait p j).issued_same s.cycle x.h
    refine ⟨_, j, finish_moved_retired hs (w.tablesOnly_jwait p j).heldAt, hj, hregs, hpreds, hcc, ?_⟩
    split
    next hg =>
      obtain ⟨hfreed, hstands⟩ := Warp.jwait_complete hp hidx hg
      exact ⟨hfreed, fun L hL => ht ▸ hstands L hL⟩
    next hg =>
      obtain ⟨harrived, hstands⟩ := Warp.jwait_incomplete hp (List.mem_of_find?_eq_some hj) hg
      exact ⟨⟨_, harrived, rfl⟩, hstands⟩
  case mismatch =>
    intro s who w p act _ _ _ hbad
    obtain ⟨d, hd⟩ := jwaitBody_mismatch (s := s) (who := who) act hbad
    exact ⟨d, by rw [hd]; rfl⟩

end Sys2Proof.Machine
end

/-! Entry into a handler by TRAP and BRK, and ERET (R162, R163, R392, R394): the uniform registers that entry and return
write, and the tables after the exited lanes have left them (R151). -/

section
namespace Sys2Proof.Machine

/-! ## Writing the uniform registers from g0 upward (R392) -/

/-- Register g`k` holds entry `k` of the list. -/
theorem Warp.word_putG (w : Warp) {l : List Word} {k : Nat} (hk : k < l.length) (L : Nat) :
    (w.putG l).word (384 + k) L = l.getD k 0 := by
  have hget : l[k]? = some l[k] := List.getElem?_eq_getElem hk
  have hsub : 384 + k - 384 = k := by omega
  unfold Warp.putG Warp.word
  rw [if_neg (by omega), hsub, List.getD_eq_getElem?_getD, hget]
  refine sget_putAll_hit 0 _ _ _ _ ⟨_, List.mem_map.2 ⟨(l[k], k), List.mem_zipIdx_iff_getElem?.2 hget, rfl⟩, rfl⟩ ?_
  rintro _ hmem rfl
  obtain ⟨e, he, rfl⟩ := List.mem_map.1 hmem
  exact Option.some.inj ((List.mem_zipIdx_iff_getElem?.1 he).symm.trans hget)

/-- Every other register is as before. -/
theorem Warp.word_putG_out (w : Warp) {l : List Word} {r : Nat} (hr : r < 384 ∨ 384 + l.length ≤ r) (L : Nat) :
    (w.putG l).word r L = w.word r L := by
  unfold Warp.putG Warp.word
  split
  next => rfl
  next hlt =>
    refine sget_putAll_miss 0 _ _ _ fun u hu hkey => ?_
    obtain ⟨e, he, rfl⟩ := List.mem_map.1 hu
    obtain ⟨hlen, -⟩ := List.getElem?_eq_some_iff.1 (List.mem_zipIdx_iff_getElem?.1 he)
    have hkey : e.2 = r - 384 := hkey
    omega

/-! ## Entry after retiring (R162) -/

/-- The state of a form that retires and then traps. -/
theorem finish_after {s : State} {legal : Bool} {h : Hdr} {rd wr : List Nat} {who : Issuer} {w : Warp} {p : PathEntry}
    {act lanes : Mask} {cause detail : Nat} (hw : s.warp? who = some w) :
    s.finish who w p (lane legal h rd wr) act (.after s cause lanes detail) =
      (s.setWarp who ((w.advance p).issued s.cycle h)).takeTrap who cause lanes detail p.pc := by
  simp [State.finish, State.advance, State.retire, hw, lane]

/-- The warp that enters its handler, from the cycle after the trap on (R45, R163). -/
def State.inHandler (s : State) (who : Issuer) (w : Warp) (b : Block) (cause : Nat) (lanes : Mask) (detail : Nat)
    (pc : Pc) : Warp :=
  { (w.enter (s.parkedWarp who w) (pcOf (kdCode b.kd + kdTrap b.kd)) cause lanes detail pc) with
    notBefore := max w.notBefore (s.clock (s.clockKey who) + 1) }

/-- A warp outside its handler, of a kernel that has one, enters it (R163). -/
theorem State.takeTrap_enters {s : State} {h wid : Nat} {w : Warp} {b : Block} (hw : s.warp? (.warp h wid) = some w)
    (hb : s.block? h = some b) (hf : w.frozen = none) (hv : kdTrapv b.kd = true) (cause : Nat) (lanes : Mask)
    (detail : Nat) (pc : Pc) : s.takeTrap (.warp h wid) cause lanes detail pc =
      s.setWarp (.warp h wid) (s.inHandler (.warp h wid) w b cause lanes detail pc) := by
  simp [State.takeTrap, State.inHandler, hw, hb, hf, hv]

/-- What the handler finds in g0 to g6 (R392). -/
def Warp.trapWords (w : Warp) (parked : Bool) (cause : Nat) (lanes : Mask) (detail : Nat) (pc : Pc) : List Word :=
  [lanes, BitVec.ofNat 32 cause, wordAt detail 0, wordAt detail 1, w.wsw parked, wordAt (pc.toNat * 16) 0,
    wordAt (pc.toNat * 16) 1]

section
variable (s : State) (who : Issuer) (w : Warp) (b : Block) (cause : Nat) (lanes : Mask) (detail : Nat) (pc : Pc)

theorem State.inHandler_frozen : (s.inHandler who w b cause lanes detail pc).frozen =
    some ⟨w.g7, w.step, w.paths, w.joins⟩ := rfl

theorem State.inHandler_word (r L : Nat) : (s.inHandler who w b cause lanes detail pc).word r L =
    (w.putG (w.trapWords (s.parkedWarp who w) cause lanes detail pc)).word r L := rfl

/-- The registers that the handler finds: the lanes, the cause and the detail, and every other register as before. -/
theorem State.inHandler_words :
    let v := s.inHandler who w b cause lanes detail pc
    v.word 384 0 = lanes ∧ v.word 385 0 = BitVec.ofNat 32 cause ∧ v.word 386 0 = BitVec.ofNat 32 detail ∧
      ∀ r L, r < 384 ∨ 390 < r → v.word r L = w.word r L := by
  have hg : ∀ k, k < 7 → (s.inHandler who w b cause lanes detail pc).word (384 + k) 0 =
      (w.trapWords (s.parkedWarp who w) cause lanes detail pc).getD k 0 := by
    intro k hk
    rw [State.inHandler_word, w.word_putG hk]
  refine ⟨hg 0 (by omega), hg 1 (by omega), (hg 2 (by omega)).trans ?_, fun r L hr => ?_⟩
  · simp [Warp.trapWords, wordAt]
  · rw [State.inHandler_word, w.word_putG_out hr]

end

/-- TRAP's and BRK's outcome. -/
def trapBody (x : TrapOp) (cause : Nat) (s : State) (_ : Issuer) (_ : Warp) (_ : PathEntry) (act : Mask) : Eff :=
  if act = 0 then .done s else .after s cause act x.code.toNat

theorem exec_trap (x : TrapOp) (s : State) :
    exec (.trap x) s = issue s (lane (Instr.trap x).legal x.h [] []) (trapBody x 0x09) := rfl

theorem exec_brk (x : TrapOp) (s : State) :
    exec (.brk x) s = issue s (lane (Instr.brk x).legal x.h [] []) (trapBody x 0x0A) := rfl

/-- What TRAP or BRK with a lane in `active` leaves: the warp in its handler, its tables frozen past the form. -/
def EntersHandler (x : TrapOp) (cause : Nat) (s : State) (who : Issuer) (w : Warp) (p : PathEntry) (act : Mask)
    (t : State) : Prop :=
  ∃ v f, t.warp? who = some v ∧ (∀ i, i ≠ who → t.warp? i = s.warp? i) ∧
    (∀ a, t.byte a = s.byte a) ∧ v.frozen = some f ∧ f.paths = (w.advance p).paths ∧ f.joins = w.joins ∧
    v.word 384 0 = act ∧ v.word 385 0 = BitVec.ofNat 32 cause ∧ v.word 386 0 = BitVec.ofNat 32 x.code.toNat ∧
    ∀ r L, r < 384 ∨ 390 < r → v.word r L = w.word r L

theorem entersHandler_of {x : TrapOp} {cause : Nat} {s : State} {h wid : Nat} {w : Warp} {p : PathEntry} {act : Mask}
    {b : Block} {legal : Bool} (hw : s.warp? (.warp h wid) = some w) (hact : act ≠ 0) (hf : w.frozen = none)
    (hb : s.block? h = some b) (hv : kdTrapv b.kd = true) :
    EntersHandler x cause s (.warp h wid) w p act
      (s.finish (.warp h wid) w p (lane legal x.h [] []) act (trapBody x cause s (.warp h wid) w p act)) := by
  have hblock : (s.setWarp (.warp h wid) ((w.advance p).issued s.cycle x.h)).block? h = some b := hb
  rw [trapBody, if_neg hact, finish_after hw, State.takeTrap_enters (State.warp?_setWarp_self ..) hblock hf hv,
    State.setWarp_setWarp]
  exact ⟨_, _, State.warp?_setWarp_self .., fun i hi => State.warp?_setWarp_ne s _ hi, fun a => rfl,
    State.inHandler_frozen .., rfl, rfl, State.inHandler_words ..⟩

/-- With no lane in `active` the form only goes on. -/
theorem finish_done_goesOn {s : State} {legal : Bool} {h : Hdr} {rd wr : List Nat} {who : Issuer} {w : Warp}
    {p : PathEntry} {act : Mask} (hw : s.warp? who = some w) (hs : w.stepping = false) :
    ∃ v, s.Retired who w h (s.finish who w p (lane legal h rd wr) act (.done s)) v ∧ w.WentOn p v ∧ w.SameData v := by
  obtain ⟨t, ht, hr⟩ := finish_done_retired (s := s) (f := lane legal h rd wr) (who := who) (p := p) (act := act) hs
    (rfl : w.heldAt = w.heldAt)
  rw [State.setWarp_eq_self hw] at ht
  exact ⟨_, ht ▸ hr, (Warp.DataOnly.refl w).wentOn .., rfl⟩

/-- TRAP and BRK, each with its cause (R162). -/
theorem trapForm_completes {i : Instr} {x : TrapOp} {cause : Nat}
    (he : ∀ s, exec i s = issue s (lane i.legal x.h [] []) (trapBody x cause)) :
    Completes i x.h .shared [] [] none
        (fun s who w _ act => act ≠ 0 ∧ w.frozen = none ∧
          ∃ h wid b, who = .warp h wid ∧ s.block? h = some b ∧ kdTrapv b.kd = true)
        (EntersHandler x cause) ∧
      Completes i x.h .shared [] [] none (fun _ _ _ _ act => act = 0) fun s who w p _ t =>
        ∃ v, s.Retired who w x.h t v ∧ w.WentOn p v ∧ w.SameData v := by
  refine ⟨completes_of_body he ?_, completes_of_body he ?_⟩
  · rintro s _ w p act hw - - ⟨hact, hf, h, wid, b, rfl, hb, hv⟩
    exact entersHandler_of hw hact hf hb hv
  · intro s who w p act hw _ hs hact
    rw [trapBody, if_pos hact]
    exact finish_done_goesOn hw hs

/-! ## Lanes that leave the tables (R151) -/

/-- The tables without the lanes of `m`, before any record completes. -/
def Warp.withoutLanes (w : Warp) (m : Mask) : Warp :=
  { w with
    exited := w.exited ||| m
    paths := (w.paths.map fun (p : PathEntry) => { p with mask := p.mask &&& ~~~m }).filter fun p => p.mask != 0
    joins := w.joins.map fun (j : JoinRec) => { j with group := j.group &&& ~~~m, arrived := j.arrived &&& ~~~m } }

theorem Warp.dropLanes_eq (w : Warp) (m : Mask) :
    w.dropLanes m = ((w.withoutLanes m).joins.foldl completeJoin (w.withoutLanes m)).settle := rfl

theorem tablesOnly_foldl_completeJoin (js : List JoinRec) (w : Warp) : w.TablesOnly (js.foldl completeJoin w) := by
  induction js generalizing w with
  | nil => rfl
  | cons j js ih => exact (tablesOnly_completeJoin w j).trans (ih _)

theorem Warp.tablesOnly_dropLanes (w : Warp) (m : Mask) : w.TablesOnly (w.dropLanes m) :=
  Warp.TablesOnly.trans (v := w.withoutLanes m) rfl
    ((tablesOnly_foldl_completeJoin ..).trans (Warp.tablesOnly_settle _))

/-- Lane `L` stands on no path of the warp. -/
def Warp.OffPaths (w : Warp) (L : Nat) : Prop := ∀ q ∈ w.paths, q.mask.getLsbD L = false

theorem Warp.OffPaths.not_stands {w : Warp} {L : Nat} (h : w.OffPaths L) (pc : Pc) (j : BitVec 4) (k : Bool) :
    ¬ w.Stands L pc j k := by
  rintro ⟨q, hq, hm, -⟩
  rw [h q hq] at hm
  cases hm

/-- A record that completes places its arrived lanes alone. -/
theorem Warp.OffPaths.completeJoin {w : Warp} {L : Nat} (h : w.OffPaths L) {j : JoinRec}
    (hj : j.arrived.getLsbD L = false) : (completeJoin w j).OffPaths L := by
  unfold Machine.completeJoin
  split
  next =>
    intro q hq
    rcases List.mem_append.1 hq with hq | hq
    · exact h q (List.mem_filter.1 hq).1
    · rw [List.mem_singleton.1 hq]; exact hj
  next => exact h

theorem Warp.OffPaths.foldl_completeJoin {w : Warp} {L : Nat} (h : w.OffPaths L) {js : List JoinRec}
    (hjs : ∀ j ∈ js, j.arrived.getLsbD L = false) : (js.foldl Machine.completeJoin w).OffPaths L := by
  induction js generalizing w with
  | nil => exact h
  | cons j js ih =>
    rw [List.forall_mem_cons] at hjs
    exact ih (h.completeJoin hjs.1) hjs.2

/-- Lanes that have left stand nowhere, also where a record has completed meanwhile. -/
theorem Warp.dropLanes_not_stands (w : Warp) {m : Mask} {L : Nat} (hL : m.getLsbD L = true) (pc : Pc) (j : BitVec 4)
    (k : Bool) : ¬ (w.dropLanes m).Stands L pc j k := by
  have hpaths : (w.withoutLanes m).OffPaths L := by
    intro q hq
    obtain ⟨r, -, rfl⟩ := List.mem_map.1 (List.mem_filter.1 hq).1
    simp [hL]
  have hjoins : ∀ i ∈ (w.withoutLanes m).joins, i.arrived.getLsbD L = false := by
    intro i hi
    obtain ⟨r, -, rfl⟩ := List.mem_map.1 hi
    simp [hL]
  rw [Warp.dropLanes_eq, Warp.settle_stands]
  exact (hpaths.foldl_completeJoin hjoins).not_stands pc j k

theorem mask_and_not_of_and_eq_zero {x m : Mask} (h : x &&& m = 0) : x &&& ~~~m = x := by
  refine BitVec.eq_of_getLsbD_eq fun i hi => ?_
  have hbit : (x &&& m).getLsbD i = false := by rw [h]; simp
  simp only [BitVec.getLsbD_and, BitVec.getLsbD_not, hi] at hbit ⊢
  cases hx : x.getLsbD i <;> simp_all

theorem foldl_completeJoin_of_incomplete {js : List JoinRec} (h : ∀ j ∈ js, j.group &&& ~~~j.arrived ≠ 0) (w : Warp) :
    js.foldl completeJoin w = w := by
  induction js with
  | nil => rfl
  | cons j js ih =>
    rw [List.forall_mem_cons] at h
    rw [List.foldl_cons, completeJoin_of_incomplete w h.1, ih h.2]

/-- Lanes that stand on no path and in no record leave the tables as they are. -/
theorem Warp.withoutLanes_of_absent {w : Warp} {m : Mask} (hp : ∀ q ∈ w.paths, q.mask ≠ 0 ∧ q.mask &&& m = 0)
    (hj : ∀ j ∈ w.joins, (j.group ||| j.arrived) &&& m = 0) : w.withoutLanes m = { w with exited := w.exited ||| m } := by
  have hpaths : (w.paths.map fun (q : PathEntry) => { q with mask := q.mask &&& ~~~m }) = w.paths :=
    (List.map_congr_left fun q hq => by rw [mask_and_not_of_and_eq_zero (hp q hq).2]; rfl).trans (List.map_id _)
  have hfilter : (w.paths.filter fun q => q.mask != 0) = w.paths :=
    List.filter_eq_self.2 fun q hq => bne_iff_ne.2 (hp q hq).1
  have hjoins : (w.joins.map fun (j : JoinRec) => { j with group := j.group &&& ~~~m, arrived := j.arrived &&& ~~~m }) =
      w.joins := by
    refine (List.map_congr_left fun j hjm => ?_).trans (List.map_id _)
    have h := hj j hjm
    rw [BitVec.and_or_distrib_right] at h
    obtain ⟨hg, ha⟩ := BitVec.or_eq_zero_iff.1 h
    rw [mask_and_not_of_and_eq_zero hg, mask_and_not_of_and_eq_zero ha]
    rfl
  unfold Warp.withoutLanes
  rw [hpaths, hfilter, hjoins]

/-- Settled tables in which no lane has left and no record is complete stay as they are. -/
theorem Warp.dropLanes_tables {w : Warp} {m : Mask} (hp : ∀ q ∈ w.paths, q.mask ≠ 0 ∧ q.mask &&& m = 0 ∧ q.spilled = false)
    (hj : ∀ j ∈ w.joins, (j.group ||| j.arrived) &&& m = 0 ∧ j.group &&& ~~~j.arrived ≠ 0)
    (hn : w.paths.length ≤ 16) (hm : mergePaths w.paths = w.paths) :
    (w.dropLanes m).paths = w.paths ∧ (w.dropLanes m).joins = w.joins := by
  have hstay := Warp.withoutLanes_of_absent (fun q hq => ⟨(hp q hq).1, (hp q hq).2.1⟩) fun j hjm => (hj j hjm).1
  rw [Warp.dropLanes_eq, hstay, foldl_completeJoin_of_incomplete fun j hjm => (hj j hjm).2]
  exact ⟨Warp.settle_paths_of _ hm hn fun q hq => (hp q hq).2.2, rfl⟩

/-! ## ERET (R163, R394) -/

/-- The warp of an ERET before the lanes that exited in the handler leave its tables. -/
def Warp.unfreeze (w : Warp) (f : Frozen) : Warp :=
  { (w.putG f.g) with
    step := (sget 0 w.gregs 1).getLsbD 31
    frozen := none
    paths := f.paths
    joins := f.joins }

theorem Warp.eret_eq (w : Warp) (f : Frozen) : w.eret f = (w.unfreeze f).dropLanes w.exited := rfl

theorem Warp.tablesOnly_eret (w : Warp) (f : Frozen) : (w.unfreeze f).TablesOnly (w.eret f) :=
  Warp.tablesOnly_dropLanes ..

/-- ERET writes g0 to g6 alone. -/
theorem Warp.eret_word (w : Warp) (f : Frozen) (r L : Nat) : (w.eret f).word r L = (w.putG f.g).word r L :=
  (w.tablesOnly_eret f).word r L

/-- ERET's outcome: the illegal-instruction trap outside a handler, else the frozen warp. -/
def eretBody (s : State) (who : Issuer) (w : Warp) (p : PathEntry) (_ : Mask) : Eff :=
  match w.frozen with
  | none => .trap 0x01 p.mask 0
  | some f => .moved (s.setWarp who (w.eret f))

theorem exec_eret (x : Bare) (s : State) :
    exec (.eret x) s = issue s (lane (Instr.eret x).legal x.h [] []) eretBody := rfl

/-- Settles O18: TRAP and BRK retire and enter the handler, and ERET takes back the frozen registers and tables. -/
theorem trapBrkAndEretEnterAndLeaveTheHandler : Obligations.TrapBrkAndEretEnterAndLeaveTheHandler := by
  unfold Obligations.TrapBrkAndEretEnterAndLeaveTheHandler
  refine ⟨fun x => ⟨trapForm_completes (exec_trap x), trapForm_completes (exec_brk x)⟩,
    fun x => ⟨completes_of_body (exec_eret x) ?returns, completes_of_body (exec_eret x) ?outside⟩⟩
  case returns =>
    rintro s who w p act - - hs ⟨f, hf, hlen⟩
    have hbody : eretBody s who w p act = .moved (s.setWarp who (w.eret f)) := by rw [eretBody, hf]
    have htables := w.tablesOnly_eret f
    obtain ⟨-, hpreds, hcc⟩ := htables.issued_same s.cycle x.h
    rw [hbody]
    refine ⟨_, f, (finish_moved_retired hs htables.heldAt).core, hf, htables.frozen, fun k hk => ?_, htables.step,
      fun r L hr => ?_, hpreds, hcc, fun L pc j k hL => (w.unfreeze f).dropLanes_not_stands hL pc j k,
      fun hn hm hp hj => Warp.dropLanes_tables (w := w.unfreeze f) hp hj hn hm⟩
    · exact (w.eret_word f _ 0).trans (w.word_putG (hlen ▸ hk) 0)
    · exact (w.eret_word f r L).trans (w.word_putG_out (hr.imp_right fun h => by omega) L)
  case outside =>
    intro s who w p act _ _ _ hf
    have hbody : eretBody s who w p act = .trap 0x01 p.mask 0 := by rw [eretBody, hf]
    rw [hbody]
    rfl

end Sys2Proof.Machine
end

/-! The compositor's slots (R276 to R288): the layout of a slot, its arrivals, commits, flushes and retirement, and an
operation of one lane at the head of its stream. -/

section
namespace Sys2Proof.Machine

/-! ## The layout of a slot (R276) -/

/-- Words of equal width as one number, the first lowest. -/
def packed {w : Nat} : List (BitVec w) → Nat
  | [] => 0
  | v :: l => v.toNat + 2 ^ w * packed l

theorem packed_lt {w : Nat} (l : List (BitVec w)) : packed l < (2 ^ w) ^ l.length := by
  induction l with
  | nil => exact Nat.zero_lt_one
  | cons v l ih =>
    calc packed (v :: l) < 2 ^ w + 2 ^ w * packed l := Nat.add_lt_add_right v.isLt _
      _ = 2 ^ w * (packed l + 1) := by rw [Nat.mul_succ, Nat.add_comm]
      _ ≤ 2 ^ w * (2 ^ w) ^ l.length := Nat.mul_le_mul_left _ ih
      _ = (2 ^ w) ^ (l.length + 1) := by rw [Nat.pow_succ, Nat.mul_comm]

theorem packed_cons_div {w : Nat} (v : BitVec w) (l : List (BitVec w)) : packed (v :: l) / 2 ^ w = packed l := by
  rw [packed, Nat.add_mul_div_left _ _ (Nat.two_pow_pos w), Nat.div_eq_of_lt v.isLt, Nat.zero_add]

/-- Word `j` of such a number. -/
theorem packed_div_mod {w : Nat} (l : List (BitVec w)) {j : Nat} (hj : j < l.length) :
    packed l / 2 ^ (w * j) % 2 ^ w = l[j].toNat := by
  induction l generalizing j with
  | nil => exact absurd hj (Nat.not_lt_zero j)
  | cons v l ih =>
    cases j with
    | zero =>
      rw [Nat.mul_zero, Nat.pow_zero, Nat.div_one, packed, Nat.add_mul_mod_self_left, Nat.mod_eq_of_lt v.isLt]; rfl
    | succ j =>
      rw [Nat.mul_succ, Nat.add_comm, Nat.pow_add, ← Nat.div_div_eq_div_mul, packed_cons_div]
      exact ih (Nat.lt_of_succ_lt_succ hj)

/-- The model's sum of words, each at its place above bit `c`. -/
theorem foldl_zipIdx_eq_packed {w : Nat} (c k a : Nat) (l : List (BitVec w)) :
    ((l.zipIdx k).map fun p => p.1.toNat * 2 ^ (c + w * p.2)).foldl (· + ·) a = a + 2 ^ (c + w * k) * packed l := by
  induction l generalizing k a with
  | nil => rfl
  | cons v l ih =>
    have hnext : 2 ^ (c + w * (k + 1)) = 2 ^ (c + w * k) * 2 ^ w := by rw [Nat.mul_succ, ← Nat.add_assoc, Nat.pow_add]
    rw [List.zipIdx_cons, List.map_cons, List.foldl_cons, ih, hnext, packed, Nat.mul_add, Nat.mul_assoc, Nat.add_assoc,
      Nat.mul_comm v.toNat]

/-- The entries of a slot as one number, the front lowest. -/
def Slot.entryBits (s : Slot) : Nat := packed s.ents

theorem Slot.toBits_eq (s : Slot) : s.toBits = BitVec.ofNat 1024 (s.header + 2 ^ 256 * s.entryBits) := by
  rw [Slot.toBits, foldl_zipIdx_eq_packed, Nat.zero_add]; rfl

/-- The counts and the entries of a slot fit their fields (R276). -/
structure Slot.Fits (s : Slot) : Prop where
  lp : s.lp < 2 ^ 24
  nc : s.nc < 2 ^ 16
  nl : s.nl < 2 ^ 8
  nd : s.nd < 2 ^ 8
  front : s.front < 2 ^ 32
  ch : s.ch.length = 4
  ents : s.ents.length ≤ 6

theorem exists_four_of_length {α : Type} : ∀ {l : List α}, l.length = 4 → ∃ a b c d, l = [a, b, c, d]
  | [a, b, c, d], _ => ⟨a, b, c, d, rfl⟩

theorem Slot.Fits.channels {s : Slot} (h : s.Fits) : ∃ a b c d, s.ch = [a, b, c, d] := exists_four_of_length h.ch

theorem Slot.Fits.entryBits_lt {s : Slot} (h : s.Fits) : s.entryBits < (2 ^ 128) ^ 6 :=
  Nat.lt_of_lt_of_le (packed_lt s.ents) (Nat.pow_le_pow_right (Nat.two_pow_pos _) h.ents)

theorem ite_eq_toNat_mul (b : Bool) (n : Nat) : (if b then n else 0) = b.toNat * n := by
  cases b <;> simp

/-- The radiance channels of a slot as one number, channel 0 lowest. -/
def Slot.channelBits (s : Slot) : Nat := packed s.ch

theorem Slot.channelBits_eq {s : Slot} {a b c d : Word} (hch : s.ch = [a, b, c, d]) :
    s.channelBits = a.toNat + 2 ^ 32 * (b.toNat + 2 ^ 32 * (c.toNat + 2 ^ 32 * d.toNat)) := by
  simp only [Slot.channelBits, hch, packed, Nat.mul_zero, Nat.add_zero]

theorem Slot.header_eq (s : Slot) :
    s.header = s.channelBits + s.t.toNat * 2 ^ 128 + s.front * 2 ^ 160 +
      s.nd * 2 ^ 192 + s.nl * 2 ^ 200 + s.nc * 2 ^ 208 + s.lp * 2 ^ 224 + s.ents.length * 2 ^ 250 +
      s.lfull.toNat * 2 ^ 253 + s.loge.toNat * 2 ^ 254 + s.ret.toNat * 2 ^ 255 := by
  have hch : (s.ch.zipIdx.map fun p => p.1.toNat * 2 ^ (32 * p.2)).foldl (· + ·) 0 = s.channelBits := by
    simpa only [Slot.channelBits, Nat.zero_add, Nat.mul_zero, Nat.pow_zero, Nat.one_mul] using foldl_zipIdx_eq_packed 0 0 0 s.ch
  rw [Slot.header, hch, ite_eq_toNat_mul, ite_eq_toNat_mul, ite_eq_toNat_mul]

theorem Slot.Fits.header_lt {s : Slot} (h : s.Fits) : s.header < 2 ^ 256 := by
  obtain ⟨a, b, c, d, hch⟩ := h.channels
  obtain ⟨hlp, hnc, hnl, hnd, hfront, -, hents⟩ := h
  have hf := s.lfull.toNat_le
  have hl := s.loge.toNat_le
  have hr := s.ret.toNat_le
  rw [Slot.header_eq, Slot.channelBits_eq hch]
  omega

theorem two_pow_mul_pow (a b c : Nat) : 2 ^ a * (2 ^ b) ^ c = 2 ^ (a + b * c) := by rw [Nat.pow_add, Nat.pow_mul]

theorem toNat_ofNat_of_lt {n w x : Nat} (hn : n ≤ w) (h : x < 2 ^ n) : (BitVec.ofNat w x).toNat = x :=
  (BitVec.toNat_ofNat ..).trans (Nat.mod_eq_of_lt (Nat.lt_of_lt_of_le h (Nat.pow_le_pow_right Nat.zero_lt_two hn)))

theorem Slot.Fits.toNat_toBits {s : Slot} (h : s.Fits) : s.toBits.toNat = s.header + 2 ^ 256 * s.entryBits := by
  have hlt : s.header + 2 ^ 256 * s.entryBits < 2 ^ (256 + 128 * 6) :=
    calc s.header + 2 ^ 256 * s.entryBits < 2 ^ 256 + 2 ^ 256 * s.entryBits := Nat.add_lt_add_right h.header_lt _
      _ = 2 ^ 256 * (s.entryBits + 1) := by rw [Nat.mul_succ, Nat.add_comm]
      _ ≤ 2 ^ 256 * (2 ^ 128) ^ 6 := Nat.mul_le_mul_left _ h.entryBits_lt
      _ = 2 ^ (256 + 128 * 6) := two_pow_mul_pow 256 128 6
  rw [Slot.toBits_eq, toNat_ofNat_of_lt (by decide) hlt]

/-- An entry of a slot stands at its place (R276). -/
theorem Slot.Fits.entry {s : Slot} (h : s.Fits) {j : Nat} (hj : j < s.ents.length) :
    s.toBits.extractLsb' (256 + 128 * j) 128 = s.ents[j] := by
  have hh := h.header_lt
  apply BitVec.eq_of_toNat_eq
  rw [BitVec.extractLsb'_toNat, h.toNat_toBits, Nat.shiftRight_eq_div_pow, Nat.pow_add, ← Nat.div_div_eq_div_mul,
    Nat.add_mul_div_left _ _ (Nat.two_pow_pos _), Nat.div_eq_of_lt hh, Nat.zero_add]
  exact packed_div_mod s.ents hj

theorem bitAt_eq_of_toNat {x i : Nat} {v : Bool} (h : x / 2 ^ i % 2 = v.toNat) : bitAt x i = v := by
  rw [bitAt, h]; cases v <;> rfl

theorem wordAt_eq_of_toNat {x i : Nat} {v : Word} (h : x / 2 ^ (32 * i) % 2 ^ 32 = v.toNat) : wordAt x i = v :=
  BitVec.eq_of_toNat_eq ((BitVec.toNat_ofNat ..).trans h)

/-- A slot that fits its fields is read back as it was written (R276). -/
theorem Slot.Fits.ofBits_toBits {s : Slot} (h : s.Fits) : Slot.ofBits s.toBits = s := by
  have hentry := @h.entry
  have hx := h.toNat_toBits
  obtain ⟨a, b, c, d, hch⟩ := h.channels
  rw [Slot.header_eq, Slot.channelBits_eq hch] at hx
  obtain ⟨hlp, hnc, hnl, hnd, hfront, -, hents⟩ := h
  have hf := s.lfull.toNat_le
  have hl := s.loge.toNat_le
  have hr := s.ret.toNat_le
  have hret : bitAt s.toBits.toNat 255 = s.ret := bitAt_eq_of_toNat (by omega)
  have hloge : bitAt s.toBits.toNat 254 = s.loge := bitAt_eq_of_toNat (by omega)
  have hlfull : bitAt s.toBits.toNat 253 = s.lfull := bitAt_eq_of_toNat (by omega)
  have hbn : bits s.toBits.toNat 252 250 = s.ents.length := by unfold bits; omega
  have hlp' : bits s.toBits.toNat 247 224 = s.lp := by unfold bits; omega
  have hnc' : bits s.toBits.toNat 223 208 = s.nc := by unfold bits; omega
  have hnl' : bits s.toBits.toNat 207 200 = s.nl := by unfold bits; omega
  have hnd' : bits s.toBits.toNat 199 192 = s.nd := by unfold bits; omega
  have hfront' : bits s.toBits.toNat 191 160 = s.front := by unfold bits; omega
  have ht : wordAt s.toBits.toNat 4 = s.t := wordAt_eq_of_toNat (by omega)
  have ha : wordAt s.toBits.toNat 0 = a := wordAt_eq_of_toNat (by omega)
  have hb : wordAt s.toBits.toNat 1 = b := wordAt_eq_of_toNat (by omega)
  have hc : wordAt s.toBits.toNat 2 = c := wordAt_eq_of_toNat (by omega)
  have hd : wordAt s.toBits.toNat 3 = d := wordAt_eq_of_toNat (by omega)
  have hchs : (List.range 4).map (wordAt s.toBits.toNat) = s.ch := by
    simp [List.range_succ, ha, hb, hc, hd, hch]
  have hlist : ((List.range s.ents.length).map fun j => s.toBits.extractLsb' (256 + 128 * j) 128) = s.ents :=
    List.ext_getElem (by simp) fun j _ hj => by simpa using hentry hj
  rw [Slot.ofBits, hret, hloge, hlfull, hbn, hlp', hnc', hnl', hnd', hfront', ht, hchs, hlist]

/-! ## Arrival, commit and retirement (R279 to R281) -/

/-- A term is inserted behind every entry whose key is not greater. -/
theorem insertTerm_eq (t : BitVec 128) (l : List (BitVec 128)) :
    insertTerm t l = l.takeWhile (fun q => entKey q ≤ entKey t) ++ t :: l.dropWhile (fun q => entKey q ≤ entKey t) := by
  induction l with
  | nil => rfl
  | cons e l ih => by_cases h : entKey e ≤ entKey t <;> simp [insertTerm, h, ih]

theorem length_insertTerm (t : BitVec 128) (l : List (BitVec 128)) : (insertTerm t l).length = l.length + 1 := by
  induction l with
  | nil => rfl
  | cons e l ih => rw [insertTerm]; split <;> simp [ih]

/-- What one commit of the entry `c` makes of a slot that keeps the entries `rest` and whose commits are not logged
(R280, R281). -/
def Slot.Commits (thr : Word) (late : Bool) (x y : Slot) (c : BitVec 128) (rest : List (BitVec 128)) : Prop :=
  let rnd := rndF32 .nearestEven
  let w := rnd ((f32v x.t).mul (FFmt.f16.decode (entAlpha c)))
  let t := rnd ((f32v x.t).sub .nearestEven (f32v w))
  let out := (f32v t).lt (f32v thr)
  y.t = t ∧
  y.ch = x.ch.zipIdx.map (fun p => rnd (((f32v w).mul (FFmt.f16.decode (entColour c p.2))).add .nearestEven (f32v p.1))) ∧
  y.front = (if late then x.front else entKey c) ∧ y.nc = min 65535 (x.nc + 1) ∧
  y.nl = (if late then min 255 (x.nl + 1) else x.nl) ∧ y.ret = out ∧
  y.ents = (if out then [] else rest) ∧ y.nd = (if out then min 255 (x.nd + rest.length) else x.nd) ∧
  y.lp = x.lp ∧ y.loge = x.loge ∧ y.lfull = x.lfull

/-- What a run that commits, flushes or retires leaves and counts: the unit as it was, no log write, `m` late terms, and,
where it has retired its slot, `n` dropped terms and the cull posted (R281, R282). -/
structure SlotRun.Posts (r q : SlotRun) (m n : Nat) : Prop where
  unit : q.unit = r.unit
  logs : q.logs = r.logs
  late : q.late = r.late + m
  dropped : q.dropped = r.dropped + if q.slot.ret then n else 0
  cull : q.cull = if q.slot.ret then some true else r.cull

theorem SlotRun.Posts.refl {r : SlotRun} (h : r.slot.ret = false) (n : Nat) : r.Posts r 0 n :=
  ⟨rfl, rfl, rfl, by simp [h], by simp [h]⟩

/-- What happens after a run that has not retired its slot. -/
theorem SlotRun.Posts.trans {r q p : SlotRun} {k m n : Nat} (h : r.Posts q k m) (hq : q.slot.ret = false)
    (h' : q.Posts p 0 n) : r.Posts p k n :=
  ⟨h'.unit.trans h.unit, h'.logs.trans h.logs, h'.late.trans h.late, by rw [h'.dropped, h.dropped, hq]; rfl,
    by rw [h'.cull, h.cull, hq]; rfl⟩

/-- The slot after the arithmetic of a commit, before its retirement (R280). -/
def Slot.accumulate (x : Slot) (e : BitVec 128) (late : Bool) : Slot :=
  let w := rndF32 .nearestEven ((f32v x.t).mul (FFmt.f16.decode (entAlpha e)))
  { x with
    ch := x.ch.zipIdx.map fun p =>
      rndF32 .nearestEven (((f32v w).mul (FFmt.f16.decode (entColour e p.2))).add .nearestEven (f32v p.1))
    t := rndF32 .nearestEven ((f32v x.t).sub .nearestEven (f32v w))
    front := if late then x.front else entKey e
    nc := min 65535 (x.nc + 1) }

@[simp] theorem Slot.accumulate_ret (x : Slot) (e : BitVec 128) (late : Bool) : (x.accumulate e late).ret = x.ret := rfl

theorem SlotRun.commit_of_noLog {r : SlotRun} (h : r.slot.loge = false) (e : BitVec 128) (late : Bool) :
    r.commit e late =
      if (f32v (r.slot.accumulate e late).t).lt (f32v r.unit.thr) then
        ({ r with slot := r.slot.accumulate e late } : SlotRun).retire
      else { r with slot := r.slot.accumulate e late } := by
  simp only [SlotRun.commit, Slot.accumulate, h, Bool.false_eq_true, if_false]

/-- A run that commits one of its terms next: a late one is counted, and `rest` is left in the buffer (R279). -/
def SlotRun.taking (r : SlotRun) (late : Bool) (rest : List (BitVec 128)) : SlotRun :=
  { r with
    slot := { r.slot with nl := if late then min 255 (r.slot.nl + 1) else r.slot.nl, ents := rest }
    late := r.late + if late then 1 else 0 }

section
variable (r : SlotRun) (late : Bool) (rest : List (BitVec 128))

@[simp] theorem SlotRun.taking_ret : (r.taking late rest).slot.ret = r.slot.ret := rfl
@[simp] theorem SlotRun.taking_dropped : (r.taking late rest).dropped = r.dropped := rfl
@[simp] theorem SlotRun.taking_cull : (r.taking late rest).cull = r.cull := rfl

end

/-- A commit without a log write, after which T < THR retires the slot. -/
theorem SlotRun.commit_commits {r : SlotRun} (hret : r.slot.ret = false) (hlog : r.slot.loge = false)
    (e : BitVec 128) (late : Bool) (rest : List (BitVec 128)) :
    r.slot.Commits r.unit.thr late ((r.taking late rest).commit e late).slot e rest ∧
      r.Posts ((r.taking late rest).commit e late) (if late then 1 else 0) rest.length := by
  rw [SlotRun.commit_of_noLog (r := r.taking late rest) hlog]
  by_cases hout : (f32v ((r.taking late rest).slot.accumulate e late).t).lt (f32v (r.taking late rest).unit.thr) = true
  case pos =>
    rw [if_pos hout]
    exact ⟨⟨rfl, rfl, rfl, rfl, rfl, hout.symm, (if_pos hout).symm, (if_pos hout).symm, rfl, rfl, rfl⟩,
      ⟨rfl, rfl, rfl, rfl, rfl⟩⟩
  case neg =>
    rw [if_neg hout]
    exact ⟨⟨rfl, rfl, rfl, rfl, rfl, hret.trans (Bool.eq_false_iff.2 hout).symm, (if_neg hout).symm,
      (if_neg hout).symm, rfl, rfl, rfl⟩, ⟨rfl, rfl, rfl, by simp [hret], by simp [hret]⟩⟩

section
variable {thr : Word} {late : Bool} {x y : Slot} {c : BitVec 128} {rest : List (BitVec 128)}

theorem Slot.Commits.ents (h : x.Commits thr late y c rest) : y.ents = if y.ret then [] else rest := by
  obtain ⟨-, -, -, -, -, hret, hents, -⟩ := h
  rw [hents, hret]

theorem Slot.Commits.loge (h : x.Commits thr late y c rest) : y.loge = x.loge := by
  obtain ⟨-, -, -, -, -, -, -, -, -, hloge, -⟩ := h
  exact hloge

theorem Slot.Commits.nd_le (h : x.Commits thr late y c rest) (hout : y.ret = true) : y.nd ≤ 255 := by
  obtain ⟨-, -, -, -, -, hret, -, hnd, -⟩ := h
  rw [hnd, ← hret, if_pos hout]
  exact Nat.min_le_left ..

end

/-! ## Flushing (R288) -/

/-- `n` commits from the front lead from one slot to another, which is retired or empty, and none but the last slot is
retired. -/
def Slot.Flushes (thr : Word) (old new : Slot) (n : Nat) : Prop :=
  ∃ x : Nat → Slot, x 0 = old ∧ x n = new ∧ (new.ret = true ∨ new.ents = []) ∧
    ∀ i, i < n → (x i).ret = false ∧ ∃ c rest, (x i).ents = c :: rest ∧ (x i).Commits thr false (x (i + 1)) c rest

theorem Slot.Flushes.refl (thr : Word) {x : Slot} (h : x.ret = true ∨ x.ents = []) : Slot.Flushes thr x x 0 :=
  ⟨fun _ => x, rfl, rfl, h, nofun⟩

theorem Slot.Flushes.cons {thr : Word} {old mid new : Slot} {c : BitVec 128} {rest : List (BitVec 128)} {n : Nat}
    (hret : old.ret = false) (hents : old.ents = c :: rest) (hc : old.Commits thr false mid c rest)
    (h : Slot.Flushes thr mid new n) : Slot.Flushes thr old new (n + 1) := by
  obtain ⟨x, rfl, hn, hend, hstep⟩ := h
  refine ⟨fun i => i.casesOn old x, rfl, hn, hend, fun i hi => ?_⟩
  cases i with
  | zero => exact ⟨hret, c, rest, hents, hc⟩
  | succ i => exact hstep i (Nat.lt_of_succ_lt_succ hi)

theorem Slot.Flushes.done {thr : Word} {old new : Slot} {n : Nat} (h : Slot.Flushes thr old new n) :
    new.ret = true ∨ new.ents = [] := by
  obtain ⟨-, -, -, hend, -⟩ := h
  exact hend

theorem Slot.Flushes.ents_of_ret {thr : Word} {old new : Slot} {n : Nat} (h : Slot.Flushes thr old new n)
    (hret : old.ret = false) (hnew : new.ret = true) : new.ents = [] ∧ new.nd ≤ 255 := by
  obtain ⟨x, h0, hn, -, hstep⟩ := h
  cases n with
  | zero => rw [← hn, h0, hret] at hnew; cases hnew
  | succ n =>
    obtain ⟨-, c, rest, -, hc⟩ := hstep n (Nat.lt_succ_self n)
    rw [hn] at hc
    exact ⟨by rw [hc.ents, if_pos hnew], hc.nd_le hnew⟩

theorem SlotRun.flush_of_done {r : SlotRun} (h : r.slot.ret = true ∨ r.slot.ents = []) (fuel : Nat) : r.flush fuel = r := by
  cases fuel with
  | zero => rfl
  | succ fuel => rcases h with h | h <;> simp [SlotRun.flush, h]

theorem SlotRun.flush_cons {r : SlotRun} {e : BitVec 128} {l : List (BitVec 128)} (hret : r.slot.ret = false)
    (hents : r.slot.ents = e :: l) (fuel : Nat) :
    r.flush (fuel + 1) = ((r.taking false l).commit e false).flush fuel := by
  simp [SlotRun.flush, SlotRun.taking, hret, hents]

/-- A flush without log writes commits entries from the front until the slot is retired or empty. -/
theorem SlotRun.flush_flushes {r : SlotRun} {fuel : Nat} (hlen : r.slot.ents.length ≤ fuel) (hret : r.slot.ret = false)
    (hlog : r.slot.loge = false) :
    ∃ n, Slot.Flushes r.unit.thr r.slot (r.flush fuel).slot n ∧ r.Posts (r.flush fuel) 0 (r.slot.ents.length - n) := by
  induction fuel generalizing r with
  | zero =>
    have hnil : r.slot.ents = [] := List.eq_nil_of_length_eq_zero (Nat.le_zero.1 hlen)
    exact ⟨0, .refl _ (.inr hnil), .refl hret _⟩
  | succ fuel ih =>
    cases hents : r.slot.ents with
    | nil =>
      rw [SlotRun.flush_of_done (.inr hents)]
      exact ⟨0, .refl _ (.inr hents), .refl hret _⟩
    | cons e l =>
      rw [SlotRun.flush_cons hret hents]
      obtain ⟨hc, hp⟩ := SlotRun.commit_commits hret hlog e false l
      generalize (r.taking false l).commit e false = q at hc hp ⊢
      cases hq : q.slot.ret with
      | true =>
        rw [SlotRun.flush_of_done (.inl hq)]
        exact ⟨1, .cons hret hents hc (.refl _ (.inl hq)), hp⟩
      | false =>
        have hl : q.slot.ents = l := by rw [hc.ents, hq]; rfl
        have hle : q.slot.ents.length ≤ fuel := by rw [hents, List.length_cons] at hlen; rw [hl]; omega
        obtain ⟨n, hf, hp'⟩ := ih hle hq (hc.loge.trans hlog)
        rw [hp.unit] at hf
        rw [hl] at hp'
        refine ⟨n + 1, .cons hret hents hc hf, ?_⟩
        rw [List.length_cons, Nat.add_sub_add_right]
        exact hp.trans hq hp'

/-! ## What entering, reserving and leaving keep of a block -/

/-- `c` is `b` but for its streams, its FIFOs and the operations on their way. -/
def Block.QueuesOnly (b c : Block) : Prop :=
  { c with streams := b.streams, fifos := b.fifos, coming := b.coming } = b

theorem Block.QueuesOnly.trans {b c d : Block} (h : b.QueuesOnly c) (h' : c.QueuesOnly d) : b.QueuesOnly d := by
  unfold Block.QueuesOnly at h h' ⊢
  rw [← h, ← h']

/-- What does not look at the queues is the same of both. -/
theorem Block.QueuesOnly.same {α : Type} {b c : Block} (h : b.QueuesOnly c) (f : Block → α)
    (hf : ∀ (d : Block) st fi co, f { d with streams := st, fifos := fi, coming := co } = f d) : f c = f b := by
  rw [← hf c b.streams b.fifos b.coming, h]

theorem Block.QueuesOnly.handle {b c : Block} (h : b.QueuesOnly c) : c.handle = b.handle :=
  h.same Block.handle fun _ _ _ _ => rfl

theorem Block.queuesOnly_foldl {α : Type} {f : Block → α → Block} (hf : ∀ b a, Block.QueuesOnly b (f b a)) (l : List α)
    (b : Block) : b.QueuesOnly (l.foldl f b) := by
  induction l generalizing b with
  | nil => rfl
  | cons a l ih => exact (hf b a).trans (ih _)

/-- A head reserves its bytes in the FIFOs and stays the head, or has nothing to reserve (R233). -/
theorem Block.reserveHead_cases (b : Block) (spos unit : Nat) : b.reserveHead spos unit = b ∨
    ∃ fs o p os, b.stream (unitKey spos unit) = o :: os ∧ p.id = o.id ∧
      b.reserveHead spos unit = { b with fifos := fs }.setStream (unitKey spos unit) (p :: os) := by
  unfold Block.reserveHead
  split
  next => exact .inl rfl
  next o os hst =>
    split
    next => exact .inl rfl
    next =>
      split
      next => exact .inl rfl
      next f n _ =>
        let r := b.reserve (fifoKey spos f) n
        exact .inr ⟨r.1.fifos, o, { o with resA := some r.2 }, os, hst, rfl, rfl⟩
      next f n g m _ _ =>
        let r := b.reserve (fifoKey spos f) n
        let q := r.1.reserve (fifoKey spos g) m
        exact .inr ⟨q.1.fifos, o, { o with resA := some r.2, resB := some q.2 }, os, hst, rfl, rfl⟩

theorem Block.queuesOnly_reserveHead (b : Block) (spos unit : Nat) : b.QueuesOnly (b.reserveHead spos unit) := by
  obtain h | ⟨fs, o, p, os, -, -, h⟩ := b.reserveHead_cases spos unit <;> rw [h] <;> rfl

theorem Block.queuesOnly_settle (b : Block) (spos : Nat) : b.QueuesOnly (b.settle spos) :=
  Block.queuesOnly_foldl (fun b m => b.queuesOnly_reserveHead spos m) _ b

theorem Block.queuesOnly_leaveHead (b : Block) (spos unit : Nat) : b.QueuesOnly (b.leaveHead spos unit) :=
  Block.QueuesOnly.trans (c := b.setStream _ _) rfl (Block.queuesOnly_settle ..)

theorem Block.queuesOnly_enterAll (spos : Nat) (l : List Arrival) (b : Block) : b.QueuesOnly (Block.enterAll spos b l) := by
  induction l generalizing b with
  | nil => rfl
  | cons a l ih =>
    refine Block.QueuesOnly.trans ?_ (ih _)
    split
    · rfl
    · exact Block.QueuesOnly.trans (c := b.enter spos a.unit a.op) rfl (Block.queuesOnly_settle ..)

theorem Block.queuesOnly_deliver (b : Block) (spos c : Nat) : b.QueuesOnly (b.deliver spos c) :=
  let waiting := b.coming.filter fun (a : Arrival) => !(a.spos == spos && decide (a.due ≤ c))
  Block.QueuesOnly.trans (c := { b with coming := waiting }) rfl (Block.queuesOnly_enterAll ..)

theorem State.queuesOnly_arrived (s : State) (b : Block) (spos : Nat) : b.QueuesOnly (s.arrived b spos) := by
  unfold State.arrived
  split
  next => rfl
  next c _ => exact Block.queuesOnly_deliver b spos c

/-! ## The head leaves its stream -/

@[simp] theorem Block.stream_setStream_self (b : Block) (key : Nat) (l : List StreamOp) :
    (b.setStream key l).stream key = l := sget_sset_self ..

theorem Block.stream_setStream_ids (b : Block) {key : Nat} {l : List StreamOp}
    (h : l.map (·.id) = (b.stream key).map (·.id)) (k : Nat) :
    ((b.setStream key l).stream k).map (·.id) = (b.stream k).map (·.id) := by
  unfold Block.stream Block.setStream at *
  rw [sget_sset]
  split
  next hk => rw [hk, h]
  next => rfl

theorem Block.reserveHead_ids (b : Block) (spos unit k : Nat) :
    ((b.reserveHead spos unit).stream k).map (·.id) = (b.stream k).map (·.id) := by
  obtain h | ⟨fs, o, p, os, hst, hid, h⟩ := b.reserveHead_cases spos unit
  · rw [h]
  · rw [h]
    exact Block.stream_setStream_ids { b with fifos := fs }
      (show _ = (b.stream (unitKey spos unit)).map (·.id) by rw [hst, List.map_cons, List.map_cons, hid]) k

theorem Block.settle_ids (b : Block) (spos k : Nat) : ((b.settle spos).stream k).map (·.id) = (b.stream k).map (·.id) := by
  unfold Block.settle
  generalize List.range 4 = l
  induction l generalizing b with
  | nil => rfl
  | cons m l ih => exact (ih _).trans (b.reserveHead_ids spos m k)

theorem Block.leaveHead_ids (b : Block) (spos unit : Nat) :
    ((b.leaveHead spos unit).stream (unitKey spos unit)).map (·.id) =
      ((b.stream (unitKey spos unit)).drop 1).map (·.id) := by
  rw [Block.leaveHead, Block.settle_ids, Block.stream_setStream_self]

/-! ## An operation is complete -/

theorem State.block?_handle {s : State} {h : Nat} {b : Block} (hb : s.block? h = some b) : b.handle = h := by
  simpa using List.find?_some hb

/-- A block that is written is found again under its handle. -/
theorem State.block?_setBlock {s : State} {b c : Block} {h : Nat} (hb : b.handle = h) (hc : s.block? h = some c) :
    (s.setBlock b).block? h = some b := by
  have hfind : (fun d : Block => (if d.handle == h then b else d).handle == h) = fun d => d.handle == h := by
    funext d; split <;> simp_all
  have hch : (c.handle == h) = true := beq_iff_eq.2 (State.block?_handle hc)
  have hc : s.blocks.find? (fun d => d.handle == h) = some c := hc
  rw [State.block?, State.setBlock, hb, List.find?_map, Function.comp_def, hfind, hc, Option.map_some, if_pos hch]

@[simp] theorem State.finishPart_blocks (s : State) (who : Issuer) (id n : Nat) :
    (s.finishPart who id n).blocks = s.blocks := by
  unfold State.finishPart; split <;> rfl

theorem State.opDone_blocks (s : State) (b : Block) (spos unit : Nat) (o : StreamOp) :
    (s.opDone b spos unit o).blocks = (s.setBlock (b.leaveHead spos unit)).blocks := by
  unfold State.opDone
  dsimp only
  repeat' split
  all_goals simp

theorem State.opDone_mem (s : State) (b : Block) (spos unit : Nat) (o : StreamOp) : (s.opDone b spos unit o).mem = s.mem := by
  unfold State.opDone
  dsimp only
  repeat' split
  all_goals simp

/-! ## An operation of one lane at the head of its stream (R287) -/

theorem lanesOf_one {L : Nat} (hL : L < 32) : lanesOf (1#32 <<< L) = [L] := by
  have h : ∀ L : Fin 32, lanesOf (1#32 <<< L.val) = [L.val] := by decide
  exact h ⟨L, hL⟩

theorem lowLane_one {L : Nat} (hL : L < 32) : lowLane (1#32 <<< L) = some L := by rw [lowLane, lanesOf_one hL]; rfl

/-- The compositor forms but CREAD, which changes no slot, and CREPLAY (R288, R326). -/
inductive ChangesSlot : Instr → Prop
  | cinit (x : CinitOp) : ChangesSlot (.cinit x)
  | cmps (x : CmpsOp) : ChangesSlot (.cmps x)
  | cflush (x : AOnly) : ChangesSlot (.cflush x)
  | cretire (x : CretireOp) : ChangesSlot (.cretire x)

theorem Block.slotOp_one {b : Block} {spos unit : Nat} {o : StreamOp} {L : Nat} (hL : L < 32)
    (hlanes : o.lanes = 1#32 <<< L) (hcfg : alook 32 o.src = none) :
    b.slotOp spos unit o = b.slotLane spos (unitKey spos unit) o.instr (o.srcOf L) [] := by
  simp only [Block.slotOp, StreamOp.cfg, hcfg, hlanes, lanesOf_one hL, List.foldl_cons, List.foldl_nil]

section
variable {s : State} {handle spos unit : Nat} {b0 b c : Block} {o : StreamOp} {os : List StreamOp}
  (hb0 : s.block? handle = some b0) (hb : s.arrived b0 spos = b) (hst : b.stream (unitKey spos unit) = o :: os)
  (hi : ChangesSlot o.instr) (hbegun : o.begun = false) (hparks : s.parks = []) (hbad : s.bad = [])
  (hop : b.slotOp spos unit o = (c, []))
include hb0 hb hst hi hbegun hparks hbad hop

/-- An operation without a log write performs and is complete, where no word of the store is bad. -/
theorem exec_slotHead : ∃ o', exec (.streamOperation handle spos unit) s =
    let d := c.setStream (unitKey spos unit) (o' :: (c.stream (unitKey spos unit)).drop 1)
    .next (((s.setBlock b).setBlock d).opDone d spos unit o') := by
  have hparked : (s.setBlock b).streamParked b.handle (unitKey spos unit) = false := by simp [State.streamParked, hparks]
  refine ⟨{ o with begun := true, logs := [] }, ?_⟩
  change execStreamOperation handle spos unit s = _
  rw [execStreamOperation, hb0]
  generalize h : o.instr = i at hi
  cases hi
  all_goals simp [hb, hst, h, State.slotHead, hparked, hbegun, State.storeBad, State.wroteStore, hbad, hop]

/-- Such an operation leaves its stream, and its block is `c` but for the streams. -/
theorem slotHead_done (hhandle : c.handle = b.handle) (hstreams : c.streams = b.streams) :
    ∃ t b', exec (.streamOperation handle spos unit) s = .next t ∧ s.HeadDone handle spos unit os t b' ∧
      c.QueuesOnly b' := by
  obtain ⟨o', hexec⟩ := exec_slotHead hb0 hb hst hi hbegun hparks hbad hop
  have hstc : c.stream (unitKey spos unit) = o :: os := by rw [← hst, Block.stream, hstreams, Block.stream]
  rw [hstc] at hexec
  generalize hd : c.setStream (unitKey spos unit) (o' :: (o :: os).drop 1) = d at hexec
  have hcd : c.QueuesOnly d := hd ▸ rfl
  have hleave := hcd.trans (d.queuesOnly_leaveHead spos unit)
  have hbh : b.handle = handle := by rw [← hb, (s.queuesOnly_arrived b0 spos).handle, State.block?_handle hb0]
  have hdh : d.handle = handle := by rw [hcd.handle, hhandle, hbh]
  have hlh : (d.leaveHead spos unit).handle = handle := by rw [hleave.handle, hhandle, hbh]
  refine ⟨_, d.leaveHead spos unit, hexec, ⟨?found, ?ids, fun a => ?memory⟩, hleave⟩
  case found =>
    rw [State.block?, State.opDone_blocks]
    exact State.block?_setBlock hlh (State.block?_setBlock hdh (State.block?_setBlock hbh hb0))
  case ids => rw [Block.leaveHead_ids, ← hd, Block.stream_setStream_self]; rfl
  case memory => rw [State.byte, State.opDone_mem]; rfl

end

/-! ## What each form makes of its slot (R279, R288) -/

theorem SlotRun.arrive_drops {r : SlotRun} {term : Option (BitVec 128)} (h : r.slot.ret = true ∨ term = none) :
    r.arrive term = r.drop 1 := by
  cases term with
  | none => rfl
  | some e =>
    have hret : r.slot.ret = true := h.resolve_right nofun
    rw [SlotRun.arrive, if_pos hret]

/-- A timely term arrives where the buffer has room. -/
theorem SlotRun.arrive_buffers {r : SlotRun} {e : BitVec 128} (hret : r.slot.ret = false) (hroom : r.slot.ents.length < 6)
    (hkey : r.slot.front ≤ entKey e) :
    r.arrive (some e) = { r with slot := { r.slot with ents := insertTerm e r.slot.ents } } := by
  have hlen := length_insertTerm e r.slot.ents
  rw [SlotRun.arrive, if_neg (by simp [hret]), if_neg (Nat.not_lt.2 hkey)]
  cases hins : insertTerm e r.slot.ents with
  | nil => rw [hins] at hlen; cases hlen
  | cons c l =>
    have hshort : ¬ (l.length == 6) = true := by
      rw [hins, List.length_cons] at hlen
      rw [beq_iff_eq]; omega
    exact if_neg hshort

/-- A late term is committed, and with six entries buffered the front of the seven is. -/
theorem SlotRun.arrive_commits {r : SlotRun} {e : BitVec 128} (hret : r.slot.ret = false)
    (h : entKey e < r.slot.front ∨ r.slot.ents.length = 6) :
    ∃ c rest, (if entKey e < r.slot.front then c = e ∧ rest = r.slot.ents else c :: rest = insertTerm e r.slot.ents) ∧
      r.arrive (some e) =
        (r.taking (decide (entKey e < r.slot.front)) rest).commit c (decide (entKey e < r.slot.front)) := by
  have hnot : ¬ r.slot.ret = true := by simp [hret]
  by_cases hlate : entKey e < r.slot.front
  case pos =>
    refine ⟨e, r.slot.ents, by rw [if_pos hlate]; exact ⟨rfl, rfl⟩, ?_⟩
    rw [SlotRun.arrive, if_neg hnot, if_pos hlate, decide_eq_true hlate]
    rfl
  case neg =>
    have hlen := length_insertTerm e r.slot.ents
    rw [SlotRun.arrive, if_neg hnot, if_neg hlate, decide_eq_false hlate]
    cases hins : insertTerm e r.slot.ents with
    | nil => rw [hins] at hlen; cases hlen
    | cons c l =>
      have hfull : (l.length == 6) = true := by
        rw [hins, List.length_cons, h.resolve_left hlate] at hlen
        rw [beq_iff_eq]; omega
      exact ⟨c, l, by rw [if_neg hlate], if_pos hfull⟩

/-- CRETIRE with FL = 1 (R288): the flush may retire the slot itself; else it is retired when empty. -/
theorem SlotRun.act_cretire_flush {r : SlotRun} {x : CretireOp} {src : List Word} (hfl : x.fl = true)
    (hlen : r.slot.ents.length ≤ 7) (hret : r.slot.ret = false) (hlog : r.slot.loge = false) :
    let q := r.act (.cretire x) src
    ∃ n mid, Slot.Flushes r.unit.thr r.slot mid n ∧ q.slot = { mid with ret := true, nd := min 255 mid.nd } ∧
      q.slot.ents = [] ∧ q.logs = r.logs ∧ q.late = r.late ∧
      q.dropped = r.dropped + (if mid.ret then r.slot.ents.length - n else 0) ∧ q.cull = some true := by
  obtain ⟨n, hf, hp⟩ := SlotRun.flush_flushes hlen hret hlog
  have hact : r.act (.cretire x) src = if (r.flush 7).slot.ret then r.flush 7 else (r.flush 7).retire := by
    simp [SlotRun.act, hret, hfl]
  rw [hact]
  generalize r.flush 7 = q at hf hp ⊢
  refine ⟨n, q.slot, hf, ?_⟩
  cases hq : q.slot.ret with
  | true =>
    obtain ⟨hents, hnd⟩ := hf.ents_of_ret hret hq
    have hslot : q.slot = { q.slot with ret := true, nd := min 255 q.slot.nd } := by
      rw [Nat.min_eq_right hnd, ← hq]
    have hdropped := hp.dropped
    have hcull := hp.cull
    rw [hq] at hdropped hcull
    exact ⟨hslot, hents, hp.logs, hp.late, hdropped, hcull⟩
  | false =>
    have hents : q.slot.ents = [] := hf.done.resolve_left (by simp [hq])
    exact ⟨by simp [SlotRun.retire, SlotRun.drop, hents], rfl, hp.logs, hp.late,
      by simp [SlotRun.retire, SlotRun.drop, hents, hp.dropped, hq], rfl⟩

/-- CRETIRE with FL = 0 retires its slot at once (R288). -/
theorem SlotRun.act_cretire_retires {r : SlotRun} {x : CretireOp} {src : List Word} (hfl : x.fl = false)
    (hret : r.slot.ret = false) : r.act (.cretire x) src = r.retire := by
  simp [SlotRun.act, hret, hfl]

/-! ## What the block takes from its slot -/

/-- The run of a lane's slot as an operation begins. -/
def SlotRun.start (old : Slot) (idx : Nat) (u : UnitState) : SlotRun := ⟨old, idx, u, [], 0, 0, none⟩

/-- `b'` counts what the run `q` of slot `k` has counted, and its cull bits are as `q` posts that of its slot. -/
structure Block.Counts (b b' : Block) (k : Nat) (q : SlotRun) : Prop where
  late : b'.late = b.late + q.late
  dropped : b'.dropped = b.dropped + q.dropped
  cull_of_none : q.cull = none → b'.cull = b.cull
  cull_of_some : ∀ c, q.cull = some c → sget false b'.cull k = c

/-- A run that commits or flushes, as the block sees it. -/
theorem Block.Counts.of_posts {b b' : Block} {k idx m n : Nat} {q : SlotRun} {old : Slot} {u : UnitState}
    (h : b.Counts b' k q) (hp : (SlotRun.start old idx u).Posts q m n) :
    b'.late = b.late + m ∧ b'.dropped = b.dropped + (if q.slot.ret then n else 0) ∧
      (q.slot.ret = true → sget false b'.cull k = true) ∧ (q.slot.ret = false → b'.cull = b.cull) := by
  refine ⟨?_, ?_, fun hq => h.cull_of_some _ ?_, fun hq => h.cull_of_none ?_⟩
  · rw [h.late, hp.late]; exact congrArg _ (Nat.zero_add m)
  · rw [h.dropped, hp.dropped]; exact congrArg _ (Nat.zero_add _)
  · rw [hp.cull, if_pos hq]
  · rw [hp.cull, hq]; rfl

/-- The outcome of an operation of one lane, with `pre` of it and its slot, on the block and the slot (R287). -/
def SlotAct (s : State) (handle spos unit : Nat) (pre : StreamOp → Slot → Prop)
    (post : Block → Block → StreamOp → Nat → Slot → Slot → Prop) : Prop :=
  ∀ b0 b o os L, s.block? handle = some b0 → s.arrived b0 spos = b → b.stream (unitKey spos unit) = o :: os →
    o.lanes = 1#32 <<< L → L < 32 → o.begun = false → alook 32 o.src = none → s.parks = [] → s.bad = [] →
    let k := slotKey spos ((o.srcOf L).headD 0).toNat
    let old := Slot.ofBits (b.slot k)
    pre o old → ∃ t b' new, exec (.streamOperation handle spos unit) s = .next t ∧
      s.HeadDone handle spos unit os t b' ∧ b'.slot k = new.toBits ∧ (∀ j, j ≠ k → b'.slot j = b.slot j) ∧
      b'.tiles = b.tiles ∧ b'.units = b.units ∧ post b b' o k old new

theorem Slot.length_ents_ofBits (x : BitVec 1024) : (Slot.ofBits x).ents.length ≤ 7 := by
  have h : bits x.toNat 252 250 < 2 ^ (252 + 1 - 250) := Nat.mod_lt _ (Nat.two_pow_pos _)
  simpa [Slot.ofBits] using Nat.le_of_lt_succ h

/-- The block after a run of one of its slots. -/
def Block.takeRun (b : Block) (k : Nat) (q : SlotRun) : Block :=
  { b with
    slots := sset 0 b.slots k q.slot.toBits
    late := b.late + q.late
    dropped := b.dropped + q.dropped
    cull := match q.cull with
      | some c => sset false b.cull k c
      | none => b.cull }

theorem Block.slotLane_eq (b : Block) (spos key : Nat) (i : Instr) (src : List Word) :
    b.slotLane spos key i src [] =
      let idx := (src.headD 0).toNat
      let k := slotKey spos idx
      let q := (SlotRun.start (.ofBits (b.slot k)) idx (b.unit key)).act i src
      (b.takeRun k q, q.logs) := rfl

theorem Block.counts_takeRun (b : Block) (k : Nat) (q : SlotRun) : b.Counts (b.takeRun k q) k q := by
  refine ⟨rfl, rfl, fun h => ?_, fun c h => ?_⟩
  · simp only [Block.takeRun, h]
  · simp only [Block.takeRun, h, sget_sset_self]

theorem Block.slot_takeRun (b : Block) (k : Nat) (q : SlotRun) (j : Nat) :
    (b.takeRun k q).slot j = if j = k then q.slot.toBits else b.slot j := sget_sset ..

theorem Block.Counts.of_queuesOnly {b c d : Block} {k : Nat} {q : SlotRun} (h : b.Counts c k q) (hcd : c.QueuesOnly d) :
    b.Counts d k q := by
  have hcull : d.cull = c.cull := hcd.same Block.cull fun _ _ _ _ => rfl
  exact ⟨(hcd.same Block.late fun _ _ _ _ => rfl).trans h.late, (hcd.same Block.dropped fun _ _ _ _ => rfl).trans h.dropped,
    fun hq => hcull.trans (h.cull_of_none hq), fun c hq => hcull ▸ h.cull_of_some c hq⟩

/-- An operation acts as its run does, where that run writes no log. -/
theorem slotAct_of_run {s : State} {handle spos unit : Nat} {pre : StreamOp → Slot → Prop}
    {post : Block → Block → StreamOp → Nat → Slot → Slot → Prop}
    (h : ∀ b o k old idx, pre o old → old.ents.length ≤ 7 → ∃ q,
      (SlotRun.start old idx (b.unit (unitKey spos unit))).act o.instr (o.srcOf ((lowLane o.lanes).getD 0)) = q ∧
      ChangesSlot o.instr ∧ q.logs = [] ∧ ∀ b', b.Counts b' k q → post b b' o k old q.slot) :
    SlotAct s handle spos unit pre post := by
  intro b0 b o os L hb0 hb hst hlanes hL hbegun hcfg hparks hbad k old hpre
  obtain ⟨q, hq, hi, hlogs, hpost⟩ := h b o k old ((o.srcOf L).headD 0).toNat hpre (Slot.length_ents_ofBits _)
  rw [hlanes, lowLane_one hL, Option.getD_some] at hq
  have hop : b.slotOp spos unit o = (b.takeRun k q, []) := by
    rw [Block.slotOp_one hL hlanes hcfg, Block.slotLane_eq, ← hlogs, ← hq]
  obtain ⟨t, b', hexec, hdone, hrest⟩ := slotHead_done hb0 hb hst hi hbegun hparks hbad hop rfl rfl
  have hslot : ∀ j, b'.slot j = if j = k then q.slot.toBits else b.slot j := fun j =>
    (hrest.same (·.slot j) fun _ _ _ _ => rfl).trans (b.slot_takeRun k q j)
  exact ⟨t, b', q.slot, hexec, hdone, (hslot k).trans (if_pos rfl), fun j hj => (hslot j).trans (if_neg hj),
    hrest.same Block.tiles fun _ _ _ _ => rfl, hrest.same Block.units fun _ _ _ _ => rfl,
    hpost b' ((b.counts_takeRun k q).of_queuesOnly hrest)⟩

/-- Settles O33: a slot is read back as it was written, and each compositor operation is a run of its slot: arrivals,
commits from the front, or a retirement. -/
theorem slotOperationsAct : Obligations.SlotOperationsAct := by
  unfold Obligations.SlotOperationsAct
  refine ⟨fun s hlp hnc hnl hnd hfront hch hents => Slot.Fits.ofBits_toBits ⟨hlp, hnc, hnl, hnd, hfront, hch, hents⟩, ?_⟩
  intro act term noLog drops rnd commits flushes s handle spos unit
  have hact : act = SlotAct := rfl
  rw [hact]
  refine ⟨slotAct_of_run ?cinit, slotAct_of_run ?drops, slotAct_of_run ?buffers, slotAct_of_run ?commits,
    slotAct_of_run ?flushes, slotAct_of_run ?flushRetires, slotAct_of_run ?stays, slotAct_of_run ?retires⟩
  case cinit =>
    rintro b o k old idx ⟨x, hx⟩ -
    exact ⟨_, by rw [hx], hx ▸ .cinit x, rfl, fun b' hc => ⟨x, hx, rfl, hc.cull_of_some _ rfl⟩⟩
  case drops =>
    rintro b o k old idx ⟨⟨x, hx⟩, h⟩ -
    exact ⟨(SlotRun.start old idx (b.unit (unitKey spos unit))).drop 1, by rw [hx]; exact SlotRun.arrive_drops h,
      hx ▸ .cmps x, rfl, fun b' hc => ⟨rfl, hc.dropped, hc.cull_of_none rfl⟩⟩
  case buffers =>
    rintro b o k old idx ⟨⟨x, hx⟩, hret, hroom, e, he, hkey⟩ -
    have hrun := SlotRun.arrive_buffers (r := .start old idx (b.unit (unitKey spos unit))) hret hroom hkey
    refine ⟨{ SlotRun.start old idx (b.unit (unitKey spos unit)) with slot := { old with ents := insertTerm e old.ents } },
      by rw [hx]; exact (congrArg _ he).trans hrun, hx ▸ .cmps x, rfl,
      fun b' hc => ⟨hc.dropped, hc.cull_of_none rfl, e, he, ?_⟩⟩
    rw [insertTerm_eq]
  case commits =>
    rintro b o k old idx ⟨⟨x, hx⟩, hret, hlog, e, he, h⟩ -
    obtain ⟨c, rest, hfront, harrive⟩ :=
      SlotRun.arrive_commits (r := .start old idx (b.unit (unitKey spos unit))) hret h
    obtain ⟨hc, hp⟩ := SlotRun.commit_commits (r := .start old idx (b.unit (unitKey spos unit))) hret hlog c
      (decide (entKey e < old.front)) rest
    rw [insertTerm_eq] at hfront
    refine ⟨_, by rw [hx]; exact (congrArg _ he).trans harrive, hx ▸ .cmps x, hp.logs, fun b' hcount => ?_⟩
    exact ⟨e, c, rest, he, hfront, hc, hcount.of_posts hp⟩
  case flushes =>
    rintro b o k old idx ⟨⟨x, hx⟩, hret, hlog⟩ hlen
    obtain ⟨n, hf, hp⟩ := SlotRun.flush_flushes (r := .start old idx (b.unit (unitKey spos unit))) hlen hret hlog
    exact ⟨_, by rw [hx]; rfl, hx ▸ .cflush x, hp.logs, fun b' hcount => ⟨n, hf, hcount.of_posts hp⟩⟩
  case flushRetires =>
    rintro b o k old idx ⟨⟨x, hx, hfl⟩, hret, hlog⟩ hlen
    obtain ⟨n, mid, hf, hslot, hents, hlogs, hlate, hdropped, hcull⟩ := SlotRun.act_cretire_flush
      (r := .start old idx (b.unit (unitKey spos unit))) (src := o.srcOf ((lowLane o.lanes).getD 0)) hfl hlen hret hlog
    refine ⟨_, by rw [hx], hx ▸ .cretire x, hlogs, fun b' hcount => ⟨n, mid, hf, ?_, hslot, hents, ?_, ?_⟩⟩
    · rw [hcount.late, hlate]; rfl
    · rw [hcount.dropped, hdropped]; exact congrArg _ (Nat.zero_add _)
    · exact hcount.cull_of_some _ hcull
  case stays =>
    rintro b o k old idx h -
    have hpost : ∀ b', b.Counts b' k (.start old idx (b.unit (unitKey spos unit))) →
        old = old ∧ b'.dropped = b.dropped ∧ b'.cull = b.cull :=
      fun b' hc => ⟨rfl, hc.dropped, hc.cull_of_none rfl⟩
    rcases h with ⟨⟨x, hx⟩, h⟩ | ⟨⟨x, hx⟩, hret⟩
    · exact ⟨_, by rw [hx]; exact SlotRun.flush_of_done h 7, hx ▸ .cflush x, rfl, hpost⟩
    · exact ⟨_, by rw [hx]; exact if_pos hret, hx ▸ .cretire x, rfl, hpost⟩
  case retires =>
    rintro b o k old idx ⟨⟨x, hx, hfl⟩, hret⟩ -
    exact ⟨(SlotRun.start old idx (b.unit (unitKey spos unit))).retire,
      by rw [hx]; exact SlotRun.act_cretire_retires hfl hret, hx ▸ .cretire x, rfl,
      fun b' hc => ⟨rfl, hc.dropped.trans (congrArg _ (Nat.zero_add _)), hc.cull_of_some _ rfl⟩⟩

end Sys2Proof.Machine
end

/-! The roster: the resident blocks and the issuers that have a warp. Walks, caches, parking, writes, rings' marks, records
and the end of a run leave it as it is. -/

section
namespace Sys2Proof.Machine

/-! ## Who is resident -/

/-- The resident blocks and the issuers that have a warp. -/
def State.roster (s : State) : List Block × List Issuer := (s.blocks, s.warps.map Prod.fst)

theorem alook_eq_none_iff {κ ν : Type} [DecidableEq κ] {k : κ} {l : List (κ × ν)} :
    alook k l = none ↔ k ∉ l.map Prod.fst := by
  induction l with
  | nil => simp [alook]
  | cons e l ih =>
    obtain ⟨i, u⟩ := e
    by_cases h : i = k
    · simp [alook, h]
    · simp [alook, h, ih, Ne.symm h]

theorem State.warp?_eq_none_iff {s : State} {who : Issuer} : s.warp? who = none ↔ who ∉ s.roster.2 :=
  alook_eq_none_iff

theorem map_fst_aput {κ ν : Type} [DecidableEq κ] {k : κ} {u : ν} (v : ν) {l : List (κ × ν)}
    (h : alook k l = some u) : (aput k v l).map Prod.fst = l.map Prod.fst := by
  induction l with
  | nil => cases h
  | cons e l ih =>
    obtain ⟨i, x⟩ := e
    by_cases hi : i = k
    · simp [aput, hi]
    · simp [aput, hi, ih (by simpa [alook, hi] using h)]

/-- A warp that has a record may change it without anyone entering. -/
theorem State.roster_setWarp {s : State} {who : Issuer} {w : Warp} (h : s.warp? who = some w) (v : Warp) :
    (s.setWarp who v).roster = s.roster :=
  congrArg (Prod.mk s.blocks) (map_fst_aput v h)

/-- Operations that each leave the roster leave it when done in turn. -/
theorem foldl_roster {β : Type} {f : State → β → State} (h : ∀ s b, (f s b).roster = s.roster) (l : List β) :
    ∀ s : State, (l.foldl f s).roster = s.roster := by
  induction l with
  | nil => exact fun _ => rfl
  | cons b l ih => exact fun s => (ih (f s b)).trans (h s b)

theorem ite_roster {c : Prop} [Decidable c] {a b s : State} (ha : a.roster = s.roster) (hb : b.roster = s.roster) :
    (if c then a else b).roster = s.roster := by
  split <;> assumption

theorem ite_fst_roster {α : Type} {c : Prop} [Decidable c] {a b : State × α} {s : State}
    (ha : a.1.roster = s.roster) (hb : b.1.roster = s.roster) : (if c then a else b).1.roster = s.roster := by
  split <;> assumption

theorem ite_answer_roster {α : Type} {c : Prop} [Decidable c] {t s : State} {x : α} {b : State × α}
    (ht : t.roster = s.roster) (hb : b.1.roster = s.roster) : (if c then (t, x) else b).1.roster = s.roster := by
  split <;> assumption

/-- The state that an operation answers, found by matching its answer. -/
theorem roster_of_answer {α : Type} {p : State × α} {t s : State} {a : α} (hp : p = (t, a))
    (h : p.1.roster = s.roster) : t.roster = s.roster := by
  rw [hp] at h; exact h

/-! ### Caches, walks and translation -/

@[simp] theorem State.setDie_roster (s : State) (d : DieId) (x : Die) : (s.setDie d x).roster = s.roster := by
  simp [State.roster]

@[simp] theorem State.setJob_roster (s : State) (j : Job) : (s.setJob j).roster = s.roster := rfl

@[simp] theorem State.store_roster (s : State) (l : Nat) (bs : List Byte) : (s.store l bs).roster = s.roster := rfl

@[simp] theorem State.setOwned_roster (s : State) (d : DieId) (l : Nat) (b : Bool) :
    (s.setOwned d l b).roster = s.roster := rfl

@[simp] theorem State.linkUp_roster (s : State) (d : DieId) : (s.linkUp d).roster = s.roster :=
  ite_roster rfl (s.setDie_roster d _)

@[simp] theorem State.dram_roster (s : State) (d : DieId) (t l n : Nat) : (s.dram d t l n).roster = s.roster :=
  ite_roster rfl (s.setDie_roster d _)

@[simp] theorem State.mscEvict_roster (s : State) (gone : MscLine → Bool) : (s.mscEvict gone).roster = s.roster :=
  foldl_roster (fun s (m : MscLine) => s.dram_roster m.die m.tenant m.line 128) _ s

@[simp] theorem State.mscFill_roster (s : State) (d : DieId) (l t : Nat) (w st : Bool) (bs : List Byte) :
    (s.mscFill d l t w st bs).roster = s.roster := by
  unfold State.mscFill
  split
  · rfl
  · exact State.mscEvict_roster _ _

@[simp] theorem State.mscHome_roster (s : State) (h : DieId) (l t n : Nat) (w no st : Bool) :
    (s.mscHome h l t n w no st).roster = s.roster := by
  unfold State.mscHome
  split
  · exact ite_roster rfl rfl
  · exact ite_roster (by simp) (by simp)

@[simp] theorem State.mscOne_roster (s : State) (d : DieId) (l t n : Nat) (w no st : Bool) :
    (s.mscOne d l t n w no st).roster = s.roster := by
  unfold State.mscOne
  split
  · rfl
  · refine ite_roster (ite_roster (by simp) (by simp)) (ite_roster rfl (ite_roster ?_ ?_))
    · exact (State.setOwned_roster ..).trans (ite_roster (by simp) (by simp))
    · exact ite_roster (by simp) (by simp)

@[simp] theorem State.mscTouch_roster (s : State) (d : DieId) (pa t n : Nat) (w no st : Bool) :
    (s.mscTouch d pa t n w no st).roster = s.roster := by
  unfold State.mscTouch
  generalize linesOf pa n = l
  refine foldl_roster (fun s p => ?_) l s
  exact s.mscOne_roster d p.1 t p.2 w no st

@[simp] theorem State.walkTouch_roster (s : State) (g : Agent) (va : Nat) : (s.walkTouch g va).roster = s.roster := by
  unfold State.walkTouch
  generalize s.walkReads g.die g.tenant va = l
  refine foldl_roster (fun s pa => ?_) l s
  exact s.mscTouch_roster g.die pa g.tenant 8 false false false

@[simp] theorem State.cache_roster (s : State) (g : Agent) (va e : Nat) : (s.cache g va e).roster = s.roster := rfl

theorem State.translate_roster (s : State) (g : Agent) (va : Nat) (p : Perm) :
    (s.translate g va p).1.roster = s.roster := by
  unfold State.translate
  cases s.windowAt g.tenant g.job va with
  | some w => exact ite_fst_roster rfl (ite_fst_roster rfl rfl)
  | none =>
    cases s.cached g va with
    | some e => rfl
    | none =>
      have hwalked := s.walkTouch_roster g va
      cases s.walk g.die g.tenant va with
      | none => exact hwalked
      | some e => exact ite_fst_roster ((State.cache_roster ..).trans hwalked) hwalked

/-! ### Parking, poison and rings' marks -/

/-- Letting parked accesses go on moves no warp in or out. -/
@[simp] theorem State.unpark_roster (s : State) (keep : Park → Bool) : (s.unpark keep).roster = s.roster := by
  refine congrArg (Prod.mk s.blocks) ?_
  simp only [State.unpark, List.map_map]
  refine List.map_congr_left fun p _ => ?_
  simp only [Function.comp_apply]
  split <;> rfl

@[simp] theorem State.rewritten_roster (s : State) (pa n : Nat) : (s.rewritten pa n).roster = s.roster := by
  unfold State.rewritten
  split
  · rfl
  · exact ite_roster rfl (State.unpark_roster _ _)

@[simp] theorem State.finishPart_roster (s : State) (who : Issuer) (id n : Nat) :
    (s.finishPart who id n).roster = s.roster := by
  unfold State.finishPart
  split
  next w hw => exact State.roster_setWarp hw _
  next => rfl

@[simp] theorem State.stampRings_roster (s : State) (k c : Nat) : (s.stampRings k c).roster = s.roster :=
  foldl_roster (fun s d => foldl_roster (fun s _ => ite_roster (s.setDie_roster d _) rfl) _ s) _ s

@[simp] theorem State.setMarks_roster (s : State) (m : RingMarks) (c : Nat) : (s.setMarks m c).roster = s.roster :=
  (foldl_roster (fun s (p : Issuer × Nat × Nat) => s.finishPart_roster p.1 p.2.1 1) _ _).trans (s.stampRings_roster _ _)

@[simp] theorem State.ringsSee_roster (s : State) (pa n : Nat) : (s.ringsSee pa n).roster = s.roster :=
  foldl_roster (fun s m => s.setMarks_roster m _) _ s

@[simp] theorem State.wrote_roster (s : State) (l n : Nat) : (s.wrote l n).roster = s.roster := by
  unfold State.wrote State.wroteAt
  split <;> rfl

@[simp] theorem State.stage_roster (s : State) (x : Xl) (pa n : Nat) : (s.stage x pa n).roster = s.roster := by
  unfold State.stage
  split
  · rfl
  · split <;> rfl

/-! ### Reading and writing for an agent -/

@[simp] theorem State.hostLog_roster (s : State) (g : Agent) (k pa n d : Nat) (ro : Bool) :
    (s.hostLog g k pa n d ro).roster = s.roster := ite_roster rfl rfl

@[simp] theorem State.releaseHost_roster (s : State) (n : Nat) : (s.releaseHost n).roster = s.roster := rfl

@[simp] theorem State.dropL1_roster (s : State) (d : DieId) (c : Nat → Bool) (pa n : Nat) :
    (s.dropL1 d c pa n).roster = s.roster := rfl

@[simp] theorem State.writePa_roster (s : State) (d : Option DieId) (x : Xl) (t : Nat) (ch : Hint) (bs : List Byte) :
    (s.writePa d x t ch bs).roster = s.roster := by
  unfold State.writePa
  refine (foldl_roster (fun s pa => ?_) _ _).trans (ite_roster rfl rfl)
  simp

@[simp] theorem State.tagMirror_roster (s : State) (g : Agent) (x : Xl) : (s.tagMirror g x).roster = s.roster := by
  unfold State.tagMirror
  split
  · rfl
  · exact State.setDie_roster _ _ _

theorem State.readPaged_roster (s : State) (g : Agent) (home : Bool) (va n : Nat) (p : Perm) :
    (s.readPaged g home va n p).1.roster = s.roster := by
  have h := s.translate_roster g va p
  unfold State.readPaged
  split
  next t ht => exact roster_of_answer ht h
  next t x ht =>
    have ht := roster_of_answer ht h
    split
    · exact ht
    · dsimp only
      split
      · exact ht
      · exact (ite_roster (s := t) (by simp) (by simp)).trans ht

theorem State.read1_roster (s : State) (g : Agent) (home : Bool) (va n : Nat) :
    (s.read1 g home va n).1.roster = s.roster := by
  have h := s.readPaged_roster g home va n ⟨true, false, false⟩
  refine ite_fst_roster rfl (ite_fst_roster (ite_fst_roster rfl rfl) ?_)
  split <;> exact roster_of_answer ‹_› h

theorem State.readVa_roster (g : Agent) (home : Bool) (fuel : Nat) :
    ∀ (s : State) (va n : Nat), (s.readVa g home va n fuel).1.roster = s.roster := by
  induction fuel with
  | zero => exact fun _ _ _ => rfl
  | succ fuel ih =>
    intro s va n
    have h := s.read1_roster g home va (firstPiece va n)
    refine ite_fst_roster rfl ?_
    split
    next t a ht =>
      have ht := roster_of_answer ht h
      split
      next u b hu => exact (roster_of_answer hu (ih _ _ _)).trans ht
      next => exact (ih _ _ _).trans ht
    next => exact h

theorem State.load_roster (s : State) (g : Agent) (va n : Nat) : (s.load g va n).1.roster = s.roster :=
  State.readVa_roster g false _ s va n

theorem State.ringAt_roster (s : State) (g : Agent) (va : Nat) : (s.ringAt g va).1.roster = s.roster := by
  have h : (s.loadHome g va 64).1.roster = s.roster := State.readVa_roster g true _ s va 64
  unfold State.ringAt
  split <;> exact roster_of_answer ‹_› h

theorem State.writePaged_roster (s : State) (g : Agent) (va : Nat) (bs : List Byte) (p : Perm) :
    (s.writePaged g va bs p).1.roster = s.roster := by
  have h := s.translate_roster g va p
  unfold State.writePaged
  split
  next t ht => exact roster_of_answer ht h
  next t x ht =>
    have ht := roster_of_answer ht h
    split
    · exact ht
    · refine (foldl_roster (fun s pa => s.dropL1_roster ..) _ _).trans (Eq.trans ?_ ht)
      simp

theorem State.write1_roster (s : State) (g : Agent) (va : Nat) (bs : List Byte) :
    (s.write1 g va bs).1.roster = s.roster :=
  ite_fst_roster rfl (ite_fst_roster (by simp) (s.writePaged_roster ..))

theorem State.writeVa_roster (g : Agent) (fuel : Nat) :
    ∀ (s : State) (va : Nat) (bs : List Byte), (s.writeVa g va bs fuel).1.roster = s.roster := by
  induction fuel with
  | zero => exact fun _ _ _ => rfl
  | succ fuel ih =>
    intro s va bs
    have h := s.write1_roster g va (bs.take (firstPiece va bs.length))
    refine ite_fst_roster rfl ?_
    split
    next t ht => exact (ih _ _ _).trans (roster_of_answer ht h)
    next => exact h

theorem State.save_roster (s : State) (g : Agent) (va : Nat) (bs : List Byte) : (s.save g va bs).1.roster = s.roster :=
  State.writeVa_roster g _ s va bs

theorem State.putRing_roster (s : State) (g : Agent) (va : Nat) (r : Ring) (clear : Bool) :
    (s.putRing g va r clear).1.roster = s.roster :=
  ite_fst_roster (s.save_roster ..) (s.save_roster ..)

theorem State.appendGranule_roster (s : State) (g : Agent) (va : Nat) (granule : List Byte) :
    (s.appendGranule g va granule).1.roster = s.roster := by
  have h := s.ringAt_roster g va
  unfold State.appendGranule
  split
  next t _ _ _ ht => exact roster_of_answer ht h
  next t r ht =>
    have ht := roster_of_answer ht h
    refine (ite_fst_roster rfl (ite_fst_roster rfl (ite_fst_roster rfl ?_)) : _ = t.roster).trans ht
    have hsave := t.save_roster g (r.slot r.claim) granule
    split
    next u hu =>
      have hu := roster_of_answer hu hsave
      dsimp only
      split
      next v hv => exact (State.setMarks_roster _ _ _).trans ((roster_of_answer hv (State.putRing_roster ..)).trans hu)
      all_goals exact (roster_of_answer ‹_› (State.putRing_roster ..)).trans hu
    all_goals exact roster_of_answer ‹_› hsave
  next t _ _ _ ht => exact roster_of_answer ht h

/-! ### Records (R398, R399) -/

@[simp] theorem State.noteWait_roster (s : State) (tenant pa : Nat) : (s.noteWait tenant pa).roster = s.roster := by
  unfold State.noteWait
  split
  · rfl
  · exact s.setDie_roster _ _

theorem State.gate_roster (s : State) (g : Agent) (va : Nat) (write : Bool) : (s.gate g va write).1.roster = s.roster :=
  ite_fst_roster rfl (ite_fst_roster rfl (foldl_roster (fun s pa => s.noteWait_roster g.tenant pa) _ s))

@[simp] theorem State.raise_roster (s : State) (t v : Nat) : (s.raise t v).roster = s.roster := rfl

@[simp] theorem State.tdrop_roster (s : State) (d : DieId) (t : Nat) : (s.tdrop d t).roster = s.roster :=
  s.setDie_roster d _

@[simp] theorem State.parkErr_roster (s : State) (d : DieId) (t p r c : Nat) : (s.parkErr d t p r c).roster = s.roster :=
  ite_roster rfl (State.setDie_roster _ _ _)

/-- The answers of the memory controllers and of the ring are made opaque first: the kernel would else evaluate them to
compare the bindings of the definition. -/
theorem State.flushOne_roster (s : State) (d : DieId) (t : Nat) : (s.flushOne d t).1.roster = s.roster := by
  unfold State.flushOne
  split
  · rfl
  next h hh =>
    extract_lets drop g va noRing failed stuck gated
    have hdrop : ∀ u, (drop u).roster = u.roster := fun u => u.setDie_roster d _
    have hnoRing : ∀ u, (noRing u).roster = u.roster := fun u =>
      (State.raise_roster ..).trans (((drop u).tdrop_roster d t).trans (hdrop u))
    have hfailed : ∀ u, (failed u).roster = u.roster := fun u => ((drop u).tdrop_roster d t).trans (hdrop u)
    have hstuck : ∀ u p r c, (stuck u p r c).1.roster = u.roster := fun u p r c =>
      ite_answer_roster (hfailed u) (u.parkErr_roster d t p r c)
    have hring := s.ringAt_roster g va
    have hgate : s.gate g va false = gated := rfl
    have hgated := hgate ▸ s.gate_roster g va false
    clear_value gated stuck failed noRing drop va g
    refine ite_answer_roster (hnoRing s) (ite_fst_roster rfl (ite_answer_roster hgated ?_))
    split
    next u _ _ _ hu => exact (hstuck ..).trans (roster_of_answer hu hring)
    next u r hu =>
      refine Eq.trans ?_ (roster_of_answer hu hring)
      have hgated := u.gate_roster g (r.slot r.claim) true
      have happ := u.appendGranule_roster g va (u.heldBytes d h)
      generalize u.gate g (r.slot r.claim) true = gated at hgated ⊢
      refine ite_answer_roster (hnoRing u) (ite_answer_roster hgated ?_)
      split
      next v hv =>
        exact (State.raise_roster ..).trans ((State.setDie_roster ..).trans ((hdrop v).trans (roster_of_answer hv happ)))
      next v _ _ _ hv => exact (hstuck ..).trans (roster_of_answer hv happ)
      next v _ hv => exact (hfailed v).trans (roster_of_answer hv happ)
      next v _ hv => exact (hnoRing v).trans (roster_of_answer hv happ)
      next v hv => exact roster_of_answer hv happ
    next u _ _ _ hu => exact (hfailed u).trans (roster_of_answer hu hring)

theorem State.flush_roster (d : DieId) (t fuel : Nat) : ∀ s : State, (s.flush d t fuel).roster = s.roster := by
  induction fuel with
  | zero => exact fun _ => rfl
  | succ fuel ih =>
    intro s
    have h := s.flushOne_roster d t
    unfold State.flush
    split
    next u hu => exact (ih u).trans (roster_of_answer hu h)
    next u hu => exact roster_of_answer hu h

@[simp] theorem State.post_roster (s : State) (d : DieId) (t : Nat) (ws : List Nat) (p r : Nat) :
    (s.post d t ws p r).roster = s.roster :=
  ite_roster (s.setDie_roster d _) ((State.flush_roster d t 65 _).trans (s.setDie_roster d _))

@[simp] theorem State.parkFor_roster (s : State) (no : Nat) (who : Waiter) (g : Agent) (n p r c : Nat) :
    (s.parkFor no who g n p r c).roster = s.roster :=
  ite_roster rfl (State.post_roster ..)

@[simp] theorem State.queueItem_roster (s : State) (d : DieId) (i : PercItem) : (s.queueItem d i).roster = s.roster :=
  s.bump.setDie_roster d _

@[simp] theorem State.holdFor_roster (s : State) (no : Nat) (d : DieId) (g : Agent) (i : PercItem) (p r c : Nat) :
    (s.holdFor no d g i p r c).roster = s.roster := by
  simp [State.holdFor]

theorem State.writeDone_roster (s : State) (d : DieId) (r : DoneRec) : (s.writeDone d r).roster = s.roster := by
  unfold State.writeDone
  extract_lets g x refused sent gated
  have hgate : s.gate g r.va true = gated := rfl
  have hgated := hgate ▸ s.gate_roster g r.va true
  have hsave := s.save_roster g r.va (toBytes 16 x)
  clear_value gated refused x g
  refine ite_roster (s.queueItem_roster d _) (ite_roster ((gated.1.queueItem_roster d _).trans hgated) ?_)
  split
  next u hu =>
    exact (State.raise_roster ..).trans ((u.releaseHost_roster _).trans (roster_of_answer hu hsave))
  next u _ _ _ hu =>
    refine Eq.trans ?_ (roster_of_answer hu hsave)
    exact ite_roster ((State.raise_roster ..).trans (u.post_roster ..)) (u.holdFor_roster ..)
  next u _ _ _ hu =>
    exact (State.raise_roster ..).trans ((u.post_roster ..).trans (roster_of_answer hu hsave))

theorem State.complete_roster (s : State) (j : Job) (k i : Nat) : (s.complete j k i).roster = s.roster :=
  ite_roster (ite_roster rfl rfl) (s.writeDone_roster ..)

/-! ### Publish windows and totals (R223, R465, R447) -/

theorem State.restoreStage_roster (s : State) (j : Job) (i : Nat) : (s.restoreStage j i).roster = s.roster := by
  unfold State.restoreStage
  exact (State.setJob_roster _ _).trans
    (foldl_roster (fun s _ => foldl_roster (fun s _ => s.store_roster _ _) _ s) _ s)

theorem State.putPub_roster (s : State) (d : DieId) (t n desc : Nat) (b : Bool) :
    (s.putPub d t n desc b).roster = s.roster := by
  unfold State.putPub
  extract_lets g wait gated
  have hwait : ∀ u p r c, (wait u p r c).roster = u.roster := fun u p r c => ite_roster rfl (u.holdFor_roster ..)
  have hgate : s.gate g (desc + 16) true = gated := rfl
  have hgated := hgate ▸ s.gate_roster g (desc + 16) true
  have hload := s.load_roster g (desc + 16) 1
  clear_value gated wait g
  refine ite_roster ((gated.1.queueItem_roster d _).trans hgated) ?_
  split
  next u x _ hu =>
    have hsave := u.save_roster g (desc + 16) [if b then x ||| 1 else x &&& 0xFE#8]
    refine Eq.trans ?_ (roster_of_answer hu hload)
    split
    next v _ _ _ hv => exact (hwait ..).trans (roster_of_answer hv hsave)
    next v _ _ hv => exact roster_of_answer hv hsave
  next u _ _ _ hu => exact (hwait ..).trans (roster_of_answer hu hload)
  next u _ _ _ hu => exact roster_of_answer hu hload

theorem State.writePub_roster (s : State) (j : Job) : (s.writePub j).roster = s.roster :=
  foldl_roster (fun s (w : Window) => s.putPub_roster j.die j.tenant j.no w.desc w.pub) _ s

theorem State.dropStage_roster (s : State) (job : Nat) : (s.dropStage job).roster = s.roster := by
  unfold State.dropStage
  split
  · rfl
  next j _ =>
    extract_lets u
    have hu : u.roster = s.roster := by
      refine foldl_roster (fun s k => ?_) _ s
      split
      · exact s.restoreStage_roster _ _
      · rfl
    clear_value u
    split
    · exact (u.writePub_roster _).trans hu
    · exact hu

theorem State.addSums_roster (s : State) (job i : Nat) (bs : List Block) : (s.addSums job i bs).roster = s.roster := by
  unfold State.addSums
  split
  · rfl
  · split <;> rfl

theorem State.dropRecs_roster (s : State) (p : CtxRec → Bool) : (s.dropRecs p).roster = s.roster :=
  s.unpark_roster _

theorem State.dropCtx_roster (s : State) (job i : Nat) : (s.dropCtx job i).roster = s.roster :=
  (State.dropRecs_roster _ _).trans (s.addSums_roster ..)

theorem State.postTotals_roster (s : State) (j : Job) (i : Inst) (t : Nat) : (s.postTotals j i t).roster = s.roster :=
  ite_roster rfl (s.post_roster ..)

theorem State.endRun_roster (s : State) (job i : Nat) : (s.endRun job i).roster = s.roster := by
  unfold State.endRun
  split
  · rfl
  next j _ =>
    split
    · rfl
    next i' _ =>
      extract_lets t u v
      have hu : u.roster = s.roster := s.postTotals_roster ..
      have hv : v.roster = u.roster := by
        unfold v
        split
        · exact u.complete_roster ..
        · rfl
      clear_value u v
      refine ite_roster ?_ rfl
      split <;> exact hv.trans hu

theorem State.owe_roster (s : State) (job i k : Nat) : (s.owe job i k).roster = s.roster := by
  unfold State.owe
  split
  · rfl
  · split
    · rfl
    · exact s.complete_roster ..
    · rfl

end Sys2Proof.Machine
end

/-! Traps of a warp and of a sequencer (R163, R390 to R397): what the handler finds, and what a fault leaves of its job. -/

section
namespace Sys2Proof.Machine

/-! ## Entering the handler (R163, R392, R393) -/

/-- The save holds g0 to g6. -/
theorem Warp.g7_eq (w : Warp) : w.g7 = (List.range 7).map fun k => w.word (384 + k) 0 := by
  refine List.map_congr_left fun k _ => ?_
  rw [Warp.word, if_neg (by omega), Nat.add_sub_cancel_left]

/-- The registers that describe the rest of the trap: the high half of the detail, the WSW and the PC. -/
theorem State.inHandler_describes (s : State) (who : Issuer) (w : Warp) (b : Block) (cause : Nat) (lanes : Mask)
    (detail : Nat) (pc : Pc) :
    let v := s.inHandler who w b cause lanes detail pc
    v.word 387 0 = BitVec.ofNat 32 (detail / 2 ^ 32) ∧ v.word 388 0 = w.wsw (s.parkedWarp who w) ∧
      v.word 389 0 = BitVec.ofNat 32 (pc.toNat * 16) ∧ v.word 390 0 = BitVec.ofNat 32 (pc.toNat * 16 / 2 ^ 32) := by
  have hg : ∀ k, k < 7 → (s.inHandler who w b cause lanes detail pc).word (384 + k) 0 =
      (w.trapWords (s.parkedWarp who w) cause lanes detail pc).getD k 0 :=
    fun k hk => w.word_putG hk 0
  refine ⟨hg 3 (by omega), hg 4 (by omega), (hg 5 (by omega)).trans ?_, hg 6 (by omega)⟩
  simp [Warp.trapWords, wordAt]

/-! ## A job leaves (R344, R397) -/

theorem State.forget_roster (s : State) (job : Nat) : (s.forget job).roster = s.roster :=
  State.dropRecs_roster _ _

theorem State.leave_roster (s : State) (job : Nat) : (s.leave job).roster = s.roster := by
  have hforget := s.forget_roster job
  unfold State.leave
  extract_lets u
  have hu : u.roster = s.roster := hforget
  clear_value u
  split
  · exact hu
  next j _ =>
    extract_lets v
    have hv : v.roster = s.roster := (ite_roster rfl (u.writePub_roster j)).trans hu
    clear_value v
    exact ite_roster hv hv

/-- A job that is still known after it has left is gone: only its stopped blocks keep it. -/
theorem State.leave_gone {s : State} {job : Nat} {k : Job} (hk : (s.leave job).job? job = some k) : k.gone = true := by
  unfold State.leave at hk
  extract_lets u at hk
  split at hk
  next hnone => exact absurd (hnone.symm.trans hk) nofun
  next j hj =>
    extract_lets v at hk
    have hid : j.id = job := by simpa using List.find?_some hj
    have hkid : k.id = job := by simpa using List.find?_some hk
    have hmem := List.mem_of_find?_eq_some hk
    split at hk
    next hstay =>
      rw [if_pos hstay] at hmem
      obtain ⟨c, -, rfl⟩ := List.mem_map.1 hmem
      by_cases hc : (c.id == j.id) = true
      · simp [hc]
      · rw [if_neg hc] at hkid
        exact absurd (beq_iff_eq.2 (hkid.trans hid.symm)) hc
    next hgo =>
      rw [if_neg hgo] at hmem
      simp [hkid] at hmem

/-! ## Stopping a job's blocks (R397) -/

theorem State.holdCores_roster (s : State) (l : List (DieId × Nat)) : (s.holdCores l).roster = s.roster :=
  foldl_roster (fun s (c : DieId × Nat) => ite_roster (s.setDie_roster c.1 _) rfl) l s

/-- A block that has been stopped at once. -/
def Block.stopped (b : Block) : Block :=
  { b with
    halted := true, cut := none, stopReq := none, coming := []
    streams := b.streams.map fun p => (p.1, p.2.filter (·.begun)) }

/-- Stopping blocks takes their warps away and leaves the blocks, halted. -/
theorem State.stopBlocks_roster (s : State) (hs : List Nat) : (s.stopBlocks hs).roster =
    (s.blocks.map (fun b => if hs.contains b.handle then b.stopped else b),
      (s.warps.filter fun p => !ofBlocks hs p.1).map Prod.fst) :=
  (State.holdCores_roster _ _).trans (State.unpark_roster _ _)

theorem State.handle_mem_blocksOfJob {s : State} {c : Block} (hc : c ∈ s.blocks) :
    c.handle ∈ (s.blocks.filter fun b => b.job == c.job).map (·.handle) :=
  List.mem_map.2 ⟨c, List.mem_filter.2 ⟨hc, beq_self_eq_true _⟩, rfl⟩

/-- No warp of the job's blocks is left. -/
theorem State.not_mem_stopJob {s : State} {c : Block} (hc : c ∈ s.blocks) (n : Nat) :
    .warp c.handle n ∉ (s.stopJob c.job).roster.2 := by
  rw [State.stopJob, State.stopBlocks_roster]
  intro hmem
  obtain ⟨p, hp, he⟩ := List.mem_map.1 hmem
  have hout := (List.mem_filter.1 hp).2
  simp [he, ofBlocks, State.handle_mem_blocksOfJob hc] at hout

/-- Every block of the job is halted. -/
theorem State.halted_of_mem_stopJob {s : State} {job : Nat} {c : Block} (hc : c ∈ (s.stopJob job).roster.1)
    (hjob : c.job = job) : c.halted = true := by
  rw [State.stopJob, State.stopBlocks_roster] at hc
  obtain ⟨b, hb, rfl⟩ := List.mem_map.1 hc
  by_cases hin : (List.map (·.handle) (s.blocks.filter fun b => b.job == job)).contains b.handle = true
  · rw [if_pos hin]; rfl
  · rw [if_neg hin] at hjob
    subst hjob
    exact absurd (List.contains_iff_mem.2 (State.handle_mem_blocksOfJob hb)) hin

/-- A fault stops the job's blocks, lets no one in, and makes the job leave. -/
theorem State.faultJob_leaves {s : State} {job : Nat} {j : Job} {record : State → State} (hj : s.job? job = some j)
    (hgone : j.gone = false) (hrecord : ∀ u, (record u).roster = u.roster) :
    ∃ u : State, s.faultJob job record = u.leave job ∧ u.roster = (s.stopJob job).roster := by
  unfold State.faultJob
  simp only [hj, hgone, Bool.false_eq_true, if_false]
  refine ⟨_, rfl, ?_⟩
  refine (foldl_roster (fun s (i : Inst) => (State.endRun_roster ..).trans (s.dropCtx_roster job i.no)) _ _).trans ?_
  exact (State.owe_roster ..).trans ((hrecord _).trans (State.dropStage_roster _ _))

/-- A trap that finds no handler, or meets its warp in it, faults the job with its record of kind 2 (R395, R397). -/
theorem State.takeTrap_faults {s : State} {h wid : Nat} {w : Warp} {b : Block} {j : Job}
    (hw : s.warp? (.warp h wid) = some w) (hb : s.block? h = some b) (hv : w.frozen ≠ none ∨ kdTrapv b.kd = false)
    (hj : s.job? b.job = some j) (cause : Nat) (lanes : Mask) (detail : Nat) (pc : Pc) :
    s.takeTrap (.warp h wid) cause lanes detail pc = s.faultJob b.job fun u => u.post j.die j.tenant
      [2 * 2 ^ 56 + j.tenant * 2 ^ 52 + (if j.die then 2 ^ 51 else 0) + j.no % 65536 * 2 ^ 32 +
          (cause + if w.frozen = none then 0 else 256) % 2 ^ 32,
        pc.toNat * 16, lanes.toNat, b.no % 2 ^ 32 + wid % 65536 * 2 ^ 32 + w.core % 256 * 2 ^ 48, detail,
        (u.die j.die).dtime] 0 0 := by
  have hfault : (w.frozen.isSome || !kdTrapv b.kd) = true := by
    rcases hv with hf | hv
    · simp [Option.isSome_iff_ne_none.2 hf]
    · simp [hv]
  have hdouble : (if w.frozen.isSome = true then 256 else 0) = if w.frozen = none then 0 else 256 := by
    cases w.frozen <;> rfl
  simp only [State.takeTrap, State.faultTrap, hw, hb, hj, hfault, if_true, hdouble, word0, State.now]

/-! ## The obligation -/

/-- Settles O17: entry saves g0 to g6 and writes them anew. A fault stops the job's blocks first, and nothing that follows,
from its staged writes to its departure, changes the roster, so its warps stay gone and its blocks halted. -/
theorem trapEntryFreezesAndDescribes : Obligations.TrapEntryFreezesAndDescribes := by
  refine ⟨?_, fun s cause lanes detail pc => ⟨?_, fun q => ⟨?_, fun _ => rfl⟩⟩⟩
  · intro s h wid w b cause lanes detail pc hw hb hf hv
    obtain ⟨hlanes, hcause, hlow, hrest⟩ := s.inHandler_words (.warp h wid) w b cause lanes detail pc
    obtain ⟨hhigh, hwsw, hpc, hpcHigh⟩ := s.inHandler_describes (.warp h wid) w b cause lanes detail pc
    exact ⟨_, State.takeTrap_enters hw hb hf hv cause lanes detail pc, w.g7_eq ▸ State.inHandler_frozen .., rfl, rfl,
      rfl, hlanes, hcause, hlow, hhigh, hwsw, hpc, hpcHigh, hrest, rfl, rfl, rfl, rfl, rfl, rfl, rfl, rfl⟩
  · intro h wid w b j hw hb hv hj hgone t
    have ht := State.takeTrap_faults hw hb hv hj cause lanes detail pc
    obtain ⟨u, hu, hroster⟩ := State.faultJob_leaves hj hgone (record := _) fun u => u.post_roster ..
    have htu : t = u.leave b.job := ht.trans hu
    have hres : t.roster = (s.stopJob b.job).roster := (congrArg _ htu).trans ((u.leave_roster _).trans hroster)
    have hblocks : t.blocks = (s.stopJob b.job).roster.1 := congrArg Prod.fst hres
    refine ⟨ht, fun c hc hjob n => State.warp?_eq_none_iff.2 ?_, fun c hc => ?_, fun k hk => ?_⟩
    · rw [hres, ← hjob]
      exact State.not_mem_stopJob hc n
    · exact State.halted_of_mem_stopJob (hblocks ▸ hc)
    · exact State.leave_gone (htu ▸ hk)
  · simp [State.takeTrap, State.seq, State.setSeq]

end Sys2Proof.Machine
end
